-- ==== Sys2Proof/Word.lean ====
section
/-!
DEFINITION. The word types of the machine (R15, R28, R97): bytes, 32-bit words and registers, 64-bit addresses.
-/

namespace Sys2Proof

/-- One byte. -/
abbrev Byte := BitVec 8

/-- A 32-bit instruction word or register. -/
abbrev Word := BitVec 32

/-- A 64-bit address, pair or counter. -/
abbrev DWord := BitVec 64

end Sys2Proof
end

