-- ==== Sys2Proof/Config.lean ====
section
/-!
DEFINITION. What one package and its surroundings fix, and the free values of the model: constants without a body, so
that no proof can see what they are (notes/assumptions name each). The fixed figures of the XG1640 stand here too
(R343, R344).
-/

namespace Sys2Proof.Config

/-- Free choice between the moves that are possible in one step: the spec leaves their interleaving open. Applied to
the counter `State.free`. -/
opaque pick : Nat → Nat

/-- Nanoseconds of pod time that pass in one step of the machine; clock counts are out of scope. -/
opaque elapsedNs : Nat → Nat

/-- Core clocks that pass in one step of the machine, as event counter 0x00 counts them (R425). -/
opaque elapsedClocks : Nat → Nat

/-- Bits 56 to 26 of the address at which a scratchpad window begins, which the spec leaves to dispatch (R124, R170).
Applied to the counter `State.free`. -/
opaque windowBase : Nat → BitVec 31

/-- How far a matrix unit stands before the governor's next boundary when it enters Stopping (R357), and the clocks for
which it stalls at a row (R279): clock counts are out of scope. -/
opaque stepPhase : Nat → Nat
opaque stallClocks : Nat → Nat

/-- What the special-function unit returns where R155 fixes only a bound, by function code and operand. A value outside
the bound is not used. -/
opaque sfuValue : Nat → BitVec 32 → BitVec 32

/-- Base of the package's gate table in protected memory (R416), which the spec leaves to the package. -/
opaque gateTableBase : Nat

/-- Base of the package's session descriptors in protected memory (R426), 512 bytes apart, which the spec leaves open. -/
opaque sessionBase : Nat

/-- The link key and the firmware's key of each stack that bring-up programs (R433), by die. -/
opaque bootLinkKey : Nat → BitVec 128
opaque bootKey : Nat → BitVec 256

/-- Whether firmware has power-gated a function's idle quads (R418), at a step: the spec does not say when it does. -/
opaque quadsGated : Nat → Nat → Bool

/-- A digest (SHA-256, R360, R418) and a signature (SLH-DSA-SHA2-128f, R360, R418) of a list of bytes under a key. -/
opaque digest : List Byte → BitVec 384
opaque signature : Nat → List Byte → List Byte

/-- The public part of the device's meter key, whose digest a batch names (R360). -/
opaque meterPublicKey : List Byte

/-- What a debug token must answer to a nonce (R432): whether the token is signed for a
package serial and a nonce. -/
opaque tokenValid : BitVec 256 → BitVec 64 → BitVec 64 → Bool

/-- The package serial, which is fused (R432). -/
opaque serial : BitVec 64

/-- The measurements of the firmware images (R418): blocks 1 and 2, and block 3 by function. -/
opaque measurement : Nat → Nat → BitVec 384

/-- The bodies of the SPDM answers whose contents the spec leaves to SPDM (R418), by response code; code 2 is the
certificate chain. -/
opaque spdmBody : Nat → List Byte

/-- The nonces that the device issues for debug tokens (R432). -/
opaque nonce : Nat → BitVec 64

/-- A ciphertext byte that an access without the right key reads (R414): by key slot, address and stored byte. -/
opaque cipherByte : Nat → Nat → Byte → Byte

/-- How many of a pod's two `.pod` barrier instances the gangs of other packages hold (R322), at a free number. -/
opaque podHeld : Nat → Nat

/-- Beads at OP7 of the 27 weight classes, in class order (R343). -/
def weights7 : List Nat :=
  [16, 8, 4, 10, 24, 1, 3, 0, 6, 40, 160, 640, 164, 16384, 40960, 49152, 7864, 4100, 2150, 1966, 40, 256, 32, 64,
   256, 1024, 4096]

/-- Voltage of each operating point in hundredths of a volt (R344). -/
def voltage : List Nat := [55, 58, 61, 64, 67, 70, 74, 78]

/-- Clock of each operating point in MHz (R344). -/
def clockMHz : List Nat := [175, 250, 325, 400, 475, 550, 625, 700]

/-- R344. The weight of a class at an operating point: w7 × (V / 0.78)², one half rounding up. -/
def weight (op cls : Nat) : Nat :=
  let v := voltage.getD op 78
  (2 * weights7.getD cls 0 * v * v + 78 * 78) / (2 * 78 * 78)

end Sys2Proof.Config
end

