-- ==== Sys2Proof/Syntax.lean ====
section
/-!
DEFINITION. The instruction syntax: one constructor for each row of spec/opcode_table.json. The first 196 are the
instruction words of R46 to R55, each with the fields of its encoding (chain bit `c` of R28 included). The rest are
the events of the package, with the plain data that says where each one happens. A number named `g` is a global
strand slot number (R7), `q` a global quarter number (core number × 4 + quarter), `die`, `core`, `part` and `ctx`
are the numbers of R7, R398 and R400.
-/

namespace Sys2Proof

/-- The access to SF that an SF_ACCESS event makes (R126): a USR into s(d), or a USW of the value. -/
inductive SfOp where
  | read (d : BitVec 8)
  | write (v : BitVec 32)
  deriving DecidableEq, Repr

/-- A step of a barrier instance (R325). A join names the register that receives the generation (R328). -/
inductive BarOp where
  | arrive
  | drop
  | join
  deriving DecidableEq, Repr

/-- A firmware write to one field of a context energy block (R345). -/
inductive EnergyWrite where
  | level (v : Int)
  | cap (v : Nat)
  | refill (v : Nat)
  | quantum (v : Nat)
  | eopok (v : Bool)
  | tenant (v : BitVec 32)
  deriving DecidableEq, Repr

/-- The firmware command that defines a partition (R398): its quads (die × 8 + quad), operating point and MAXOP, and
the hold limit in microseconds when the command names one. -/
structure PartDef where
  part : Nat
  quads : List Nat
  op : Nat
  maxop : Nat
  holdLimit : Option Nat
  deriving DecidableEq, Repr

/-- The mailbox command that creates a context (R400). -/
structure CtxDef where
  ctx : Nat
  func : Nat
  part : Nat
  root : Nat
  keys : List Nat
  comp : Bool
  prot : Bool
  energyAddr : Nat
  schedAddr : Nat
  trapAddr : Nat
  taskCap : Nat
  deriving DecidableEq, Repr

/-- A field of a queue control block that a guest or host write names (R401), or the PF's assignment of the interface:
its function in bits 5:0, its index within it in 17:6, and in 29:18 the context it serves when bit 30 is set. DESIGN
CHOICE (log 149): the spec names no command for the assignment. -/
inductive QcbField where
  | ringBase | cplBase | lsize | esz | kind | pasid | ctx | vector | tail | head | assigned
  deriving DecidableEq, Repr

/-- A storage structure in which an uncorrectable read is found, with the place of the failed data (R412). -/
inductive EccUnit where
  | hbmLine (line : Nat)
  | scData (line : Nat)
  | scTag (line : Nat)
  | coreTlb (core : Nat)
  | dieTlb (die : Nat)
  | holdTable (slice : Nat)
  | storeQueue (core : Nat)
  | sfrq (core : Nat)
  | vectorFile (g : Nat)
  | uniformFile (g : Nat)
  | tile (q t : Nat)
  | spadBank (core off : Nat)
  | l1 (core : Nat)
  | icache (core : Nat)
  deriving DecidableEq, Repr

/-- What power-on bring-up finds and programs (R422, R423, R433): whether the monitor image verifies, the dies whose
stack or boundaries fail their training, the link key and key slot 0 of each stack in order, the operator's pod
configuration, the pod ports that come up, and pod time. -/
structure BringUp where
  verified : Bool
  untrained : List Nat
  linkKeys : List (BitVec 128)
  firmwareKeys : List (BitVec 256)
  num : Nat
  capMaster : Nat
  routes : List (Nat × List Nat)
  ports : List Nat
  podTime : BitVec 64
  deriving DecidableEq, Repr

/-- What a scan command reads of a frozen package (R432): the chain of a strand slot, of a core, of a quarter or of a die,
or device memory through a base die's test port. DESIGN CHOICE (log 164): the spec names no chains. -/
inductive ScanCmd where
  | strand (g : Nat)
  | core (c : Nat)
  | quarter (q : Nat)
  | die (d : Nat)
  | memory (addr len : Nat)
  deriving DecidableEq, Repr

/-- A transaction of a host agent, or of the firmware, on device memory (R243); a write carries its bytes. -/
structure HostTxn where
  firmware : Bool
  write : Bool
  addr : Nat
  data : List (BitVec 8)
  len : Nat
  deriving DecidableEq, Repr

/-- One entry of a counter session as its opener writes it (R426). -/
structure SessionEntryDef where
  unit : Nat
  event : Nat
  value : Nat
  deriving DecidableEq, Repr

/-- The session descriptor that a function opens (R426). -/
structure SessionDef where
  func : Nat
  ctx : Nat
  strandRd : Bool
  vector : Nat
  ven : Bool
  reservedZero : Bool
  entries : List SessionEntryDef
  deriving DecidableEq, Repr

/-- What ends a gang's launch from another member: ABORT (R378), or, where `lost` is set, GANG_LOST (R409). -/
structure GangEnd where
  launch : Nat
  lost : Bool
  deriving DecidableEq, Repr

/-- One direction of the link of a die's stack (R415): from the stack where `up` is set, and to it otherwise. -/
structure LinkWay where
  die : Nat
  up : Bool
  deriving DecidableEq, Repr

inductive Instr where
  /-- R33. The all-zero word issues on the U pipe, has no effect and is charged only the issue-group weight. -/
  | unop
  /-- R127. Uniform add modulo 2^w. -/
  | uadd (c : Bool) (d : BitVec 8) (a : BitVec 8) (b : BitVec 8)
  /-- R127. Uniform subtract modulo 2^w. -/
  | usub (c : Bool) (d : BitVec 8) (a : BitVec 8) (b : BitVec 8)
  /-- R127. Uniform multiply, low half of the product. -/
  | umul (c : Bool) (d : BitVec 8) (a : BitVec 8) (b : BitVec 8)
  /-- R127. Uniform signed multiply, high half of the product. -/
  | umulhI (c : Bool) (d : BitVec 8) (a : BitVec 8) (b : BitVec 8)
  /-- R127. Uniform unsigned multiply, high half of the product. -/
  | umulhN (c : Bool) (d : BitVec 8) (a : BitVec 8) (b : BitVec 8)
  /-- R127. Uniform bitwise AND. -/
  | uand (c : Bool) (d : BitVec 8) (a : BitVec 8) (b : BitVec 8)
  /-- R127. Uniform bitwise OR. -/
  | uor (c : Bool) (d : BitVec 8) (a : BitVec 8) (b : BitVec 8)
  /-- R127. Uniform bitwise XOR. -/
  | uxor (c : Bool) (d : BitVec 8) (a : BitVec 8) (b : BitVec 8)
  /-- R127. Uniform a AND NOT b. -/
  | uandn (c : Bool) (d : BitVec 8) (a : BitVec 8) (b : BitVec 8)
  /-- R127. Uniform logical shift left. -/
  | ushl (c : Bool) (d : BitVec 8) (a : BitVec 8) (b : BitVec 8)
  /-- R127. Uniform logical shift right. -/
  | ushr (c : Bool) (d : BitVec 8) (a : BitVec 8) (b : BitVec 8)
  /-- R127. Uniform arithmetic shift right. -/
  | usar (c : Bool) (d : BitVec 8) (a : BitVec 8) (b : BitVec 8)
  /-- R127. Uniform signed minimum. -/
  | uminI (c : Bool) (d : BitVec 8) (a : BitVec 8) (b : BitVec 8)
  /-- R127. Uniform unsigned minimum. -/
  | uminN (c : Bool) (d : BitVec 8) (a : BitVec 8) (b : BitVec 8)
  /-- R127. Uniform signed maximum. -/
  | umaxI (c : Bool) (d : BitVec 8) (a : BitVec 8) (b : BitVec 8)
  /-- R127. Uniform unsigned maximum. -/
  | umaxN (c : Bool) (d : BitVec 8) (a : BitVec 8) (b : BitVec 8)
  /-- R127. Uniform signed set-less-than. -/
  | usltI (c : Bool) (d : BitVec 8) (a : BitVec 8) (b : BitVec 8)
  /-- R127. Uniform unsigned set-less-than. -/
  | usltN (c : Bool) (d : BitVec 8) (a : BitVec 8) (b : BitVec 8)
  /-- R127. Uniform set-equal. -/
  | useq (c : Bool) (d : BitVec 8) (a : BitVec 8) (b : BitVec 8)
  /-- R128. Adds an immediate to a uniform register. -/
  | uaddi (c : Bool) (d : BitVec 8) (i : BitVec 16)
  /-- R128. Moves an immediate into a uniform register. -/
  | umovi (c : Bool) (d : BitVec 8) (i : BitVec 16)
  /-- R128. Loads IMM16 into the upper half of a uniform register. -/
  | ului (c : Bool) (d : BitVec 8) (i : BitVec 16)
  /-- R129. Uniform count of leading zeros. -/
  | uclz (c : Bool) (d : BitVec 8) (a : BitVec 8)
  /-- R129. Uniform population count. -/
  | upopc (c : Bool) (d : BitVec 8) (a : BitVec 8)
  /-- R129. Uniform bit reversal. -/
  | ubrev (c : Bool) (d : BitVec 8) (a : BitVec 8)
  /-- R129. Uniform sign extension from 8 bits. -/
  | usext8 (c : Bool) (d : BitVec 8) (a : BitVec 8)
  /-- R129. Uniform sign extension from 16 bits. -/
  | usext16 (c : Bool) (d : BitVec 8) (a : BitVec 8)
  /-- R129. Uniform negation. -/
  | uneg (c : Bool) (d : BitVec 8) (a : BitVec 8)
  /-- R129. Uniform absolute value. -/
  | uabs (c : Bool) (d : BitVec 8) (a : BitVec 8)
  /-- R130. Uniform bit-field extract under a field control word. -/
  | ubfe (c : Bool) (d : BitVec 8) (a : BitVec 8) (b : BitVec 8)
  /-- R130. Uniform bit-field insert under a field control word. -/
  | ubfi (c : Bool) (d : BitVec 8) (a : BitVec 8) (b : BitVec 8)
  /-- R131. Uniform FP32 add, rounded by RNE. -/
  | ufadd (c : Bool) (d : BitVec 8) (a : BitVec 8) (b : BitVec 8)
  /-- R131. Uniform FP32 multiply, rounded by RNE. -/
  | ufmul (c : Bool) (d : BitVec 8) (a : BitVec 8) (b : BitVec 8)
  /-- R131. Uniform FP32 set-less-than. -/
  | ufslt (c : Bool) (d : BitVec 8) (a : BitVec 8) (b : BitVec 8)
  /-- R132. Uniform load of 4 to 32 bytes with scoreboarded destinations. -/
  | uld (c : Bool) (d : BitVec 8) (a : BitVec 8) (o : BitVec 8)
  /-- R132. Uniform store enqueued to the store queue and translated later. -/
  | ust (c : Bool) (d : BitVec 8) (a : BitVec 8) (o : BitVec 8)
  /-- R125. Reads a system register into a uniform register. -/
  | usr (c : Bool) (d : BitVec 8) (a : BitVec 8)
  /-- R125. Writes a uniform register to a system register, with field checks. -/
  | usw (c : Bool) (d : BitVec 8) (a : BitVec 8)
  /-- R88. A USW to RSP_LO, RSP_HI or RSDEPTH first spills every held return address, then writes. -/
  | returnStackRegisterWrite (r : BitVec 8) (v : BitVec 32)
  /-- R125. A USW to RNGKEY_LO or RNGKEY_HI writes the key and zeroes the generator counter. -/
  | rngkeyWrite (r : BitVec 8) (v : BitVec 32)
  /-- R126. A USR or USW naming SF waits for the rod and pending special-function results, then reads or replaces the flags. -/
  | sfAccess (op : SfOp)
  /-- R39. Uniform prefix that extends register numbers, width and immediate of the next U word. -/
  | upfx (d : BitVec 2) (a : BitVec 2) (b : BitVec 2) (w : BitVec 2) (i : BitVec 16)
  /-- R37. Vector prefix that supplies mask, rounding or scope, zero mode or ordering, widths and a fourth operand. -/
  | vpfx (m : BitVec 3) (r : BitVec 3) (z : BitVec 1) (d : BitVec 2) (a : BitVec 2) (b : BitVec 2) (c : BitVec 8)
  /-- R141. Vector integer add. -/
  | vadd (c : Bool) (d : BitVec 8) (a : BitVec 8) (b : BitVec 8)
  /-- R141. Vector integer subtract. -/
  | vsub (c : Bool) (d : BitVec 8) (a : BitVec 8) (b : BitVec 8)
  /-- R141. Vector integer multiply, low 32 bits. -/
  | vmul (c : Bool) (d : BitVec 8) (a : BitVec 8) (b : BitVec 8)
  /-- R141. Vector signed multiply, high 32 bits. -/
  | vmulhI (c : Bool) (d : BitVec 8) (a : BitVec 8) (b : BitVec 8)
  /-- R141. Vector unsigned multiply, high 32 bits. -/
  | vmulhN (c : Bool) (d : BitVec 8) (a : BitVec 8) (b : BitVec 8)
  /-- R141. Vector integer multiply-add with the fourth operand from VPFX C. -/
  | vmad (c : Bool) (d : BitVec 8) (a : BitVec 8) (b : BitVec 8)
  /-- R141. Vector bitwise AND. -/
  | vand (c : Bool) (d : BitVec 8) (a : BitVec 8) (b : BitVec 8)
  /-- R141. Vector bitwise OR. -/
  | vor (c : Bool) (d : BitVec 8) (a : BitVec 8) (b : BitVec 8)
  /-- R141. Vector bitwise XOR. -/
  | vxor (c : Bool) (d : BitVec 8) (a : BitVec 8) (b : BitVec 8)
  /-- R141. Vector a AND NOT b. -/
  | vandn (c : Bool) (d : BitVec 8) (a : BitVec 8) (b : BitVec 8)
  /-- R141. Vector shift left. -/
  | vshl (c : Bool) (d : BitVec 8) (a : BitVec 8) (b : BitVec 8)
  /-- R141. Vector logical shift right. -/
  | vshr (c : Bool) (d : BitVec 8) (a : BitVec 8) (b : BitVec 8)
  /-- R141. Vector arithmetic shift right. -/
  | vsar (c : Bool) (d : BitVec 8) (a : BitVec 8) (b : BitVec 8)
  /-- R141. Vector signed minimum. -/
  | vminI (c : Bool) (d : BitVec 8) (a : BitVec 8) (b : BitVec 8)
  /-- R141. Vector unsigned minimum. -/
  | vminN (c : Bool) (d : BitVec 8) (a : BitVec 8) (b : BitVec 8)
  /-- R141. Vector signed maximum. -/
  | vmaxI (c : Bool) (d : BitVec 8) (a : BitVec 8) (b : BitVec 8)
  /-- R141. Vector unsigned maximum. -/
  | vmaxN (c : Bool) (d : BitVec 8) (a : BitVec 8) (b : BitVec 8)
  /-- R142. Vector bit-field extract. -/
  | vbfe (c : Bool) (d : BitVec 8) (a : BitVec 8) (b : BitVec 8)
  /-- R142. Vector bit-field insert. -/
  | vbfi (c : Bool) (d : BitVec 8) (a : BitVec 8) (b : BitVec 8)
  /-- R143. Vector select between two sources by a mask register. -/
  | vsel (c : Bool) (d : BitVec 8) (a : BitVec 8) (b : BitVec 8)
  /-- R144. Vector signed compare writing a mask register. -/
  | vcmpI (c : Bool) (k : BitVec 3) (m : BitVec 3) (a : BitVec 8) (b : BitVec 8)
  /-- R144. Vector unsigned compare writing a mask register. -/
  | vcmpN (c : Bool) (k : BitVec 3) (m : BitVec 3) (a : BitVec 8) (b : BitVec 8)
  /-- R144. Vector FP32 compare writing a mask register. -/
  | vfcmpF32 (c : Bool) (k : BitVec 3) (m : BitVec 3) (a : BitVec 8) (b : BitVec 8)
  /-- R146. Vector count of leading zeros. -/
  | vclz (c : Bool) (d : BitVec 8) (a : BitVec 8)
  /-- R146. Vector population count. -/
  | vpopc (c : Bool) (d : BitVec 8) (a : BitVec 8)
  /-- R146. Vector bit reversal. -/
  | vbrev (c : Bool) (d : BitVec 8) (a : BitVec 8)
  /-- R146. Vector sign extension from 8 bits. -/
  | vsext8 (c : Bool) (d : BitVec 8) (a : BitVec 8)
  /-- R146. Vector sign extension from 16 bits. -/
  | vsext16 (c : Bool) (d : BitVec 8) (a : BitVec 8)
  /-- R146. Vector integer negation. -/
  | vneg (c : Bool) (d : BitVec 8) (a : BitVec 8)
  /-- R146. Vector integer absolute value. -/
  | vabs (c : Bool) (d : BitVec 8) (a : BitVec 8)
  /-- R146. Vector move of a register group, bit for bit. -/
  | vmov (c : Bool) (d : BitVec 8) (a : BitVec 8)
  /-- R147. Vector FP32 add. -/
  | vfaddF32 (c : Bool) (d : BitVec 8) (a : BitVec 8) (b : BitVec 8)
  /-- R147. Vector FP32 subtract. -/
  | vfsubF32 (c : Bool) (d : BitVec 8) (a : BitVec 8) (b : BitVec 8)
  /-- R147. Vector FP32 multiply. -/
  | vfmulF32 (c : Bool) (d : BitVec 8) (a : BitVec 8) (b : BitVec 8)
  /-- R147. Vector FP32 fused multiply-add. -/
  | vfmaF32 (c : Bool) (d : BitVec 8) (a : BitVec 8) (b : BitVec 8)
  /-- R147. Vector FP32 minimum by MinMax. -/
  | vfminF32 (c : Bool) (d : BitVec 8) (a : BitVec 8) (b : BitVec 8)
  /-- R147. Vector FP32 maximum by MinMax. -/
  | vfmaxF32 (c : Bool) (d : BitVec 8) (a : BitVec 8) (b : BitVec 8)
  /-- R148. Packed FP16 add. -/
  | vfaddF16x2 (c : Bool) (d : BitVec 8) (a : BitVec 8) (b : BitVec 8)
  /-- R148. Packed FP16 multiply. -/
  | vfmulF16x2 (c : Bool) (d : BitVec 8) (a : BitVec 8) (b : BitVec 8)
  /-- R148. Packed FP16 fused multiply-add. -/
  | vfmaF16x2 (c : Bool) (d : BitVec 8) (a : BitVec 8) (b : BitVec 8)
  /-- R148. Packed BF16 add. -/
  | vfaddBf16x2 (c : Bool) (d : BitVec 8) (a : BitVec 8) (b : BitVec 8)
  /-- R148. Packed BF16 multiply. -/
  | vfmulBf16x2 (c : Bool) (d : BitVec 8) (a : BitVec 8) (b : BitVec 8)
  /-- R148. Packed BF16 fused multiply-add. -/
  | vfmaBf16x2 (c : Bool) (d : BitVec 8) (a : BitVec 8) (b : BitVec 8)
  /-- R149. Two-lane FP16 dot product into FP32 with optional addend. -/
  | vdot2F16 (c : Bool) (d : BitVec 8) (a : BitVec 8) (b : BitVec 8)
  /-- R149. Two-lane BF16 dot product into FP32 with optional addend. -/
  | vdot2Bf16 (c : Bool) (d : BitVec 8) (a : BitVec 8) (b : BitVec 8)
  /-- R150. Clears the FP32 sign bit. -/
  | vfabs (c : Bool) (d : BitVec 8) (a : BitVec 8)
  /-- R150. Inverts the FP32 sign bit. -/
  | vfneg (c : Bool) (d : BitVec 8) (a : BitVec 8)
  /-- R150. Classifies an FP32 operand into a one-hot class. -/
  | vfclass (c : Bool) (d : BitVec 8) (a : BitVec 8)
  /-- R150. Rounds an FP32 value to an integral value by RM. -/
  | vfrnd (c : Bool) (d : BitVec 8) (a : BitVec 8)
  /-- R151. Converts between the fixed formats, optionally saturating. -/
  | vcvt (c : Bool) (d : BitVec 8) (a : BitVec 8) (x : BitVec 1) (s : BitVec 3) (t : BitVec 3)
  /-- R152. Converts FP32 into one narrow-format lane of the destination. -/
  | vqcvt (c : Bool) (d : BitVec 8) (a : BitVec 8) (l : BitVec 3) (f : BitVec 3)
  /-- R153. Expands one narrow-format lane to FP32. -/
  | vqexp (c : Bool) (d : BitVec 8) (a : BitVec 8) (l : BitVec 3) (f : BitVec 3)
  /-- R155. Special-function reciprocal. -/
  | vrcp (c : Bool) (d : BitVec 8) (a : BitVec 8)
  /-- R155. Special-function reciprocal square root. -/
  | vrsq (c : Bool) (d : BitVec 8) (a : BitVec 8)
  /-- R155. Special-function square root. -/
  | vsqrt (c : Bool) (d : BitVec 8) (a : BitVec 8)
  /-- R155. Special-function base-2 exponential. -/
  | vexp2 (c : Bool) (d : BitVec 8) (a : BitVec 8)
  /-- R155. Special-function base-2 logarithm. -/
  | vlog2 (c : Bool) (d : BitVec 8) (a : BitVec 8)
  /-- R155. Special-function sine. -/
  | vsin (c : Bool) (d : BitVec 8) (a : BitVec 8)
  /-- R155. Special-function cosine. -/
  | vcos (c : Bool) (d : BitVec 8) (a : BitVec 8)
  /-- R155. Special-function hyperbolic tangent. -/
  | vtanh (c : Bool) (d : BitVec 8) (a : BitVec 8)
  /-- R156. Each slot reads a register of the slot its index names. -/
  | vshfl (c : Bool) (d : BitVec 8) (a : BitVec 8) (b : BitVec 8)
  /-- R157. Rotates values among the active slots. -/
  | vrot (c : Bool) (d : BitVec 8) (a : BitVec 8) (b : BitVec 8)
  /-- R158. Reduces a register over the active slots and writes the result to each. -/
  | vredu (c : Bool) (d : BitVec 8) (a : BitVec 8) (f : BitVec 8)
  /-- R159. Transposes octet elements within groups of slots. -/
  | vtrans (c : Bool) (d : BitVec 8) (a : BitVec 8) (e : BitVec 2)
  /-- R161. Writes one generator draw per active slot. -/
  | vrand (c : Bool) (d : BitVec 8)
  /-- R216. Global vector load, translated slot by slot. -/
  | vld (c : Bool) (d : BitVec 8) (a : BitVec 8) (o : BitVec 8)
  /-- R217. Global vector store enqueued for later translation. -/
  | vst (c : Bool) (d : BitVec 8) (a : BitVec 8) (o : BitVec 8)
  /-- R180. Scratchpad vector load. -/
  | vlds (c : Bool) (d : BitVec 8) (a : BitVec 8) (o : BitVec 8)
  /-- R180. Scratchpad vector store. -/
  | vsts (c : Bool) (d : BitVec 8) (a : BitVec 8) (o : BitVec 8)
  /-- R219. Global returning atomic performed at the home slice slot by slot. -/
  | vatom (c : Bool) (d : BitVec 8) (a : BitVec 8) (s : BitVec 3) (r : BitVec 1) (p : BitVec 4)
  /-- R220. Global non-returning reduction, combining when relaxed. -/
  | vred (c : Bool) (d : BitVec 8) (a : BitVec 8) (s : BitVec 3) (r : BitVec 1) (p : BitVec 4)
  /-- R181. Scratchpad returning atomic at the bank atomic unit. -/
  | vatoms (c : Bool) (d : BitVec 8) (a : BitVec 8) (s : BitVec 3) (r : BitVec 1) (p : BitVec 4)
  /-- R221. Global compare-and-swap at the home slice. -/
  | vcas (c : Bool) (d : BitVec 8) (a : BitVec 8) (b : BitVec 8)
  /-- R182. Scratchpad compare-and-swap. -/
  | vcass (c : Bool) (d : BitVec 8) (a : BitVec 8) (b : BitVec 8)
  /-- R183. Waits for full, loads and sets empty, slot by slot. -/
  | vldfe (c : Bool) (d : BitVec 8) (a : BitVec 8) (o : BitVec 8)
  /-- R183. Waits for empty, stores and sets full, slot by slot. -/
  | vstef (c : Bool) (d : BitVec 8) (a : BitVec 8) (o : BitVec 8)
  /-- R218. Prefetches lines into L1 or the shared cache. -/
  | vpref (c : Bool) (l : BitVec 1) (a : BitVec 8) (o : BitVec 8)
  /-- R273. Loads at the home slice without granules or held stores. -/
  | vldpk (c : Bool) (d : BitVec 8) (a : BitVec 8) (o : BitVec 8)
  /-- R184. Sets full/empty bits to empty and wakes waiters. -/
  | vspfeEmpty (c : Bool) (a : BitVec 8)
  /-- R184. Sets full/empty bits to full and wakes waiters. -/
  | vspfeFull (c : Bool) (a : BitVec 8)
  /-- R184. Reads full/empty bits into a vector register. -/
  | vspfeGet (c : Bool) (d : BitVec 8) (a : BitVec 8)
  /-- R285. Matrix multiply-accumulate into a tile from two layout words. -/
  | mma (c : Bool) (t : BitVec 2) (f : BitVec 6) (a : BitVec 8) (b : BitVec 8)
  /-- R291. Zeroes the selected rows of a tile in tile order. -/
  | mzero (c : Bool) (t : BitVec 2)
  /-- R292. Moves a tile column block into vector registers. -/
  | mtov (c : Bool) (t : BitVec 2) (k : BitVec 3) (a : BitVec 8)
  /-- R292. Moves vector registers into a tile column block. -/
  | mfromv (c : Bool) (t : BitVec 2) (k : BitVec 3) (a : BitVec 8)
  /-- R293. Drains a tile to a global tensor through the copy engine. -/
  | mdrain (c : Bool) (t : BitVec 2) (a : BitVec 8) (x : BitVec 1) (h : BitVec 4)
  /-- R294. Reads the row progress and state of a tile. -/
  | mrp (c : Bool) (t : BitVec 2) (a : BitVec 8)
  /-- R307. Copies a global tensor box into scratchpad. -/
  | cpyG2s (c : Bool) (h : BitVec 4) (a : BitVec 8)
  /-- R307. Copies scratchpad into a global tensor box. -/
  | cpyS2g (c : Bool) (h : BitVec 4) (a : BitVec 8)
  /-- R307. Adds scratchpad data into a global tensor box. -/
  | cpyS2gAdd (c : Bool) (h : BitVec 4) (a : BitVec 8)
  /-- R307. Copies global to global with one shape. -/
  | cpyG2g (c : Bool) (h : BitVec 4) (a : BitVec 8)
  /-- R307. Copies scratchpad to scratchpad. -/
  | cpyS2s (c : Bool) (h : BitVec 4) (a : BitVec 8)
  /-- R309. Copies global to global across compartments through a gate. -/
  | cpyGate (c : Bool) (h : BitVec 4) (a : BitVec 8)
  /-- R310. Points the copy engine at a list of requests in scratchpad. -/
  | ckick (c : Bool) (h : BitVec 4) (a : BitVec 8) (b : BitVec 8)
  /-- R317. Waits for a handle, returns its status and empties it. -/
  | hwait (c : Bool) (d : BitVec 8) (h : BitVec 4)
  /-- R317. Returns a handle's status without changing it. -/
  | htest (c : Bool) (d : BitVec 8) (h : BitVec 4)
  /-- R318. Requests cancellation of a pending request. -/
  | hcancel (c : Bool) (h : BitVec 4)
  /-- R317. Moves one handle to another. -/
  | hmove (c : Bool) (g : BitVec 4) (h : BitVec 4)
  /-- R319. Exports a handle as a token. -/
  | hexport (c : Bool) (d : BitVec 8) (h : BitVec 4)
  /-- R319. Imports a token into a handle. -/
  | himport (c : Bool) (g : BitVec 4) (a : BitVec 8)
  /-- R313. Initialises a byte barrier. -/
  | bbinit (c : Bool) (d : BitVec 8) (a : BitVec 8)
  /-- R313. Adds to a byte barrier's EXPECT and settles. -/
  | bbexpect (c : Bool) (d : BitVec 8) (a : BitVec 8)
  /-- R313. Adds to a byte barrier's ARRIVED and settles. -/
  | bbarrive (c : Bool) (d : BitVec 8) (a : BitVec 8)
  /-- R313. Waits until a byte barrier shows the named phase. -/
  | bbwait (c : Bool) (d : BitVec 8) (a : BitVec 8)
  /-- R313. Reads a byte barrier's phase and remaining bytes. -/
  | bbtest (c : Bool) (d : BitVec 8) (a : BitVec 8)
  /-- R86. Conditional branch by packet offset. -/
  | br (c : Bool) (a : BitVec 8) (k : BitVec 3) (o : BitVec 13)
  /-- R86. Unconditional jump by packet offset. -/
  | jmp (c : Bool) (o : BitVec 24)
  /-- R86. Pushes the return address and jumps. -/
  | call (c : Bool) (o : BitVec 24)
  /-- R86. Decrements a counter and branches while non-zero. -/
  | loop (c : Bool) (d : BitVec 8) (i : BitVec 16)
  /-- R86. Pops a return address and transfers to it. -/
  | ret (c : Bool)
  /-- R86. Register-indirect branch. -/
  | bri (c : Bool) (a : BitVec 8)
  /-- R86. Register-indirect call. -/
  | calli (c : Bool) (a : BitVec 8)
  /-- R90. Switch point that deprioritises the strand for 32 clocks. -/
  | yield (c : Bool)
  /-- R91. Drains stores, drops barriers, commits sets and reclaims the strand's resources. -/
  | exit (c : Bool)
  /-- R395. Returns from the trap handler, restoring state and resuming. -/
  | tret (c : Bool)
  /-- R93. Waits until every earlier store of the strand has been translated. -/
  | sdrain (c : Bool)
  /-- R236. Orders the strand's accesses at a scope and kind. -/
  | fence (c : Bool) (s : BitVec 3) (k : BitVec 2)
  /-- R95. Raises a precise TRAP_INSN trap with a code. -/
  | trap (c : Bool) (d : BitVec 8)
  /-- R96. Copies a mask into a uniform register. -/
  | mget (c : Bool) (d : BitVec 8) (a : BitVec 3)
  /-- R96. Sets a mask from a uniform register ANDed with LIVE. -/
  | mset (c : Bool) (d : BitVec 3) (a : BitVec 8)
  /-- R96. ANDs one mask into another. -/
  | mand (c : Bool) (d : BitVec 3) (a : BitVec 3)
  /-- R96. ANDs the complement of one mask into another. -/
  | mandn (c : Bool) (d : BitVec 3) (a : BitVec 3)
  /-- R96. ORs one mask into another. -/
  | mor (c : Bool) (d : BitVec 3) (a : BitVec 3)
  /-- R96. XORs one mask into another, within LIVE. -/
  | mxor (c : Bool) (d : BitVec 3) (a : BitVec 3)
  /-- R96. Sets a mask to LIVE. -/
  | mlive (c : Bool) (d : BitVec 3)
  /-- R96. Counts the bits of a mask. -/
  | mpopc (c : Bool) (d : BitVec 8) (a : BitVec 3)
  /-- R96. Returns the lowest set bit of a mask. -/
  | mfirst (c : Bool) (d : BitVec 8) (a : BitVec 3)
  /-- R96. Sets one live bit of a mask. -/
  | mput (c : Bool) (d : BitVec 3) (a : BitVec 8)
  /-- R96. Returns and clears the lowest set bit of a mask. -/
  | mtake (c : Bool) (d : BitVec 8) (a : BitVec 3)
  /-- R328. Arrives at a barrier and waits for its generation to pass. -/
  | bar (c : Bool) (s : BitVec 3) (n : BitVec 5)
  /-- R328. Arrives at a barrier and returns the generation. -/
  | bara (c : Bool) (s : BitVec 3) (n : BitVec 5) (a : BitVec 8)
  /-- R328. Waits until a barrier generation has passed. -/
  | barw (c : Bool) (s : BitVec 3) (n : BitVec 5) (a : BitVec 8)
  /-- R328. Drops from a barrier. -/
  | bard (c : Bool) (s : BitVec 3) (n : BitVec 5)
  /-- R328. Joins a barrier and returns the first generation counted. -/
  | barj (c : Bool) (s : BitVec 3) (n : BitVec 5) (a : BitVec 8)
  /-- R334. Enqueues a task record into the context's task queue. -/
  | spawn (c : Bool) (d : BitVec 8) (a : BitVec 8)
  /-- R336. Blocking push onto a bounded queue. -/
  | qpush (c : Bool) (d : BitVec 8) (a : BitVec 8)
  /-- R336. Blocking pop from a bounded queue. -/
  | qpop (c : Bool) (d : BitVec 8) (a : BitVec 8)
  /-- R336. Non-blocking push onto a bounded queue. -/
  | qtrypush (c : Bool) (d : BitVec 8) (a : BitVec 8)
  /-- R336. Non-blocking pop from a bounded queue. -/
  | qtrypop (c : Bool) (d : BitVec 8) (a : BitVec 8)
  /-- R338. Raises a timeline to a value, as a release at pod scope. -/
  | tlsig (c : Bool) (d : BitVec 8) (a : BitVec 8)
  /-- R338. Waits until a timeline reaches a threshold. -/
  | tlwait (c : Bool) (d : BitVec 8) (a : BitVec 8)
  /-- R338. Reads a timeline as an acquire. -/
  | tlread (c : Bool) (d : BitVec 8) (a : BitVec 8)
  /-- R340. Starts a collective described by a record, completing through a handle. -/
  | coll (c : Bool) (h : BitVec 4) (a : BitVec 8)
  /-- R270. Defines a set slot from four uniform registers. -/
  | asdef (c : Bool) (n : BitVec 2) (a : BitVec 8)
  /-- R270. Acquires a run of granules of one set. -/
  | astouch (c : Bool) (d : BitVec 8) (a : BitVec 8)
  /-- R270. Returns the strand's age stamp. -/
  | asage (c : Bool) (d : BitVec 8)
  /-- R271. Returns the set status of an address. -/
  | asq (c : Bool) (d : BitVec 8) (a : BitVec 8)
  /-- R270. Rolls the task back and delays its restart. -/
  | asretry (c : Bool) (a : BitVec 8)
  /-- R365. Reads an energy account, purse or weight value. -/
  | erd (c : Bool) (d : BitVec 8) (a : BitVec 8)
  /-- R366. Reads a bucket field of the context. -/
  | ebkt (c : Bool) (d : BitVec 8) (a : BitVec 8)
  /-- R367. Requests a change of the partition's operating point. -/
  | eop (c : Bool) (d : BitVec 8) (a : BitVec 8)
  /-- R430. Reads an entry of the context's strand-readable counter session. -/
  | cntrd (c : Bool) (d : BitVec 8) (a : BitVec 8)
  /-- R430. Reads context time. -/
  | tstamp (c : Bool) (d : BitVec 8)
  /-- R394. Reads a word of the trap record in a handler. -/
  | trd (c : Bool) (d : BitVec 8) (a : BitVec 8)
  /-- R394. Writes a word of the trap record in a handler. -/
  | twr (c : Bool) (d : BitVec 8) (a : BitVec 8)
  /-- R25. A packet is fetched, raising EXEC_FAULT when translation or execute permission fails. -/
  | packetFetch (g : Nat)
  /-- R73. A V word finishes its last slot on the rod, committing write buffers and late results. -/
  | vWordCompletion (g : Nat)
  /-- R154. The special-function unit delivers a slot's result and its flags. -/
  | specialFunctionDelivery (g : Nat) (k : Nat)
  /-- R169. A scratchpad load or atomic result becomes readable at the register. -/
  | scratchpadResultDelivery (g : Nat) (k : Nat)
  /-- R216. A global load's data arrives, clears the scoreboard and may unpark the strand. -/
  | globalLoadCompletion (id : Nat)
  /-- R90. The 32-clock deprioritisation after YIELD ends. -/
  | yieldWindowExpiry (g : Nat)
  /-- R77. A strand issuable for 1,024 clocks without issuing is put ahead of its context. -/
  | issueStarvationPromotion (g : Nat)
  /-- R202. The store queue translates the strand's next store in program order. -/
  | storeQueueTranslation (g : Nat)
  /-- R210. A store queue entry's data reaches its home slice and the entry frees. -/
  | storeArrivesHome (core : Nat) (id : Nat)
  /-- R194. A walker takes the oldest queued miss and starts a walk. -/
  | pageWalkStart (die : Nat)
  /-- R192. A walk ends with a page or a reason and serves the misses waiting on it. -/
  | pageWalkComplete (die : Nat) (id : Nat)
  /-- R196. The host's PRI response grants or refuses the page. -/
  | priResponse (die : Nat) (id : Nat) (granted : Bool) (hpa : Nat)
  /-- R196. A page request unanswered for 100 ms faults with HOST_REFUSED. -/
  | priTimeout (die : Nat) (id : Nat)
  /-- R196. The host invalidates cached ATS translations. -/
  | atsInvalidate (die : Nat) (ctx : Nat) (base : Nat) (len : Nat)
  /-- R197. Firmware invalidates a context's translations for a range or all pages. -/
  | translationInvalidateCommand (ctx : Nat) (range : Option (Nat × Nat))
  /-- R212. An entry that has held its contents for 4,096 clocks is flushed. -/
  | combiningEntryTimeout (core : Nat) (id : Nat)
  /-- R211. A flush's values are applied at the home slice as atomic steps. -/
  | combiningFlushApplied (core : Nat) (id : Nat)
  /-- R438. A dirty line is written back to HBM4E on replacement. -/
  | sharedCacheWriteback (line : Nat)
  /-- R438. Firmware flushes a die's shared cache, writing back dirty lines. -/
  | sharedCacheFlush (die : Nat)
  /-- R171. A remote scratchpad message is performed at the owning core's bank. -/
  | remoteMessage (core : Nat)
  /-- R171. A reply or acknowledgement of a remote message reaches the issuing core. -/
  | remoteReply (g : Nat) (k : Nat)
  /-- R174. A strand waiting on a full/empty bit becomes Ready after the bit changes. -/
  | fullEmptyWake (g : Nat)
  /-- R165. A scratchpad request waiting 100 µs reserves a range. -/
  | scratchpadReservation (core : Nat) (lg : Nat)
  /-- R167. A block returns to the free lists once its users exited and its copies completed. -/
  | scratchpadBlockReturn (core : Nat) (off : Nat)
  /-- R372. A launch command at the head of its queue is checked. -/
  | launchCommandCheck (ctx : Nat)
  /-- R381. The dispatcher places the head item of the context with the greatest deficit. -/
  | dispatchPlacement (part : Nat)
  /-- R332. An item passed over for 1 ms blocks later items of its context. -/
  | dispatchPassoverBlock (ctx : Nat) (item : Nat)
  /-- R377. A member's GANGID and TICK are received and compared. -/
  | gangFieldsMessage (launch : Nat) (pkg : Nat) (gangId : BitVec 32) (tick : BitVec 64)
  /-- R378. The coordinator receives READY from a member. -/
  | gangReady (launch : Nat) (pkg : Nat)
  /-- R378. At TICK − 20 µs the coordinator sends GO or ABORT. -/
  | gangGoCheck (launch : Nat)
  /-- R378. A member receives GO. -/
  | gangGo (launch : Nat)
  /-- R378. A member receives ABORT and returns its allotments. -/
  | gangAbort (frame : GangEnd)
  /-- R378. At TICK strands become issuable, or a member without GO aborts. -/
  | gangTick (launch : Nat)
  /-- R255. A home slice settles a granule request against its hold table and wait list. -/
  | granuleRequest (slice : Nat)
  /-- R256. A grant reaches the core; the granule joins the hold list and the word resumes. -/
  | granuleGrant (g : Nat) (base : Nat) (glog : Nat)
  /-- R255. A home receives a release and grants the oldest waiter or frees the entry. -/
  | granuleRelease (slice : Nat)
  /-- R263. A wound reaches its target task. -/
  | wound (stamp : BitVec 64) (restart : Nat)
  /-- R261. A task is rolled back at its next boundary, discarding held state and releasing granules. -/
  | rollback (g : Nat)
  /-- R261. When every release is acknowledged the task restarts at its entry PC. -/
  | rollbackRestart (g : Nat)
  /-- R266. The package token is granted to the oldest waiting serialised task. -/
  | irrevocableTokenGrant
  /-- R265. Every held line of an exiting task reaches its home and its granules are released. -/
  | holdBufferDrainComplete (g : Nat)
  /-- R270. The delay of ASRETRY ends and the task restarts. -/
  | asretryDelayExpiry (g : Nat)
  /-- R279. An accepted MMA finishes staging its operands. -/
  | mmaStagingComplete (q : Nat) (id : Nat)
  /-- R278. The oldest ready MMA starts on the multiplier array. -/
  | mmaStart (q : Nat)
  /-- R279. A selected row of an MMA commits and is charged. -/
  | mmaRowCommit (q : Nat)
  /-- R278. An MMA's last row ends; its queue entry frees and the unit may enter Stopping. -/
  | mmaComplete (q : Nat)
  /-- R288. A load-pipe failure or host page wait suspends an MMA with its row progress. -/
  | mmaSuspension (q : Nat)
  /-- R277. MZERO, MTOV, MFROMV or an MDRAIN read finishes on the tile port. -/
  | tilePortComplete (q : Nat) (tile : Nat)
  /-- R357. At each 4-clock boundary the governor grants and releases matrix units. -/
  | governorStepBoundary (die : Nat)
  /-- R302. The copy engine starts a request, reading and checking its shape record. -/
  | copyRequestStart (core : Nat) (id : Nat)
  /-- R311. The engine fetches and starts the next entry of a request list. -/
  | ckickEntryFetch (core : Nat) (id : Nat)
  /-- R299. A chunk's bytes reach their point and its credit is made. -/
  | copyChunkComplete (core : Nat) (id : Nat)
  /-- R238. A request completes and its handle becomes Done with a status. -/
  | copyRequestComplete (core : Nat) (id : Nat)
  /-- R316. A failed request's handle takes its failure status and the holder is marked for a trap. -/
  | copyFailure (core : Nat) (id : Nat)
  /-- R318. A cancelled request stops at a chunk boundary and becomes CANCELLED. -/
  | copyCancelEffect (core : Nat) (id : Nat)
  /-- R313. A BBWAIT waiter becomes Ready after a step gives its phase. -/
  | byteBarrierWake (g : Nat)
  /-- R325. The barrier network applies an arrival, drop or join to an instance. -/
  | barrierStep (inst : Nat) (g : Nat) (op : BarOp)
  /-- R327. A waiter of a passed generation becomes Ready. -/
  | barrierWake (g : Nat)
  /-- R336. The header's home slice performs a push or pop step. -/
  | queueHomeStep (g : Nat)
  /-- R336. A pushed entry lands and FILLED advances over completed entries. -/
  | queueEntryWritten (id : Nat)
  /-- R336. A popped entry is read and FREE advances over completed entries. -/
  | queueEntryRead (id : Nat)
  /-- R337. A blocked push or pop is served and becomes Ready. -/
  | queueWaiterServe (hdr : Nat) (pop : Bool)
  /-- R338. A TLWAIT waiter becomes Ready after a satisfying write. -/
  | timelineWake (g : Nat)
  /-- R333. A TASK word's home slice replies and the word completes or traps. -/
  | taskWordHomeReply (g : Nat)
  /-- R341. A collective's results are delivered and a member's handle becomes Done. -/
  | collectiveComplete (id : Nat) (contribs : List (List (BitVec 32)))
  /-- R341. A group timeout ends a collective with ABORTED. -/
  | collectiveTimeout (id : Nat) (missing : List Nat)
  /-- R349. The energy controller grants or refuses a draw. -/
  | drawServed
  /-- R350. A hold outlasting the partition's hold limit halts the strand. -/
  | holdLimitExpiry (g : Nat)
  /-- R348. Each 1,000 clocks of residence charges ResidentIdle. -/
  | residentIdleCharge (g : Nat)
  /-- R351. Every 10 µs buckets are refilled, refused draws retried and idle purses settled. -/
  | refillTick (measured : List (Nat × Int))
  /-- R352. A 10 µs window ends and residuals are apportioned to contexts. -/
  | reckoningWindowClose (measured : List (Nat × Int))
  /-- R359. Each second meter records are formed, batched and signed. -/
  | meterRecordSecond
  /-- R407. A signed batch is written to the meter ring when room allows. -/
  | meterBatchWrite
  /-- R361. 20 µs after an operating-point change begins the clocks restart at the new point. -/
  | opChangeClockRestart (part : Nat)
  /-- R362. Each 1 ms round a package sends DEMAND and tracks missing GRANTs. -/
  | wyariRound (demand : Nat) (floor : Nat)
  /-- R363. The cap master receives a package's DEMAND frame. -/
  | demand (round : Nat) (pkg : Nat) (demand : Nat) (floor : Nat)
  /-- R363. A package receives its GRANT frame and applies its CAP. -/
  | grant (round : Nat) (pkg : Nat) (cap : Nat) (podcap : Nat)
  /-- R361. Firmware sets a partition's operating point or MAXOP. -/
  | firmwareSetAllowance (part : Nat) (op : Option Nat) (maxop : Option Nat)
  /-- R345. Firmware writes a context energy block; LEVEL acts at once, others at the next tick. -/
  | energyBlockWrite (ctx : Nat) (w : EnergyWrite)
  /-- R382. Firmware switches a partition from an outgoing to an incoming context. -/
  | partitionSwitch (part : Nat) (out : Nat) (inc : Nat)
  /-- R382. Every strand has halted and STATE becomes halted. -/
  | partitionHaltComplete (ctx : Nat)
  /-- R383. A claimed unit's write-out completes and the unit is spilt. -/
  | spillComplete (id : Nat)
  /-- R383. A resuming strand's spilt units are refilled and it returns to its state. -/
  | refillComplete (g : Nat)
  /-- R385. 100 ms without issue kills the context with WATCHDOG. -/
  | watchdogIdleFire (ctx : Nat)
  /-- R385. A launch exceeding TLIMIT kills the context with WATCHDOG. -/
  | watchdogRunFire (launch : Nat)
  /-- R391. A strand takes an outstanding trap, drains, writes its record and enters its handler. -/
  | trapEntry (g : Nat)
  /-- R398. Firmware defines a partition's quads, operating point and MAXOP. -/
  | definePartition (d : PartDef)
  /-- R400. The PF creates a context through the mailbox. -/
  | createContext (d : CtxDef)
  /-- R400. The PF destroys a context once it has no resident strand and no pending charge. -/
  | destroyContext (ctx : Nat)
  /-- R402. The PF attaches an interface, latching its privileged fields or failing with SHADOW_MISMATCH. -/
  | lock (i : Nat) (shadow : BitVec 192)
  /-- R402. The PF moves a locked interface to RUN. -/
  | start (i : Nat)
  /-- R402. The PF detaches an interface, writing back its latched fields. -/
  | stop (i : Nat)
  /-- R405. A write to the producer's index is accepted or rejected with an overrun. -/
  | doorbell (i : Nat) (n : BitVec 32)
  /-- R406. The device fetches the next ring entry and advances HEAD. -/
  | queueInterfaceFetch (i : Nat)
  /-- R410. A kept error-log entry is written when its ring has room. -/
  | errorLogEntryWrite (log : Nat)
  /-- R404. A write to a queue control block field without behaviour of its own. -/
  | queueControlBlockWrite (i : Nat) (f : QcbField) (v : BitVec 64)
  /-- R408. Function-level reset of a host function. -/
  | flr (fn : Nat)
  /-- R408. After 500 µs of FLR drain, outstanding requests are killed. -/
  | flrDrainTimeout (fn : Nat)
  /-- R411. A PF mailbox command kills a context. -/
  | hostKill (ctx : Nat)
  /-- R412. An uncorrectable read is found and retried once. -/
  | uncorrectableRead (u : EccUnit)
  /-- R412. The retry decides a transient or lasting error, retiring storage and delivering it. -/
  | eccRetryResult (ok : Bool)
  /-- R412. Each minute corrected-error counts are logged. -/
  | correctedErrorReport
  /-- R414. The M-mode monitor writes or clears a key slot through a key port. -/
  | keySlotWrite (stack : Nat) (slot : Nat) (key : Option (BitVec 256))
  /-- R415. A pending link key is programmed and both ends switch at a flit boundary. -/
  | linkKeyProgram (die : Nat) (key : BitVec 128)
  /-- R415. A link counter reaching 2^48 − 2^32 raises a rekey interrupt. -/
  | linkRekeyInterrupt (way : LinkWay)
  /-- R415. A link counter reaching 2^48 stops the link. -/
  | linkCounterExhausted (way : LinkWay)
  /-- R415. 1 ms after a stop without a new key, contexts on the stack are killed. -/
  | linkKeyTimeout (die : Nat)
  /-- R416. Firmware writes a gate table entry. -/
  | gateEntryWrite (gate : Nat) (v : BitVec 512)
  /-- R417. The PF asks to reclaim a page of a context. -/
  | reclaim (ctx : Nat) (page : Nat)
  /-- R417. The tenant accepts a reclaim; the page is invalidated, zeroed and freed. -/
  | accept (ctx : Nat) (page : Nat)
  /-- R417. The PF forces a reclaim, killing the protected context. -/
  | force (ctx : Nat) (page : Nat)
  /-- R418. SPDM version request. -/
  | getVersion (fn : Nat)
  /-- R418. SPDM capabilities request. -/
  | getCapabilities (fn : Nat)
  /-- R418. SPDM algorithm negotiation. -/
  | negotiateAlgorithms (fn : Nat)
  /-- R418. SPDM certificate digests request. -/
  | getDigests (fn : Nat)
  /-- R418. SPDM certificate chain request. -/
  | getCertificate (fn : Nat)
  /-- R418. SPDM challenge signed with the identity key. -/
  | challenge (fn : Nat) (nonce : BitVec 256)
  /-- R418. SPDM measurement request, answered from sealed values when descheduled. -/
  | getMeasurements (fn : Nat) (index : Nat)
  /-- R419. A faulting firmware plug-in is stopped. -/
  | pluginFault (tenant : BitVec 32)
  /-- R419. A monitor or scheduler fault stops the die's dispatchers. -/
  | schedulerFault (die : Nat)
  /-- R243. A host agent's transaction reaches device memory at its home slice. -/
  | hostAccess (t : HostTxn)
  /-- R421. A flit failing its CRC is resent; 16 failures are a lasting error. -/
  | dieBoundaryRetry (b : Nat) (failed : Bool)
  /-- R422. A package unreachable for 1 ms is lost, ending its gangs and collectives. -/
  | packageLost (pkg : Nat)
  /-- R424. A stack idle for 1 ms enters power-down. -/
  | hbmPowerDown (die : Nat)
  /-- R426. A function opens a counter session for one of its contexts. -/
  | openCounterSession (d : SessionDef)
  /-- R426. A counter session is closed and its counters unbound. -/
  | closeCounterSession (id : Nat)
  /-- R426. Mailbox command returning a session descriptor with current values. -/
  | readcnt (id : Nat)
  /-- R428. A counter passes 2^48 − 1, wraps and may raise an interrupt. -/
  | counterWrap (id : Nat) (entry : Nat)
  /-- R431. The FREEZE pin or JTAG command stops every clock of the package. -/
  | freeze
  /-- R432. JTAG command presenting a debug token that enables scan read-out. -/
  | unlock (token : BitVec 256) (nonce : BitVec 64)
  /-- R432. A JTAG scan command on a frozen package, refused without a valid token. -/
  | scanCommand (cmd : ScanCmd)
  /-- R431. A cold reset clears SRAMs, key slots and link keys. -/
  | coldReset
  /-- R433. Power-on bring-up verifies firmware, trains links and exposes the PF. -/
  | powerOn (b : BringUp)
  /-- R434. At 105 °C firmware lowers MAXOP of the hottest partitions. -/
  | thermalThrottle (parts : List Nat)
  /-- R434. At 115 °C the package powers off. -/
  | thermalTrip
  /-- R196. The host's translation agent answers an ATS translation request for a type-01 page, filling the die TLB or reporting the page not present. -/
  | atsTranslationCompletion (die : Nat) (id : Nat) (present : Bool) (hpa : Nat)
  /-- R384. Firmware migrates a context to another package or pod, carrying its context time and setting CTOFF at the target. -/
  | contextMigration (ctx : Nat) (savedTime : BitVec 64) (elapsed : Nat)
  /-- R422. A pod port goes down, so traffic to each package moves to the next port of its list that is up. -/
  | podPortDown (port : Nat)
  /-- R422. A pod port comes up and becomes the one used again where it stands first in a route list. -/
  | podPortUp (port : Nat)
  /-- R433. The package loses power, and every domain and all state except the fuses is lost. -/
  | powerOff
  deriving DecidableEq, Repr

end Sys2Proof
end

