-- ==== Sys2Proof/WellFormed.lean ====
section
/-!
DEFINITION. Which instructions are well formed: a word whose code fields hold assigned values (R49 to R55) and whose
register fields keep the alignments that hold in every state; an event whose numbers name places the package has
(R5, R7, R14).
-/

namespace Sys2Proof

/-- A scope code of R10 other than the illegal code 7. -/
def scopeOk (s : BitVec 3) : Bool := s ≠ 7#3

/-- A scope with barrier networks (R10, R11). -/
def barScopeOk (s : BitVec 3) : Bool := 1#3 ≤ s && s ≤ 5#3

/-- A register number that is a multiple of n. -/
def multOf (n : Nat) (a : BitVec 8) : Bool := a.toNat % n == 0

/-- A strand's key: its global strand slot number (R7), plus a multiple of 65,536. -/
def slotOk (g : Nat) : Bool := g < 4194304

/-- Well-formed instructions. -/
def Instr.wellFormed : Instr → Bool
  | .vcmpI _ k _ _ _ | .vcmpN _ k _ _ _ => k ≤ 5#3
  | .vcvt _ _ _ _ s t => s ≠ t && s ≤ 4#3 && t ≤ 4#3
  | .vredu _ _ _ f => f ≤ 0x0A#8
  | .vtrans _ _ _ e => e ≤ 2#2
  | .vatom _ _ _ s _ p | .vatoms _ _ _ s _ p => scopeOk s && p ≤ 0xB#4
  | .vred _ _ _ s _ p => scopeOk s && p ≤ 0xB#4 && p ≠ 8#4
  | .mma _ _ f a b => f ≤ 6#6 && multOf 4 a && multOf 4 b
  | .mtov _ _ _ a | .mfromv _ _ _ a => multOf 16 a && a ≤ 112#8
  | .mdrain _ _ a _ _ | .cpyG2s _ _ a | .cpyS2g _ _ a | .cpyS2gAdd _ _ a | .cpyG2g _ _ a | .cpyS2s _ _ a
  | .cpyGate _ _ a => multOf 8 a
  | .br _ a k _ => k.toNat ∈ [1, 2, 3, 4] || a == 0#8
  | .bri _ a | .calli _ a => multOf 2 a
  | .fence _ s k => scopeOk s && k ≠ 0#2
  | .bar _ s _ | .bara _ s _ _ | .barw _ s _ _ | .bard _ s _ | .barj _ s _ _ => barScopeOk s
  | .returnStackRegisterWrite r _ => 0x0A#8 ≤ r && r ≤ 0x0C#8
  | .rngkeyWrite r _ => 0x0D#8 ≤ r && r ≤ 0x0E#8
  | .packetFetch g | .vWordCompletion g | .yieldWindowExpiry g | .issueStarvationPromotion g
  | .storeQueueTranslation g | .fullEmptyWake g | .granuleGrant g _ _ | .rollback g | .rollbackRestart g
  | .holdBufferDrainComplete g | .asretryDelayExpiry g | .byteBarrierWake g | .barrierStep _ g _ | .barrierWake g
  | .queueHomeStep g | .timelineWake g | .taskWordHomeReply g | .holdLimitExpiry g | .residentIdleCharge g
  | .refillComplete g | .trapEntry g => slotOk g
  | .specialFunctionDelivery g k | .scratchpadResultDelivery g k | .remoteReply g k => slotOk g && k < 32
  | .pageWalkStart d | .pageWalkComplete d _ | .priResponse d _ _ _ | .priTimeout d _ | .atsInvalidate d _ _ _
  | .sharedCacheFlush d | .governorStepBoundary d | .linkKeyProgram d _ | .linkRekeyInterrupt ⟨d, _⟩
  | .linkCounterExhausted ⟨d, _⟩ | .linkKeyTimeout d | .schedulerFault d | .hbmPowerDown d
  | .atsTranslationCompletion d _ _ _ => d < 16
  | .storeArrivesHome c _ | .combiningEntryTimeout c _ | .combiningFlushApplied c _ | .remoteMessage c
  | .scratchpadReservation c _ | .scratchpadBlockReturn c _ | .copyRequestStart c _ | .ckickEntryFetch c _
  | .copyChunkComplete c _ | .copyRequestComplete c _ | .copyFailure c _ | .copyCancelEffect c _ => c < 512
  | .mmaStagingComplete q _ | .mmaStart q | .mmaRowCommit q | .mmaComplete q | .mmaSuspension q
  | .tilePortComplete q _ => q < 2048
  | .granuleRequest s | .granuleRelease s => s < 256
  | .dispatchPlacement p | .opChangeClockRestart p | .partitionSwitch p _ _ | .firmwareSetAllowance p _ _ => p < 64
  | .definePartition d => d.part < 64 && d.quads.all (· < 128) && d.op ≤ 7 && d.maxop ≤ 7
  | .createContext d => d.ctx < 4096 && d.part < 64 && d.keys.all (· < 1024)
  | .launchCommandCheck c | .dispatchPassoverBlock c _ | .translationInvalidateCommand c _ | .energyBlockWrite c _
  | .partitionHaltComplete c | .watchdogIdleFire c | .destroyContext c | .hostKill c | .reclaim c _ | .accept c _
  | .force c _ | .contextMigration c _ _ => c < 4096
  | .lock i _ | .start i | .stop i | .doorbell i _ | .queueInterfaceFetch i | .queueControlBlockWrite i _ _ =>
    i < 4096
  | .keySlotWrite st sl _ => st < 16 && sl < 1024
  | .gangFieldsMessage _ p _ _ | .gangReady _ p | .packageLost p => p < 1024
  | .podPortDown p | .podPortUp p => p < 16
  | .dieBoundaryRetry b _ => b < 22
  | .hostAccess t => t.write == false || t.data.length == t.len
  | _ => true

end Sys2Proof
end

