-- ==== Sys2Proof/Decode.lean ====
section
/-!
DEFINITION. The decoder of instruction words (R28, R35 to R56), total on every word and rejecting by name, the
encoder of a decoded word, and the place of words and packets in a code line (R21 to R24). The encoding of every row is
the one of spec/opcode_table.json, which restates R46 to R53.
-/

namespace Sys2Proof

/-- Why a word does not decode (R56). -/
inductive Reject where
  | illegalOpcode
  | illegalOperand
  deriving DecidableEq, Repr

/-- Chain bit of a word (R28). -/
def fieldC (w : Word) : Bool := w.getLsbD 31
/-- Major opcode of a word (R28). -/
def fieldMaj (w : Word) : BitVec 7 := w.extractLsb' 24 7
/-- Bits 23:16 (R35). -/
def fieldD (w : Word) : BitVec 8 := w.extractLsb' 16 8
/-- Bits 15:8 (R35). -/
def fieldA (w : Word) : BitVec 8 := w.extractLsb' 8 8
/-- Bits 7:0 (R35). -/
def fieldB (w : Word) : BitVec 8 := w.extractLsb' 0 8
/-- Bits 15:0 (R35). -/
def fieldI (w : Word) : BitVec 16 := w.extractLsb' 0 16
/-- Bits 23:0 (R28). -/
def fieldO (w : Word) : BitVec 24 := w.extractLsb' 0 24

/-- R50. VCVT: an equal pair or a format code above 4 is unassigned; bit 7 must be zero. The table's row covers the
unassigned codes, which `exec` traps, so only the cause of a word with bit 7 set is settled here. -/
def decodeVcvt (c : Bool) (d a b : BitVec 8) : Except Reject Instr :=
  if b &&& 0x80#8 = 0#8 then .ok (.vcvt c d a (b.extractLsb' 6 1) (b.extractLsb' 3 3) (b.extractLsb' 0 3))
  else if b.extractLsb' 3 3 = b.extractLsb' 0 3 ∨ 4#3 < b.extractLsb' 3 3 ∨ 4#3 < b.extractLsb' 0 3 then
    .error .illegalOpcode
  else .error .illegalOperand

/-- R49. The functions of major 0x17: an unlisted code is unassigned, an unused field must be zero (R40). -/
def decodeUun (c : Bool) (d a b : BitVec 8) : Except Reject Instr :=
  match b with
  | 0x00#8 => .ok (.uclz c d a)
  | 0x01#8 => .ok (.upopc c d a)
  | 0x02#8 => .ok (.ubrev c d a)
  | 0x03#8 => .ok (.usext8 c d a)
  | 0x04#8 => .ok (.usext16 c d a)
  | 0x05#8 => .ok (.uneg c d a)
  | 0x06#8 => .ok (.uabs c d a)
  | _ => .error .illegalOpcode

/-- R49. The functions of major 0x1F: an unlisted code is unassigned, an unused field must be zero (R40). -/
def decodeUsys (c : Bool) (d a b : BitVec 8) : Except Reject Instr :=
  match b with
  | 0x00#8 => .ok (.usr c d a)
  | 0x01#8 => .ok (.usw c d a)
  | _ => .error .illegalOpcode

/-- R49. The functions of major 0x37: an unlisted code is unassigned, an unused field must be zero (R40). -/
def decodeVun (c : Bool) (d a b : BitVec 8) : Except Reject Instr :=
  match b with
  | 0x00#8 => .ok (.vclz c d a)
  | 0x01#8 => .ok (.vpopc c d a)
  | 0x02#8 => .ok (.vbrev c d a)
  | 0x03#8 => .ok (.vsext8 c d a)
  | 0x04#8 => .ok (.vsext16 c d a)
  | 0x05#8 => .ok (.vneg c d a)
  | 0x06#8 => .ok (.vabs c d a)
  | 0x07#8 => .ok (.vmov c d a)
  | _ => .error .illegalOpcode

/-- R49. The functions of major 0x46: an unlisted code is unassigned, an unused field must be zero (R40). -/
def decodeVfun (c : Bool) (d a b : BitVec 8) : Except Reject Instr :=
  match b with
  | 0x00#8 => .ok (.vfabs c d a)
  | 0x01#8 => .ok (.vfneg c d a)
  | 0x02#8 => .ok (.vfclass c d a)
  | 0x03#8 => .ok (.vfrnd c d a)
  | _ => .error .illegalOpcode

/-- R49. The functions of major 0x4A: an unlisted code is unassigned, an unused field must be zero (R40). -/
def decodeVsfu (c : Bool) (d a b : BitVec 8) : Except Reject Instr :=
  match b with
  | 0x00#8 => .ok (.vrcp c d a)
  | 0x01#8 => .ok (.vrsq c d a)
  | 0x02#8 => .ok (.vsqrt c d a)
  | 0x03#8 => .ok (.vexp2 c d a)
  | 0x04#8 => .ok (.vlog2 c d a)
  | 0x05#8 => .ok (.vsin c d a)
  | 0x06#8 => .ok (.vcos c d a)
  | 0x07#8 => .ok (.vtanh c d a)
  | _ => .error .illegalOpcode

/-- R49. The functions of major 0x5D: an unlisted code is unassigned, an unused field must be zero (R40). -/
def decodeVspfe (c : Bool) (d a b : BitVec 8) : Except Reject Instr :=
  match b with
  | 0x00#8 => if d = 0#8 then .ok (.vspfeEmpty c a) else .error .illegalOperand
  | 0x01#8 => if d = 0#8 then .ok (.vspfeFull c a) else .error .illegalOperand
  | 0x02#8 => .ok (.vspfeGet c d a)
  | _ => .error .illegalOpcode

/-- R49. The functions of major 0x68: an unlisted code is unassigned, an unused field must be zero (R40). -/
def decodeCpy (c : Bool) (d a b : BitVec 8) : Except Reject Instr :=
  match b with
  | 0x00#8 => if d &&& 0xF0#8 = 0#8 then .ok (.cpyG2s c (d.extractLsb' 0 4) a) else .error .illegalOperand
  | 0x01#8 => if d &&& 0xF0#8 = 0#8 then .ok (.cpyS2g c (d.extractLsb' 0 4) a) else .error .illegalOperand
  | 0x02#8 => if d &&& 0xF0#8 = 0#8 then .ok (.cpyS2gAdd c (d.extractLsb' 0 4) a) else .error .illegalOperand
  | 0x03#8 => if d &&& 0xF0#8 = 0#8 then .ok (.cpyG2g c (d.extractLsb' 0 4) a) else .error .illegalOperand
  | 0x04#8 => if d &&& 0xF0#8 = 0#8 then .ok (.cpyS2s c (d.extractLsb' 0 4) a) else .error .illegalOperand
  | 0x05#8 => if d &&& 0xF0#8 = 0#8 then .ok (.cpyGate c (d.extractLsb' 0 4) a) else .error .illegalOperand
  | _ => .error .illegalOpcode

/-- R49. The functions of major 0x6A: an unlisted code is unassigned, an unused field must be zero (R40). -/
def decodeHnd (c : Bool) (d a b : BitVec 8) : Except Reject Instr :=
  match b with
  | 0x00#8 => if a &&& 0xF0#8 = 0#8 then .ok (.hwait c d (a.extractLsb' 0 4)) else .error .illegalOperand
  | 0x01#8 => if a &&& 0xF0#8 = 0#8 then .ok (.htest c d (a.extractLsb' 0 4)) else .error .illegalOperand
  | 0x02#8 => if d = 0#8 ∧ a &&& 0xF0#8 = 0#8 then .ok (.hcancel c (a.extractLsb' 0 4)) else .error .illegalOperand
  | 0x03#8 => if d &&& 0xF0#8 = 0#8 ∧ a &&& 0xF0#8 = 0#8 then .ok (.hmove c (d.extractLsb' 0 4) (a.extractLsb' 0 4)) else .error .illegalOperand
  | 0x04#8 => if a &&& 0xF0#8 = 0#8 then .ok (.hexport c d (a.extractLsb' 0 4)) else .error .illegalOperand
  | 0x05#8 => if d &&& 0xF0#8 = 0#8 then .ok (.himport c (d.extractLsb' 0 4) a) else .error .illegalOperand
  | _ => .error .illegalOpcode

/-- R49. The functions of major 0x6B: an unlisted code is unassigned, an unused field must be zero (R40). -/
def decodeBb (c : Bool) (d a b : BitVec 8) : Except Reject Instr :=
  match b with
  | 0x00#8 => .ok (.bbinit c d a)
  | 0x01#8 => .ok (.bbexpect c d a)
  | 0x02#8 => .ok (.bbarrive c d a)
  | 0x03#8 => .ok (.bbwait c d a)
  | 0x04#8 => .ok (.bbtest c d a)
  | _ => .error .illegalOpcode

/-- R49. The functions of major 0x73: an unlisted code is unassigned, an unused field must be zero (R40). -/
def decodeCtrl (c : Bool) (d a b : BitVec 8) : Except Reject Instr :=
  match b with
  | 0x00#8 => if d = 0#8 ∧ a = 0#8 then .ok (.ret c) else .error .illegalOperand
  | 0x01#8 => if d = 0#8 then .ok (.bri c a) else .error .illegalOperand
  | 0x02#8 => if d = 0#8 then .ok (.calli c a) else .error .illegalOperand
  | 0x03#8 => if d = 0#8 ∧ a = 0#8 then .ok (.yield c) else .error .illegalOperand
  | 0x04#8 => if d = 0#8 ∧ a = 0#8 then .ok (.exit c) else .error .illegalOperand
  | 0x05#8 => if d = 0#8 ∧ a = 0#8 then .ok (.tret c) else .error .illegalOperand
  | 0x06#8 => if d = 0#8 ∧ a = 0#8 then .ok (.sdrain c) else .error .illegalOperand
  | 0x07#8 => if d &&& 0x1C#8 = 0#8 ∧ a = 0#8 then .ok (.fence c (d.extractLsb' 5 3) (d.extractLsb' 0 2)) else .error .illegalOperand
  | 0x08#8 => if a = 0#8 then .ok (.trap c d) else .error .illegalOperand
  | _ => .error .illegalOpcode

/-- R49. The functions of major 0x75: an unlisted code is unassigned, an unused field must be zero (R40). -/
def decodeMask (c : Bool) (d a b : BitVec 8) : Except Reject Instr :=
  match b with
  | 0x00#8 => if a &&& 0xF8#8 = 0#8 then .ok (.mget c d (a.extractLsb' 0 3)) else .error .illegalOperand
  | 0x01#8 => if d &&& 0xF8#8 = 0#8 then .ok (.mset c (d.extractLsb' 0 3) a) else .error .illegalOperand
  | 0x02#8 => if d &&& 0xF8#8 = 0#8 ∧ a &&& 0xF8#8 = 0#8 then .ok (.mand c (d.extractLsb' 0 3) (a.extractLsb' 0 3)) else .error .illegalOperand
  | 0x03#8 => if d &&& 0xF8#8 = 0#8 ∧ a &&& 0xF8#8 = 0#8 then .ok (.mandn c (d.extractLsb' 0 3) (a.extractLsb' 0 3)) else .error .illegalOperand
  | 0x04#8 => if d &&& 0xF8#8 = 0#8 ∧ a &&& 0xF8#8 = 0#8 then .ok (.mor c (d.extractLsb' 0 3) (a.extractLsb' 0 3)) else .error .illegalOperand
  | 0x05#8 => if d &&& 0xF8#8 = 0#8 ∧ a &&& 0xF8#8 = 0#8 then .ok (.mxor c (d.extractLsb' 0 3) (a.extractLsb' 0 3)) else .error .illegalOperand
  | 0x06#8 => if d &&& 0xF8#8 = 0#8 ∧ a = 0#8 then .ok (.mlive c (d.extractLsb' 0 3)) else .error .illegalOperand
  | 0x07#8 => if a &&& 0xF8#8 = 0#8 then .ok (.mpopc c d (a.extractLsb' 0 3)) else .error .illegalOperand
  | 0x08#8 => if a &&& 0xF8#8 = 0#8 then .ok (.mfirst c d (a.extractLsb' 0 3)) else .error .illegalOperand
  | 0x09#8 => if d &&& 0xF8#8 = 0#8 then .ok (.mput c (d.extractLsb' 0 3) a) else .error .illegalOperand
  | 0x0A#8 => if a &&& 0xF8#8 = 0#8 then .ok (.mtake c d (a.extractLsb' 0 3)) else .error .illegalOperand
  | _ => .error .illegalOpcode

/-- R49. The functions of major 0x76: an unlisted code is unassigned, an unused field must be zero (R40). -/
def decodeSync (c : Bool) (d a b : BitVec 8) : Except Reject Instr :=
  match b with
  | 0x00#8 => if a = 0#8 then .ok (.bar c (d.extractLsb' 5 3) (d.extractLsb' 0 5)) else .error .illegalOperand
  | 0x01#8 => .ok (.bara c (d.extractLsb' 5 3) (d.extractLsb' 0 5) a)
  | 0x02#8 => .ok (.barw c (d.extractLsb' 5 3) (d.extractLsb' 0 5) a)
  | 0x03#8 => if a = 0#8 then .ok (.bard c (d.extractLsb' 5 3) (d.extractLsb' 0 5)) else .error .illegalOperand
  | 0x04#8 => .ok (.barj c (d.extractLsb' 5 3) (d.extractLsb' 0 5) a)
  | _ => .error .illegalOpcode

/-- R49. The functions of major 0x77: an unlisted code is unassigned, an unused field must be zero (R40). -/
def decodeTask (c : Bool) (d a b : BitVec 8) : Except Reject Instr :=
  match b with
  | 0x00#8 => .ok (.spawn c d a)
  | 0x01#8 => .ok (.qpush c d a)
  | 0x02#8 => .ok (.qpop c d a)
  | 0x03#8 => .ok (.qtrypush c d a)
  | 0x04#8 => .ok (.qtrypop c d a)
  | 0x05#8 => .ok (.tlsig c d a)
  | 0x06#8 => .ok (.tlwait c d a)
  | 0x07#8 => .ok (.tlread c d a)
  | 0x08#8 => if d &&& 0xF0#8 = 0#8 then .ok (.coll c (d.extractLsb' 0 4) a) else .error .illegalOperand
  | _ => .error .illegalOpcode

/-- R49. The functions of major 0x78: an unlisted code is unassigned, an unused field must be zero (R40). -/
def decodeAset (c : Bool) (d a b : BitVec 8) : Except Reject Instr :=
  match b with
  | 0x00#8 => if d &&& 0xFC#8 = 0#8 then .ok (.asdef c (d.extractLsb' 0 2) a) else .error .illegalOperand
  | 0x01#8 => .ok (.astouch c d a)
  | 0x02#8 => if a = 0#8 then .ok (.asage c d) else .error .illegalOperand
  | 0x03#8 => .ok (.asq c d a)
  | 0x04#8 => if d = 0#8 then .ok (.asretry c a) else .error .illegalOperand
  | _ => .error .illegalOpcode

/-- R49. The functions of major 0x79: an unlisted code is unassigned, an unused field must be zero (R40). -/
def decodeEner (c : Bool) (d a b : BitVec 8) : Except Reject Instr :=
  match b with
  | 0x00#8 => .ok (.erd c d a)
  | 0x01#8 => .ok (.ebkt c d a)
  | 0x02#8 => .ok (.eop c d a)
  | _ => .error .illegalOpcode

/-- R49. The functions of major 0x7A: an unlisted code is unassigned, an unused field must be zero (R40). -/
def decodeCnt (c : Bool) (d a b : BitVec 8) : Except Reject Instr :=
  match b with
  | 0x00#8 => .ok (.cntrd c d a)
  | 0x01#8 => if a = 0#8 then .ok (.tstamp c d) else .error .illegalOperand
  | _ => .error .illegalOpcode

/-- R49. The functions of major 0x7B: an unlisted code is unassigned, an unused field must be zero (R40). -/
def decodeTrec (c : Bool) (d a b : BitVec 8) : Except Reject Instr :=
  match b with
  | 0x00#8 => .ok (.trd c d a)
  | 0x01#8 => .ok (.twr c d a)
  | _ => .error .illegalOpcode

/-- R46. The uniform majors 0x01 to 0x1F. A major that is not listed is reserved (R56). -/
def decodeUniform (m : BitVec 7) (c : Bool) (d a b : BitVec 8) (i : BitVec 16) (_o : BitVec 24) : Except Reject Instr :=
  match m with
  | 0x01#7 => .ok (.uadd c d a b)
  | 0x02#7 => .ok (.usub c d a b)
  | 0x03#7 => .ok (.umul c d a b)
  | 0x04#7 => .ok (.umulhI c d a b)
  | 0x05#7 => .ok (.umulhN c d a b)
  | 0x06#7 => .ok (.uand c d a b)
  | 0x07#7 => .ok (.uor c d a b)
  | 0x08#7 => .ok (.uxor c d a b)
  | 0x09#7 => .ok (.uandn c d a b)
  | 0x0A#7 => .ok (.ushl c d a b)
  | 0x0B#7 => .ok (.ushr c d a b)
  | 0x0C#7 => .ok (.usar c d a b)
  | 0x0D#7 => .ok (.uminI c d a b)
  | 0x0E#7 => .ok (.uminN c d a b)
  | 0x0F#7 => .ok (.umaxI c d a b)
  | 0x10#7 => .ok (.umaxN c d a b)
  | 0x11#7 => .ok (.usltI c d a b)
  | 0x12#7 => .ok (.usltN c d a b)
  | 0x13#7 => .ok (.useq c d a b)
  | 0x14#7 => .ok (.uaddi c d i)
  | 0x15#7 => .ok (.umovi c d i)
  | 0x16#7 => .ok (.ului c d i)
  | 0x17#7 => decodeUun c d a b
  | 0x18#7 => .ok (.ubfe c d a b)
  | 0x19#7 => .ok (.ubfi c d a b)
  | 0x1A#7 => .ok (.ufadd c d a b)
  | 0x1B#7 => .ok (.ufmul c d a b)
  | 0x1C#7 => .ok (.ufslt c d a b)
  | 0x1D#7 => .ok (.uld c d a b)
  | 0x1E#7 => .ok (.ust c d a b)
  | 0x1F#7 => decodeUsys c d a b
  | _ => .error .illegalOpcode

/-- R47. The vector majors 0x20 to 0x4F. A major that is not listed is reserved (R56). -/
def decodeVector (m : BitVec 7) (c : Bool) (d a b : BitVec 8) (_i : BitVec 16) (_o : BitVec 24) : Except Reject Instr :=
  match m with
  | 0x20#7 => .ok (.vadd c d a b)
  | 0x21#7 => .ok (.vsub c d a b)
  | 0x22#7 => .ok (.vmul c d a b)
  | 0x23#7 => .ok (.vmulhI c d a b)
  | 0x24#7 => .ok (.vmulhN c d a b)
  | 0x25#7 => .ok (.vmad c d a b)
  | 0x26#7 => .ok (.vand c d a b)
  | 0x27#7 => .ok (.vor c d a b)
  | 0x28#7 => .ok (.vxor c d a b)
  | 0x29#7 => .ok (.vandn c d a b)
  | 0x2A#7 => .ok (.vshl c d a b)
  | 0x2B#7 => .ok (.vshr c d a b)
  | 0x2C#7 => .ok (.vsar c d a b)
  | 0x2D#7 => .ok (.vminI c d a b)
  | 0x2E#7 => .ok (.vminN c d a b)
  | 0x2F#7 => .ok (.vmaxI c d a b)
  | 0x30#7 => .ok (.vmaxN c d a b)
  | 0x31#7 => .ok (.vbfe c d a b)
  | 0x32#7 => .ok (.vbfi c d a b)
  | 0x33#7 => .ok (.vsel c d a b)
  | 0x34#7 => if d &&& 0x88#8 = 0#8 then .ok (.vcmpI c (d.extractLsb' 4 3) (d.extractLsb' 0 3) a b) else .error .illegalOperand
  | 0x35#7 => if d &&& 0x88#8 = 0#8 then .ok (.vcmpN c (d.extractLsb' 4 3) (d.extractLsb' 0 3) a b) else .error .illegalOperand
  | 0x36#7 => if d &&& 0x88#8 = 0#8 then .ok (.vfcmpF32 c (d.extractLsb' 4 3) (d.extractLsb' 0 3) a b) else .error .illegalOperand
  | 0x37#7 => decodeVun c d a b
  | 0x38#7 => .ok (.vfaddF32 c d a b)
  | 0x39#7 => .ok (.vfsubF32 c d a b)
  | 0x3A#7 => .ok (.vfmulF32 c d a b)
  | 0x3B#7 => .ok (.vfmaF32 c d a b)
  | 0x3C#7 => .ok (.vfminF32 c d a b)
  | 0x3D#7 => .ok (.vfmaxF32 c d a b)
  | 0x3E#7 => .ok (.vfaddF16x2 c d a b)
  | 0x3F#7 => .ok (.vfmulF16x2 c d a b)
  | 0x40#7 => .ok (.vfmaF16x2 c d a b)
  | 0x41#7 => .ok (.vfaddBf16x2 c d a b)
  | 0x42#7 => .ok (.vfmulBf16x2 c d a b)
  | 0x43#7 => .ok (.vfmaBf16x2 c d a b)
  | 0x44#7 => .ok (.vdot2F16 c d a b)
  | 0x45#7 => .ok (.vdot2Bf16 c d a b)
  | 0x46#7 => decodeVfun c d a b
  | 0x47#7 => decodeVcvt c d a b
  | 0x48#7 => if b &&& 0xC0#8 = 0#8 then .ok (.vqcvt c d a (b.extractLsb' 3 3) (b.extractLsb' 0 3)) else .error .illegalOperand
  | 0x49#7 => if b &&& 0xC0#8 = 0#8 then .ok (.vqexp c d a (b.extractLsb' 3 3) (b.extractLsb' 0 3)) else .error .illegalOperand
  | 0x4A#7 => decodeVsfu c d a b
  | 0x4B#7 => .ok (.vshfl c d a b)
  | 0x4C#7 => .ok (.vrot c d a b)
  | 0x4D#7 => .ok (.vredu c d a b)
  | 0x4E#7 => if b &&& 0xFC#8 = 0#8 ∧ b.extractLsb' 0 2 ≠ 3#2 then .ok (.vtrans c d a (b.extractLsb' 0 2)) else .error .illegalOpcode
  | 0x4F#7 => if a = 0#8 ∧ b = 0#8 then .ok (.vrand c d) else .error .illegalOperand
  | _ => .error .illegalOpcode

/-- R47. The memory majors 0x50 to 0x5F. A major that is not listed is reserved (R56). -/
def decodeMemory (m : BitVec 7) (c : Bool) (d a b : BitVec 8) (_i : BitVec 16) (_o : BitVec 24) : Except Reject Instr :=
  match m with
  | 0x50#7 => .ok (.vld c d a b)
  | 0x51#7 => .ok (.vst c d a b)
  | 0x52#7 => .ok (.vlds c d a b)
  | 0x53#7 => .ok (.vsts c d a b)
  | 0x54#7 => .ok (.vatom c d a (b.extractLsb' 5 3) (b.extractLsb' 4 1) (b.extractLsb' 0 4))
  | 0x55#7 => .ok (.vred c d a (b.extractLsb' 5 3) (b.extractLsb' 4 1) (b.extractLsb' 0 4))
  | 0x56#7 => .ok (.vatoms c d a (b.extractLsb' 5 3) (b.extractLsb' 4 1) (b.extractLsb' 0 4))
  | 0x57#7 => .ok (.vcas c d a b)
  | 0x58#7 => .ok (.vcass c d a b)
  | 0x59#7 => .ok (.vldfe c d a b)
  | 0x5A#7 => .ok (.vstef c d a b)
  | 0x5B#7 => if d &&& 0xFE#8 = 0#8 then .ok (.vpref c (d.extractLsb' 0 1) a b) else .error .illegalOperand
  | 0x5C#7 => .ok (.vldpk c d a b)
  | 0x5D#7 => decodeVspfe c d a b
  | _ => .error .illegalOpcode

/-- R48. The matrix and copy majors 0x60 to 0x6F. A major that is not listed is reserved (R56). -/
def decodeMatrixCopy (m : BitVec 7) (c : Bool) (d a b : BitVec 8) (_i : BitVec 16) (_o : BitVec 24) : Except Reject Instr :=
  match m with
  | 0x60#7 => .ok (.mma c (d.extractLsb' 6 2) (d.extractLsb' 0 6) a b)
  | 0x61#7 => if d &&& 0x3F#8 = 0#8 ∧ a = 0#8 ∧ b = 0#8 then .ok (.mzero c (d.extractLsb' 6 2)) else .error .illegalOperand
  | 0x62#7 => if d &&& 0x38#8 = 0#8 ∧ b = 0#8 then .ok (.mtov c (d.extractLsb' 6 2) (d.extractLsb' 0 3) a) else .error .illegalOperand
  | 0x63#7 => if d &&& 0x38#8 = 0#8 ∧ b = 0#8 then .ok (.mfromv c (d.extractLsb' 6 2) (d.extractLsb' 0 3) a) else .error .illegalOperand
  | 0x64#7 => if d &&& 0x3F#8 = 0#8 ∧ b &&& 0xE0#8 = 0#8 then .ok (.mdrain c (d.extractLsb' 6 2) a (b.extractLsb' 4 1) (b.extractLsb' 0 4)) else .error .illegalOperand
  | 0x65#7 => if d &&& 0x3F#8 = 0#8 ∧ b = 0#8 then .ok (.mrp c (d.extractLsb' 6 2) a) else .error .illegalOperand
  | 0x68#7 => decodeCpy c d a b
  | 0x69#7 => if d &&& 0xF0#8 = 0#8 then .ok (.ckick c (d.extractLsb' 0 4) a b) else .error .illegalOperand
  | 0x6A#7 => decodeHnd c d a b
  | 0x6B#7 => decodeBb c d a b
  | _ => .error .illegalOpcode

/-- R48. The second uniform majors 0x70 to 0x7D. A major that is not listed is reserved (R56). -/
def decodeControl (m : BitVec 7) (c : Bool) (d a b : BitVec 8) (i : BitVec 16) (o : BitVec 24) : Except Reject Instr :=
  match m with
  | 0x70#7 => .ok (.br c d (a.extractLsb' 5 3) (i.extractLsb' 0 13))
  | 0x71#7 => .ok (.jmp c o)
  | 0x72#7 => .ok (.call c o)
  | 0x73#7 => decodeCtrl c d a b
  | 0x74#7 => .ok (.loop c d i)
  | 0x75#7 => decodeMask c d a b
  | 0x76#7 => decodeSync c d a b
  | 0x77#7 => decodeTask c d a b
  | 0x78#7 => decodeAset c d a b
  | 0x79#7 => decodeEner c d a b
  | 0x7A#7 => decodeCnt c d a b
  | 0x7B#7 => decodeTrec c d a b
  | _ => .error .illegalOpcode

/-- The instruction a word stands for, or the cause R56 gives for rejecting it. A prefix without its chain bit is
decoded by nothing; R30 makes its group illegal before this cause is looked at. -/
def decode (w : Word) : Except Reject Instr :=
  if w = 0#32 then .ok .unop
  else if fieldMaj w = 0x00#7 then .error .illegalOperand
  else if fieldMaj w = 0x7E#7 then
    if fieldC w then
      .ok (.upfx ((fieldD w).extractLsb' 6 2) ((fieldD w).extractLsb' 4 2) ((fieldD w).extractLsb' 2 2)
        ((fieldD w).extractLsb' 0 2) (fieldI w))
    else .error .illegalOperand
  else if fieldMaj w = 0x7F#7 then
    if fieldC w ∧ (fieldO w).extractLsb' 0 3 = 0#3 then
      .ok (.vpfx ((fieldO w).extractLsb' 21 3) ((fieldO w).extractLsb' 18 3) ((fieldO w).extractLsb' 17 1)
        ((fieldO w).extractLsb' 15 2) ((fieldO w).extractLsb' 13 2) ((fieldO w).extractLsb' 11 2)
        ((fieldO w).extractLsb' 3 8))
    else .error .illegalOperand
  else if fieldMaj w < 0x20#7 then
    decodeUniform (fieldMaj w) (fieldC w) (fieldD w) (fieldA w) (fieldB w) (fieldI w) (fieldO w)
  else if fieldMaj w < 0x50#7 then
    decodeVector (fieldMaj w) (fieldC w) (fieldD w) (fieldA w) (fieldB w) (fieldI w) (fieldO w)
  else if fieldMaj w < 0x60#7 then
    decodeMemory (fieldMaj w) (fieldC w) (fieldD w) (fieldA w) (fieldB w) (fieldI w) (fieldO w)
  else if fieldMaj w < 0x70#7 then
    decodeMatrixCopy (fieldMaj w) (fieldC w) (fieldD w) (fieldA w) (fieldB w) (fieldI w) (fieldO w)
  else decodeControl (fieldMaj w) (fieldC w) (fieldD w) (fieldA w) (fieldB w) (fieldI w) (fieldO w)

/-- A word's four bytes in memory order (R15). -/
def bytesOfWord (w : Word) : List Byte :=
  [w.extractLsb' 0 8, w.extractLsb' 8 8, w.extractLsb' 16 8, w.extractLsb' 24 8]

/-- The word four bytes in memory hold (R15); a missing byte is zero. -/
def wordOfBytes (l : List Byte) : Word :=
  (l.getD 3 0 ++ l.getD 2 0 ++ l.getD 1 0 ++ l.getD 0 0 : BitVec 32)

/-- The instruction at the front of a list of bytes. -/
def decodeBytes (l : List Byte) : Except Reject Instr := decode (wordOfBytes l)

/-! ### The encoder -/

/-- A word in format T3, TF, TM or TX: chain bit, major and three bytes (R28, R35). -/
def wordT (c : Bool) (m : BitVec 7) (d a b : BitVec 8) : Word := BitVec.ofBool c ++ m ++ d ++ a ++ b

/-- A word in format TI or TB: chain bit, major, a byte and sixteen bits (R28, R35). -/
def wordI (c : Bool) (m : BitVec 7) (d : BitVec 8) (i : BitVec 16) : Word := BitVec.ofBool c ++ m ++ d ++ i

/-- A word in format TJ: chain bit, major and twenty-four bits (R28, R35). -/
def wordJ (c : Bool) (m : BitVec 7) (o : BitVec 24) : Word := BitVec.ofBool c ++ m ++ o

/-- The word of an instruction, from the encodings of R46 to R55; an event has none. -/
def encode (i : Instr) : Option Word :=
  match i with
  | .unop => some 0#32
  | .uadd c d a b => some (wordT c 0x01#7 d a b)
  | .usub c d a b => some (wordT c 0x02#7 d a b)
  | .umul c d a b => some (wordT c 0x03#7 d a b)
  | .umulhI c d a b => some (wordT c 0x04#7 d a b)
  | .umulhN c d a b => some (wordT c 0x05#7 d a b)
  | .uand c d a b => some (wordT c 0x06#7 d a b)
  | .uor c d a b => some (wordT c 0x07#7 d a b)
  | .uxor c d a b => some (wordT c 0x08#7 d a b)
  | .uandn c d a b => some (wordT c 0x09#7 d a b)
  | .ushl c d a b => some (wordT c 0x0A#7 d a b)
  | .ushr c d a b => some (wordT c 0x0B#7 d a b)
  | .usar c d a b => some (wordT c 0x0C#7 d a b)
  | .uminI c d a b => some (wordT c 0x0D#7 d a b)
  | .uminN c d a b => some (wordT c 0x0E#7 d a b)
  | .umaxI c d a b => some (wordT c 0x0F#7 d a b)
  | .umaxN c d a b => some (wordT c 0x10#7 d a b)
  | .usltI c d a b => some (wordT c 0x11#7 d a b)
  | .usltN c d a b => some (wordT c 0x12#7 d a b)
  | .useq c d a b => some (wordT c 0x13#7 d a b)
  | .uaddi c d i => some (wordI c 0x14#7 d i)
  | .umovi c d i => some (wordI c 0x15#7 d i)
  | .ului c d i => some (wordI c 0x16#7 d i)
  | .uclz c d a => some (wordT c 0x17#7 d a 0x0#8)
  | .upopc c d a => some (wordT c 0x17#7 d a 0x1#8)
  | .ubrev c d a => some (wordT c 0x17#7 d a 0x2#8)
  | .usext8 c d a => some (wordT c 0x17#7 d a 0x3#8)
  | .usext16 c d a => some (wordT c 0x17#7 d a 0x4#8)
  | .uneg c d a => some (wordT c 0x17#7 d a 0x5#8)
  | .uabs c d a => some (wordT c 0x17#7 d a 0x6#8)
  | .ubfe c d a b => some (wordT c 0x18#7 d a b)
  | .ubfi c d a b => some (wordT c 0x19#7 d a b)
  | .ufadd c d a b => some (wordT c 0x1A#7 d a b)
  | .ufmul c d a b => some (wordT c 0x1B#7 d a b)
  | .ufslt c d a b => some (wordT c 0x1C#7 d a b)
  | .uld c d a o => some (wordT c 0x1D#7 d a o)
  | .ust c d a o => some (wordT c 0x1E#7 d a o)
  | .usr c d a => some (wordT c 0x1F#7 d a 0x0#8)
  | .usw c d a => some (wordT c 0x1F#7 d a 0x1#8)
  | .upfx d a b w i => some (wordI true 0x7E#7 (d ++ a ++ b ++ w) i)
  | .vpfx m r z d a b c => some (wordJ true 0x7F#7 (m ++ r ++ z ++ d ++ a ++ b ++ c ++ 0x0#3))
  | .vadd c d a b => some (wordT c 0x20#7 d a b)
  | .vsub c d a b => some (wordT c 0x21#7 d a b)
  | .vmul c d a b => some (wordT c 0x22#7 d a b)
  | .vmulhI c d a b => some (wordT c 0x23#7 d a b)
  | .vmulhN c d a b => some (wordT c 0x24#7 d a b)
  | .vmad c d a b => some (wordT c 0x25#7 d a b)
  | .vand c d a b => some (wordT c 0x26#7 d a b)
  | .vor c d a b => some (wordT c 0x27#7 d a b)
  | .vxor c d a b => some (wordT c 0x28#7 d a b)
  | .vandn c d a b => some (wordT c 0x29#7 d a b)
  | .vshl c d a b => some (wordT c 0x2A#7 d a b)
  | .vshr c d a b => some (wordT c 0x2B#7 d a b)
  | .vsar c d a b => some (wordT c 0x2C#7 d a b)
  | .vminI c d a b => some (wordT c 0x2D#7 d a b)
  | .vminN c d a b => some (wordT c 0x2E#7 d a b)
  | .vmaxI c d a b => some (wordT c 0x2F#7 d a b)
  | .vmaxN c d a b => some (wordT c 0x30#7 d a b)
  | .vbfe c d a b => some (wordT c 0x31#7 d a b)
  | .vbfi c d a b => some (wordT c 0x32#7 d a b)
  | .vsel c d a b => some (wordT c 0x33#7 d a b)
  | .vcmpI c k m a b => some (wordT c 0x34#7 (0x0#1 ++ k ++ 0x0#1 ++ m) a b)
  | .vcmpN c k m a b => some (wordT c 0x35#7 (0x0#1 ++ k ++ 0x0#1 ++ m) a b)
  | .vfcmpF32 c k m a b => some (wordT c 0x36#7 (0x0#1 ++ k ++ 0x0#1 ++ m) a b)
  | .vclz c d a => some (wordT c 0x37#7 d a 0x0#8)
  | .vpopc c d a => some (wordT c 0x37#7 d a 0x1#8)
  | .vbrev c d a => some (wordT c 0x37#7 d a 0x2#8)
  | .vsext8 c d a => some (wordT c 0x37#7 d a 0x3#8)
  | .vsext16 c d a => some (wordT c 0x37#7 d a 0x4#8)
  | .vneg c d a => some (wordT c 0x37#7 d a 0x5#8)
  | .vabs c d a => some (wordT c 0x37#7 d a 0x6#8)
  | .vmov c d a => some (wordT c 0x37#7 d a 0x7#8)
  | .vfaddF32 c d a b => some (wordT c 0x38#7 d a b)
  | .vfsubF32 c d a b => some (wordT c 0x39#7 d a b)
  | .vfmulF32 c d a b => some (wordT c 0x3A#7 d a b)
  | .vfmaF32 c d a b => some (wordT c 0x3B#7 d a b)
  | .vfminF32 c d a b => some (wordT c 0x3C#7 d a b)
  | .vfmaxF32 c d a b => some (wordT c 0x3D#7 d a b)
  | .vfaddF16x2 c d a b => some (wordT c 0x3E#7 d a b)
  | .vfmulF16x2 c d a b => some (wordT c 0x3F#7 d a b)
  | .vfmaF16x2 c d a b => some (wordT c 0x40#7 d a b)
  | .vfaddBf16x2 c d a b => some (wordT c 0x41#7 d a b)
  | .vfmulBf16x2 c d a b => some (wordT c 0x42#7 d a b)
  | .vfmaBf16x2 c d a b => some (wordT c 0x43#7 d a b)
  | .vdot2F16 c d a b => some (wordT c 0x44#7 d a b)
  | .vdot2Bf16 c d a b => some (wordT c 0x45#7 d a b)
  | .vfabs c d a => some (wordT c 0x46#7 d a 0x0#8)
  | .vfneg c d a => some (wordT c 0x46#7 d a 0x1#8)
  | .vfclass c d a => some (wordT c 0x46#7 d a 0x2#8)
  | .vfrnd c d a => some (wordT c 0x46#7 d a 0x3#8)
  | .vcvt c d a x s t => some (wordT c 0x47#7 d a (0x0#1 ++ x ++ s ++ t))
  | .vqcvt c d a l f => some (wordT c 0x48#7 d a (0x0#2 ++ l ++ f))
  | .vqexp c d a l f => some (wordT c 0x49#7 d a (0x0#2 ++ l ++ f))
  | .vrcp c d a => some (wordT c 0x4A#7 d a 0x0#8)
  | .vrsq c d a => some (wordT c 0x4A#7 d a 0x1#8)
  | .vsqrt c d a => some (wordT c 0x4A#7 d a 0x2#8)
  | .vexp2 c d a => some (wordT c 0x4A#7 d a 0x3#8)
  | .vlog2 c d a => some (wordT c 0x4A#7 d a 0x4#8)
  | .vsin c d a => some (wordT c 0x4A#7 d a 0x5#8)
  | .vcos c d a => some (wordT c 0x4A#7 d a 0x6#8)
  | .vtanh c d a => some (wordT c 0x4A#7 d a 0x7#8)
  | .vshfl c d a b => some (wordT c 0x4B#7 d a b)
  | .vrot c d a b => some (wordT c 0x4C#7 d a b)
  | .vredu c d a f => some (wordT c 0x4D#7 d a f)
  | .vtrans c d a e => some (wordT c 0x4E#7 d a (0x0#6 ++ e))
  | .vrand c d => some (wordT c 0x4F#7 d 0x0#8 0x0#8)
  | .vld c d a o => some (wordT c 0x50#7 d a o)
  | .vst c d a o => some (wordT c 0x51#7 d a o)
  | .vlds c d a o => some (wordT c 0x52#7 d a o)
  | .vsts c d a o => some (wordT c 0x53#7 d a o)
  | .vatom c d a s r p => some (wordT c 0x54#7 d a (s ++ r ++ p))
  | .vred c d a s r p => some (wordT c 0x55#7 d a (s ++ r ++ p))
  | .vatoms c d a s r p => some (wordT c 0x56#7 d a (s ++ r ++ p))
  | .vcas c d a b => some (wordT c 0x57#7 d a b)
  | .vcass c d a b => some (wordT c 0x58#7 d a b)
  | .vldfe c d a o => some (wordT c 0x59#7 d a o)
  | .vstef c d a o => some (wordT c 0x5A#7 d a o)
  | .vpref c l a o => some (wordT c 0x5B#7 (0x0#7 ++ l) a o)
  | .vldpk c d a o => some (wordT c 0x5C#7 d a o)
  | .vspfeEmpty c a => some (wordT c 0x5D#7 0x0#8 a 0x0#8)
  | .vspfeFull c a => some (wordT c 0x5D#7 0x0#8 a 0x1#8)
  | .vspfeGet c d a => some (wordT c 0x5D#7 d a 0x2#8)
  | .mma c t f a b => some (wordT c 0x60#7 (t ++ f) a b)
  | .mzero c t => some (wordT c 0x61#7 (t ++ 0x0#6) 0x0#8 0x0#8)
  | .mtov c t k a => some (wordT c 0x62#7 (t ++ 0x0#3 ++ k) a 0x0#8)
  | .mfromv c t k a => some (wordT c 0x63#7 (t ++ 0x0#3 ++ k) a 0x0#8)
  | .mdrain c t a x h => some (wordT c 0x64#7 (t ++ 0x0#6) a (0x0#3 ++ x ++ h))
  | .mrp c t a => some (wordT c 0x65#7 (t ++ 0x0#6) a 0x0#8)
  | .cpyG2s c h a => some (wordT c 0x68#7 (0x0#4 ++ h) a 0x0#8)
  | .cpyS2g c h a => some (wordT c 0x68#7 (0x0#4 ++ h) a 0x1#8)
  | .cpyS2gAdd c h a => some (wordT c 0x68#7 (0x0#4 ++ h) a 0x2#8)
  | .cpyG2g c h a => some (wordT c 0x68#7 (0x0#4 ++ h) a 0x3#8)
  | .cpyS2s c h a => some (wordT c 0x68#7 (0x0#4 ++ h) a 0x4#8)
  | .cpyGate c h a => some (wordT c 0x68#7 (0x0#4 ++ h) a 0x5#8)
  | .ckick c h a b => some (wordT c 0x69#7 (0x0#4 ++ h) a b)
  | .hwait c d h => some (wordT c 0x6A#7 d (0x0#4 ++ h) 0x0#8)
  | .htest c d h => some (wordT c 0x6A#7 d (0x0#4 ++ h) 0x1#8)
  | .hcancel c h => some (wordT c 0x6A#7 0x0#8 (0x0#4 ++ h) 0x2#8)
  | .hmove c g h => some (wordT c 0x6A#7 (0x0#4 ++ g) (0x0#4 ++ h) 0x3#8)
  | .hexport c d h => some (wordT c 0x6A#7 d (0x0#4 ++ h) 0x4#8)
  | .himport c g a => some (wordT c 0x6A#7 (0x0#4 ++ g) a 0x5#8)
  | .bbinit c d a => some (wordT c 0x6B#7 d a 0x0#8)
  | .bbexpect c d a => some (wordT c 0x6B#7 d a 0x1#8)
  | .bbarrive c d a => some (wordT c 0x6B#7 d a 0x2#8)
  | .bbwait c d a => some (wordT c 0x6B#7 d a 0x3#8)
  | .bbtest c d a => some (wordT c 0x6B#7 d a 0x4#8)
  | .br c a k o => some (wordI c 0x70#7 a (k ++ o))
  | .jmp c o => some (wordJ c 0x71#7 o)
  | .call c o => some (wordJ c 0x72#7 o)
  | .loop c d i => some (wordI c 0x74#7 d i)
  | .ret c => some (wordT c 0x73#7 0x0#8 0x0#8 0x0#8)
  | .bri c a => some (wordT c 0x73#7 0x0#8 a 0x1#8)
  | .calli c a => some (wordT c 0x73#7 0x0#8 a 0x2#8)
  | .yield c => some (wordT c 0x73#7 0x0#8 0x0#8 0x3#8)
  | .exit c => some (wordT c 0x73#7 0x0#8 0x0#8 0x4#8)
  | .tret c => some (wordT c 0x73#7 0x0#8 0x0#8 0x5#8)
  | .sdrain c => some (wordT c 0x73#7 0x0#8 0x0#8 0x6#8)
  | .fence c s k => some (wordT c 0x73#7 (s ++ 0x0#3 ++ k) 0x0#8 0x7#8)
  | .trap c d => some (wordT c 0x73#7 d 0x0#8 0x8#8)
  | .mget c d a => some (wordT c 0x75#7 d (0x0#5 ++ a) 0x0#8)
  | .mset c d a => some (wordT c 0x75#7 (0x0#5 ++ d) a 0x1#8)
  | .mand c d a => some (wordT c 0x75#7 (0x0#5 ++ d) (0x0#5 ++ a) 0x2#8)
  | .mandn c d a => some (wordT c 0x75#7 (0x0#5 ++ d) (0x0#5 ++ a) 0x3#8)
  | .mor c d a => some (wordT c 0x75#7 (0x0#5 ++ d) (0x0#5 ++ a) 0x4#8)
  | .mxor c d a => some (wordT c 0x75#7 (0x0#5 ++ d) (0x0#5 ++ a) 0x5#8)
  | .mlive c d => some (wordT c 0x75#7 (0x0#5 ++ d) 0x0#8 0x6#8)
  | .mpopc c d a => some (wordT c 0x75#7 d (0x0#5 ++ a) 0x7#8)
  | .mfirst c d a => some (wordT c 0x75#7 d (0x0#5 ++ a) 0x8#8)
  | .mput c d a => some (wordT c 0x75#7 (0x0#5 ++ d) a 0x9#8)
  | .mtake c d a => some (wordT c 0x75#7 d (0x0#5 ++ a) 0xA#8)
  | .bar c s n => some (wordT c 0x76#7 (s ++ n) 0x0#8 0x0#8)
  | .bara c s n a => some (wordT c 0x76#7 (s ++ n) a 0x1#8)
  | .barw c s n a => some (wordT c 0x76#7 (s ++ n) a 0x2#8)
  | .bard c s n => some (wordT c 0x76#7 (s ++ n) 0x0#8 0x3#8)
  | .barj c s n a => some (wordT c 0x76#7 (s ++ n) a 0x4#8)
  | .spawn c d a => some (wordT c 0x77#7 d a 0x0#8)
  | .qpush c d a => some (wordT c 0x77#7 d a 0x1#8)
  | .qpop c d a => some (wordT c 0x77#7 d a 0x2#8)
  | .qtrypush c d a => some (wordT c 0x77#7 d a 0x3#8)
  | .qtrypop c d a => some (wordT c 0x77#7 d a 0x4#8)
  | .tlsig c d a => some (wordT c 0x77#7 d a 0x5#8)
  | .tlwait c d a => some (wordT c 0x77#7 d a 0x6#8)
  | .tlread c d a => some (wordT c 0x77#7 d a 0x7#8)
  | .coll c h a => some (wordT c 0x77#7 (0x0#4 ++ h) a 0x8#8)
  | .asdef c n a => some (wordT c 0x78#7 (0x0#6 ++ n) a 0x0#8)
  | .astouch c d a => some (wordT c 0x78#7 d a 0x1#8)
  | .asage c d => some (wordT c 0x78#7 d 0x0#8 0x2#8)
  | .asq c d a => some (wordT c 0x78#7 d a 0x3#8)
  | .asretry c a => some (wordT c 0x78#7 0x0#8 a 0x4#8)
  | .erd c d a => some (wordT c 0x79#7 d a 0x0#8)
  | .ebkt c d a => some (wordT c 0x79#7 d a 0x1#8)
  | .eop c d a => some (wordT c 0x79#7 d a 0x2#8)
  | .cntrd c d a => some (wordT c 0x7A#7 d a 0x0#8)
  | .tstamp c d => some (wordT c 0x7A#7 d 0x0#8 0x1#8)
  | .trd c d a => some (wordT c 0x7B#7 d a 0x0#8)
  | .twr c d a => some (wordT c 0x7B#7 d a 0x1#8)
  | _ => none

/-- The pipe and group facts of R29 that a raw major gives: 0 none (prefix), 1 U, 2 V, 3 M, 4 C. -/
def pipeOf (m : BitVec 7) : Nat :=
  if m < 0x20#7 then 1 else if m < 0x60#7 then 2 else if m < 0x68#7 then 3 else if m < 0x70#7 then 4
  else if m < 0x7E#7 then 1 else 0

/-- What the host asks of the decoder: the instruction of one table row's bits. -/
def decodeTableWord (nbits w : Nat) : Option Instr :=
  if nbits = 32 then (decodeBytes (bytesOfWord (BitVec.ofNat 32 w))).toOption else none

/-! ### Packets and code lines (R21 to R24) -/

/-- A PC is valid when its low six bits are 0, 12, 24, 36 or 48 (R22). -/
def pcValid (pc : BitVec 64) : Bool :=
  let l := pc.toNat % 64
  l == 0 || l == 12 || l == 24 || l == 36 || l == 48

/-- R24. The packet index of a PC. -/
def packetIndex (pc : BitVec 64) : Int := ((pc.toNat / 64 * 5 + pc.toNat % 64 / 12 : Nat) : Int)

/-- R24. The PC of a packet; its 64 bits are those of the exact value. -/
def pcOfPacket (p : Int) : BitVec 64 := BitVec.ofInt 64 (p / 5 * 64 + p % 5 * 12)

/-- R24. A branch target: `off` packets from the packet of `pc`. -/
def targetPc (pc : BitVec 64) (off : Int) : BitVec 64 := pcOfPacket (packetIndex pc + off)

/-- R23, R86. The packet after that of `pc`. -/
def nextPacket (pc : BitVec 64) : BitVec 64 := targetPc pc 1

end Sys2Proof
end

