-- ==== Sys2Proof/Machine/Assoc.lean ====
section
/-!
DEFINITION. Sparse maps as plain data: lists of (key, value) pairs with strictly rising keys. `Assoc` keeps exactly
the keys that were inserted; the `Sp` operations keep a map with a default value, in which an entry equal to the
default is never listed, so that equal contents are equal lists. Memory (R187), registers and tiles are `Sp` maps.
-/

namespace Sys2Proof.Machine

/-- A sparse map from numbers. -/
abbrev Assoc (α : Type) := List (Nat × α)

/-- The value at a key, if the key is listed. -/
def Assoc.find? {α : Type} : Assoc α → Nat → Option α
  | [], _ => none
  | (k, v) :: m, i => if i = k then some v else Assoc.find? m i

/-- Insert or replace the value at a key, keeping the keys strictly rising. -/
def Assoc.insert {α : Type} : Assoc α → Nat → α → Assoc α
  | [], i, x => [(i, x)]
  | (k, v) :: m, i, x =>
    if i < k then (i, x) :: (k, v) :: m
    else if i = k then (i, x) :: m
    else (k, v) :: Assoc.insert m i x

/-- Remove a key. -/
def Assoc.erase {α : Type} : Assoc α → Nat → Assoc α
  | [], _ => []
  | (k, v) :: m, i => if i = k then Assoc.erase m i else (k, v) :: Assoc.erase m i

/-- The keys strictly rise. -/
def Assoc.sorted {α : Type} : Assoc α → Bool
  | [] => true
  | [_] => true
  | (a, _) :: (b, y) :: m => a < b && Assoc.sorted ((b, y) :: m)

/-- A map with a default: the value at a key. -/
def Sp.get {α : Type} (d : α) (m : Assoc α) (i : Nat) : α := (m.find? i).getD d

/-- A map with a default: write a key. Writing the default removes the entry. -/
def Sp.set {α : Type} [DecidableEq α] (d : α) (m : Assoc α) (i : Nat) (x : α) : Assoc α :=
  if x = d then m.erase i else m.insert i x

/-- The canonical form of a map with a default: keys rise and no entry holds the default. -/
def Sp.wf {α : Type} [DecidableEq α] (d : α) (m : Assoc α) : Bool :=
  m.sorted && m.all (fun p => p.2 ≠ d)

/-- Sparse 32-bit registers; an unlisted register holds zero. -/
abbrev Words := Assoc Word

/-- Sparse bytes (Host.Cell is one pair of it); an unlisted byte reads as zero. -/
abbrev Bytes := Assoc Byte

/-- The canonical form of a memory: addresses strictly rise, and no listed byte is zero. -/
def Memory.wf (m : Bytes) : Bool := Sp.wf 0 m

/-- Read a register. -/
def Words.get (m : Words) (i : Nat) : Word := Sp.get 0 m i

/-- Write a register. -/
def Words.set (m : Words) (i : Nat) (x : Word) : Words := Sp.set 0 m i x

end Sys2Proof.Machine
end

