-- ==== Sys2Proof/Machine/State.lean ====
section
/-!
DEFINITION. The state of one XG1640 package, as plain data: everything the spec gives the machine (INVENTORY.md,
heading State), the reasons for which a step can stop, and the state after reset. What a table does not list is at its
reset value.
-/

namespace Sys2Proof.Machine

/-! ### Prefixes and the issue context -/

/-- The fields of a VPFX (R37). -/
structure VPfx where
  msk : BitVec 3
  rm : BitVec 3
  zm : Bool
  wd : BitVec 2
  wa : BitVec 2
  wb : BitVec 2
  c : BitVec 8
  deriving DecidableEq, Repr

/-- A V word without VPFX acts as if every field were zero (R37). -/
def VPfx.zero : VPfx := { msk := 0, rm := 0, zm := false, wd := 0, wa := 0, wb := 0, c := 0 }

/-- The fields of a UPFX (R39). -/
structure UPfx where
  xd : BitVec 2
  xa : BitVec 2
  xb : BitVec 2
  w : BitVec 2
  imm : BitVec 16
  deriving DecidableEq, Repr

/-- Trap causes (R56, R389), with the codes of `Cause.code`. -/
inductive Cause where
  | illegalOpcode | illegalOperand | illegalGroup | illegalPc | priv
  | loadFault | storeFault | execFault | align | spadRange | swizzleMismatch | setViolation | rsSpillFault
  | satPending | trapInsn
  deriving DecidableEq, Repr

/-- The code a trap record gives a cause (R389). -/
def Cause.code : Cause → Nat
  | .illegalOpcode => 0x01 | .illegalOperand => 0x02 | .illegalGroup => 0x03 | .illegalPc => 0x04 | .priv => 0x05
  | .loadFault => 0x10 | .storeFault => 0x11 | .execFault => 0x12 | .align => 0x13 | .spadRange => 0x14
  | .swizzleMismatch => 0x15 | .setViolation => 0x16 | .rsSpillFault => 0x17 | .satPending => 0x20
  | .trapInsn => 0x30

/-- What a trap records beyond the position it resumes at (R388). `va` is `none` when VAV is 0. -/
structure TrapInfo where
  cause : Cause
  tcode : Nat := 0
  detail : Nat := 0
  reason : Nat := 0
  kind : Nat := 0
  va : Option Nat := none
  size : Nat := 0
  slot : Nat := 0
  sfrq : Option Nat := none
  tile : Nat := 0
  opnd : Nat := 0
  handle : Nat := 0
  deriving DecidableEq, Repr

/-- What stopped a word from issuing in this step (R77, R120). None of these is a trap. -/
inductive Hold where
  | rod                     -- the rod is busy (R68)
  | scoreboard              -- a register is pending (R75)
  | mask                    -- a compare's mask is pending (R145)
  | lateResult              -- a result at its distance is not yet delivered (R74)
  | walk                    -- a translation miss is queued (R194)
  | pageWait                -- a host page is awaited (R196)
  | granule                 -- a granule is requested or awaited (R254, R256)
  | matrixUnit              -- the matrix unit cannot accept (R277, R278)
  | copyEngine              -- no free request entry (R298)
  | handlePending           -- the named handle is Pending (R307, R317)
  | exportFull              -- the 256 export entries are taken (R319)
  | stores                  -- an earlier store is not translated, or the SFRQ skid bound (R203, R206)
  | release                 -- the waits of R234
  | storeQueueFull          -- the store queue has no entry (R210)
  | barrier                 -- not counted or already arrived (R326)
  | homeReply               -- a TASK word's home slice has not replied (R333)
  | exitDrain               -- EXIT waits for its drain, M words or hold buffer (R91, R265, R290)
  | opChange                -- an operating-point change is in progress (R361)
  | fence (scope kind : Nat) -- a FENCE whose conditions do not hold yet (R94, R236)
  deriving DecidableEq, Repr

/-- The outcome of the word under execution, read by the step that issues its group (R32, R57). -/
inductive IssueRes where
  | none
  | done
  | enc (c : Cause)         -- an illegal encoding (R56)
  | trap (t : TrapInfo)     -- a precise trap of an execution fault (R19)
  | held (h : Hold)
  deriving DecidableEq, Repr

/-! ### Traps of a strand -/

/-- Where a trap resumes and which V word it stopped (R388, R389). -/
structure TrapPos where
  pc : DWord
  widx : Nat
  deriving DecidableEq, Repr

/-- A trap that a strand has outstanding (R390). `group` is the group recorded when it is not the next unissued one. -/
structure Outstanding where
  info : TrapInfo
  group : Option TrapPos
  handlerWork : Nat         -- raised by work that the handler of this serial number issued; 0 by none (R393)
  vword : Bool := false     -- arises in the V word that stands at its slot (R389)
  deriving DecidableEq, Repr

/-! ### V words on the rod -/

/-- Why a V word stands at its cursor (R83, R84, R195, R196, R256). -/
inductive FlightStop where
  | ran                     -- every slot has acted; the rod is busy until V_WORD_COMPLETION
  | walk                    -- the slot awaits a page walk or an ATS answer, on the rod
  | pageWait                -- stopped for a host page (R196)
  | granReq                 -- the slot awaits the home's reply, on the rod (R254)
  | granWait                -- stopped on a wait list (R256)
  | fullEmpty               -- VLDFE or VSTEF waits at the slot (R183)
  | stores                  -- the slot awaits the translation of an earlier store, or a store queue entry
  | remote                  -- the slot awaits a remote message to complete (R171)
  | release                 -- a release V word before its lowest active slot (R206, R235)
  | faulted                 -- the slot faulted; its trap is outstanding
  | reissue                 -- to be re-issued alone from its cursor (R32, R84)
  deriving DecidableEq, Repr

/-- A granule on a hold list (R250, R254): base address and log2 size. -/
structure Granule where
  base : Nat
  glog : Nat
  deriving DecidableEq, Repr

/-- The V word that a strand has on its rod or has stopped between slots, with the resume state of R84. -/
structure Flight where
  instr : Instr
  vp : VPfx
  pc : DWord
  widx : Nat                -- word index of the V word itself
  gwidx : Nat               -- word index of its issue group
  lit : Word                -- the line literal it read
  active : Word             -- the active mask of its issue (R67)
  cursor : Nat              -- the first slot that has not acted
  uni : Words               -- the uniform registers as they were at issue (R121)
  fmt : Words               -- the format registers as they were at issue (R105)
  bvals : Words             -- a memory word's B operand as read at issue: register i of slot k at 2k + i (R31)
  wins : List (Nat × Nat × Bool × Bool)  -- L1 accesses of this pass: window, line, host memory, miss (R208)
  seq : Nat                 -- its vector serial number (R71)
  group : Nat               -- its issue group number (R203)
  hgroup : Nat := 0         -- handler groups before it (R204)
  stop : FlightStop
  waited : Bool             -- its release waits are complete (R235)
  mask : Option Nat         -- the mask register a compare will write (R145)
  began : Bool := false     -- its acquire has begun at this issue (R235)
  settled : Bool := false   -- its strand has passed a switch point: what it still delivers commits at once (R80)
  mark : Nat := 0           -- serials below it belong to words that stand before it
  relIds : Option (List Nat) := none   -- the store-queue entries that its release awaits (R234)
  fromHandler : Bool := false  -- a trap handler issued it (R393)
  granule : Option Granule := none   -- the granule that its slot awaits (R256)
  deriving DecidableEq, Repr

/-- A floating-point result in a slot's write buffer (R73). -/
structure WBuf where
  reg : Nat
  val : Word
  seq : Nat
  deriving DecidableEq, Repr

/-- A special-function or scratchpad-load result on its way to a register (R74, R169). -/
structure Late where
  reg : Nat
  slot : Nat
  val : Word
  flags : Nat               -- flags that delivery ORs into SF (R111)
  seq : Nat
  sfu : Bool                -- special function, else scratchpad
  delivered : Bool
  void : Bool := false      -- a later word has written its register: it still delivers its flags (R111)
  deriving DecidableEq, Repr

/-! ### Strands -/

/-- The states of R81. -/
inductive StrandState where
  | ready | parked | waiting | held | halted | trapEntry | exited
  deriving DecidableEq, Repr

/-- The condition a Waiting or Parked strand waits for (R80, R81). -/
inductive WaitOn where
  | nothing
  | barrier (inst : Nat) (gen : Word)
  | byteBarrier (core off : Nat) (phase : Bool)
  | handle (h : Nat) (d : Nat)
  | timeline (pa : Nat) (thr : DWord)
  | queue (hdr : Nat) (pop : Bool)
  | fullEmpty (core off : Nat) (full : Bool)
  | exit
  | token
  | retry
  | group                   -- Parked at its group: a home reply, a granule or a page
  | data (ids : List Nat)   -- Parked until these loads have returned (R82)
  | fence (scope kind : Nat) -- Parked at a FENCE (R94)
  deriving DecidableEq, Repr

/-- A handle's states, with the status word of R316 when Done (R315). -/
inductive Handle where
  | empty
  | pending
  | done (status : Word)
  deriving DecidableEq, Repr

/-- A 64-byte line in the hold buffer with its byte-valid mask (R258): offset and byte pairs. -/
structure HeldLine where
  line : Nat
  host : Bool
  key : Nat := 0              -- key slot of its page (R414)
  bytes : List (Nat × Byte)
  fetched : List Byte := []   -- the line as an atomic step fetched it (R257)
  deriving DecidableEq, Repr

/-- A deferred SPAWN or QPUSH of a set-bearing task (R259, R265). -/
inductive Deferred where
  | spawn (rec : List Byte)
  | qpush (hdr : Nat) (data : List Word)
  deriving DecidableEq, Repr

/-- The unit of work a strand belongs to (R12). -/
inductive WorkRef where
  | cohort (launch cohort : Nat)
  | task (id : Nat)
  deriving DecidableEq, Repr

/-- The action a TASK word has pending at a home slice (R333, R336, R338). -/
inductive HomeOp where
  | qpush (hdr : Nat) (d n : Nat) (data : List Word) (try_ : Bool)
  | qpop (hdr : Nat) (d n : Nat) (try_ : Bool)
  | tlsig (pa : Nat) (v : DWord)
  | tlread (pa : Nat) (d : Nat)
  | spawn (d : Nat) (rec : List Byte)
  deriving DecidableEq, Repr

/-- Whose a queue's waiter or a popped entry on its way is: a word's, that of a word which a trap has left (R390), a deferred
QPUSH's (R265), or nobody's any more. -/
inductive QueueRole where
  | word | left | deferred | lost
  deriving DecidableEq, Repr

/-- What dispatch fixes for a strand's life (R65, R124, R163, R252, R331). -/
structure StrandInfo where
  ctx : Nat := 0
  part : Nat := 0
  work : WorkRef := .task 0
  live : Word := 0
  vrows : Nat := 0
  ublk : Nat := 0
  tiles : List Nat := []              -- physical tiles of its quarter, a0 first (R275)
  strandId : Nat := 0
  cohort : Nat := 0
  neigh : Option Nat := none          -- neighbourhood number (R375)
  cx : Nat := 0
  cy : Nat := 0
  cz : Nat := 0
  nstrand : Nat := 1
  spBase : Nat := 0
  spLog : Nat := 0
  winBase : DWord := 0
  segs : List (Nat × Nat) := []       -- window segments: core and block offset (R170)
  stamp : DWord := 0                  -- age stamp (R252)
  entry : DWord := 0                  -- entry PC
  args : List Word := []              -- ARG0 to ARG7
  depth : Nat := 0                    -- nesting depth (R334)
  frame : Nat := 0                    -- strand frame of the save area (R380)
  setCount : Nat := 0                 -- set count of the task record (R249)
  setPtr : Nat := 0                   -- set descriptor pointer of the task record (R249)
  order : Nat := 0                    -- its place in the enqueue order (R262)
  deriving DecidableEq, Repr

/-- The atomic-set state of a task (R248 to R271). -/
structure SetState where
  restarts : Nat := 0
  reason : Nat := 0                   -- reason of the last rollback (R271)
  serialised : Bool := false
  token : Bool := false               -- holds the irrevocable token (R266)
  sets : Assoc (BitVec 128) := []     -- set descriptors by slot (R248)
  bad : Nat := 0                      -- violation code awaiting the first group (R249)
  sets0 : Assoc (BitVec 128) := []    -- the sets and the code that dispatch copied, for a restart (R249, R261)
  bad0 : Nat := 0
  unread : Bool := false              -- the descriptors lie on a host page that is awaited (R196, R249)
  granted : Bool := false             -- a grant has been made
  holds : List Granule := []          -- hold list (R254)
  lines : List HeldLine := []         -- hold buffer lines (R258)
  deferred : List Deferred := []
  committing : Bool := false
  rolling : Bool := false             -- a rollback is due at the next boundary
  overflow : Bool := false            -- the rollback due is an overflow's (R260)
  retryAt : DWord := 0                -- earliest restart after ASRETRY (R270)
  acks : Nat := 0                     -- releases not yet acknowledged (R261)
  fromRecord : Bool := false          -- it had spilt state when it was rolled back: it restarts from its record (R262)
  deriving DecidableEq, Repr

/-- The trap state of a strand (R388 to R395). -/
structure TrapState where
  traps : List Outstanding := []      -- oldest first (R390)
  inHandler : Bool := false
  serial : Nat := 0                   -- handlers that the strand has entered (R393)
  record : Words := []                -- the trap record, 256 words (R388)
  leftWait : Option (StrandState × WaitOn) := none   -- the wait a trap left (R390)
  leftMore : List WaitOn := []        -- the other waits of the group that it left
  leftHome : Option HomeOp := none    -- the TASK word whose wait or reply the trap left (R333, R337)
  leftRegs : Option (List (Nat × Word)) := none   -- the registers of its reply, when it has come
  leftAt : Option TrapPos := none     -- the group that it was Parked at; none when that group had issued
  stopped : Option Flight := none     -- the V word a trap stopped, with its saved operands (R84, R395)
  aside : Bool := false               -- the record does not name that word, which stands again after the return (R389)
  leftExit : Bool := false            -- the trap left a strand whose EXIT has issued (R91)
  leftSent : Option (Nat × TrapPos) := none   -- the remote step that its group awaits, and the group (R171)
  leftReply : Option (List Byte) := none      -- the reply, when it has come meanwhile
  handlerGroup : Nat := 0             -- the group number at which the handler began
  first : Nat := 0                    -- cause of the trap whose handler runs, for a double fault (R393)
  deriving DecidableEq, Repr

/-- Whose work it is, for its charges (R346, R347): the strand, its incarnation, its context and its quarter. -/
structure Work where
  g : Nat := 0
  inc : Nat := 0
  ctx : Nat := 0
  q : Nat := 0
  deriving DecidableEq, Repr

/-- A physical location: device memory (type 00) or host memory (type 01) (R188). -/
structure PAddr where
  host : Bool
  addr : Nat
  key : Nat := 0                     -- key slot of the page it was translated through; 0 is the firmware's (R414)
  deriving DecidableEq, Repr

/-- What a load pipe has read for an MMA (R279, R286): the bytes, the global lines and the scratchpad bytes that have been
charged. -/
structure PipeRead where
  bytes : List Byte := []
  lines : List PAddr := []
  spad : Nat := 0
  scales : List (Nat × Byte) := []   -- scale bytes read with the elements of their MX units, by address (R246)
  deriving DecidableEq, Repr

/-- The first byte that a load pipe could not read (R287): its fault, or the host page that it awaits. -/
structure PipeStop where
  page : Bool
  info : TrapInfo
  deriving DecidableEq, Repr

/-- An MMA's values as taken at issue (R285). -/
structure MmaArgs where
  fmt : Nat
  la : BitVec 128
  lb : BitVec 128
  fms : Words
  sel : Word
  r0 : Nat
  deriving DecidableEq, Repr

/-- What an M word in the M queue does (R277, R285, R291 to R293). -/
inductive MKind where
  | mma (a : MmaArgs)
  | mzero (sel : Word)
  | mtov (sel : Word) (reg blk : Nat)
  | mfromv (sel : Word) (blk : Nat) (vals : List (Nat × Word))
  | mdrain (creq : Nat)
  deriving DecidableEq, Repr

/-- What an MMA has staged (R279): stored rows of B, its block scales by row, and stored rows of A when TR = 1. -/
structure Staging where
  b : List (List Byte)
  scales : List (List Byte)
  a : List (List Byte)
  deriving DecidableEq, Repr

/-- An entry of the M queue (R277). -/
structure MEntry where
  id : Nat
  work : Work
  tile : Nat                         -- physical tile
  kind : MKind
  staged : Option Staging
  running : Bool
  row : Nat
  handlerWork : Nat                  -- serial number of the trap handler that issued it; 0 outside one (R393)
  info : StrandInfo := {}            -- the window of its strand at issue, which its pipes read through
  pos : Nat := 0                     -- units read of the staging, or of the row that is next (R240)
  got : PipeRead := {}               -- what they brought
  fail : Option PipeStop := none     -- the byte that stops it (R287)
  deriving DecidableEq, Repr

/-- A suspended MMA and why it stopped (R287, R288). -/
structure MSuspend where
  entry : MEntry
  trap : Option TrapInfo             -- `none`: it awaits a host page
  byte : TrapInfo                    -- the byte that stopped it, as its trap reports it
  reported : Bool                    -- its trap has been taken (R289)
  deriving DecidableEq, Repr

/-- An accumulator tile (R275): element (i, j) at 64*i + j. -/
structure TileSt where
  owner : Option Nat := none
  data : Words := []
  rp : Nat := 0
  susp : Option MSuspend := none
  heldWords : List MEntry := []      -- words held behind a suspended MMA or a halted strand
  stale : Option Work := none        -- the ended work whose words still run on it; it is zeroed or freed after them (R261)
  deriving DecidableEq, Repr

/-- A scratchpad block that was claimed and written out: its core, its offset and its strands, and what it holds: bytes,
full/empty bits, tags and the reach of its byte barriers' flips (R167, R238, R383). -/
structure SpiltBlock where
  core : Nat
  off : Nat
  users : List Nat
  bytes : Bytes
  fe : Assoc Bool
  tags : Assoc (BitVec 4)
  bbFar : List Nat
  deriving DecidableEq, Repr

/-- The units of a halted strand that were claimed and written out, with the contents that return at its refill
(R383): its slot, counts of pool units and uniform blocks, tiles by index, scratchpad blocks and hold-buffer lines.
Units go lowest index first, so that the counts say which; blocks stay with the lowest strand that uses them. -/
structure Spilt where
  slot : Bool := false
  rows : Nat := 0
  ublks : Nat := 0
  tiles : List (Nat × TileSt) := []
  blocks : List SpiltBlock := []
  lines : Nat := 0
  deriving DecidableEq, Repr

/-- A strand (R65). Its key is its global strand slot number (R7), plus 65,536 for each halted strand whose slot was
claimed before it and who returns to the same slot (R383). -/
structure Strand where
  resident : Bool := false
  spilt : Spilt := {}
  resuming : Bool := false            -- Halted in a context that has resumed, until its spilt units are back (R383)
  info : StrandInfo := {}
  aset : SetState := {}
  trap : TrapState := {}
  state : StrandState := .ready
  wait : WaitOn := .nothing
  more : List WaitOn := []            -- what else the words of its group wait for (R32, R80)
  before : StrandState := .ready      -- state to return to from Held (R82)
  haltFrom : StrandState := .ready    -- state to return to from Halted (R82)
  pc : DWord := 0
  widx : Nat := 0
  line : Option (Nat × List Byte) := none   -- the fetched code line: address and 64 bytes (R27)
  masks : Words := []                 -- m0 (em) to m7
  latches : Words := []               -- latch l of slot k at 32*l + k
  vregs : Words := []                 -- v(r) of slot k at 32*r + k
  uregs : Words := []
  wbuf : Assoc WBuf := []             -- by slot (R73)
  late : List Late := []              -- oldest first (R74)
  vseq : Nat := 0                     -- V words issued (R71)
  groups : Nat := 0                   -- issue groups issued (R203)
  hgroups : Nat := 0                  -- those of them that a handler issued (R204)
  flight : Option Flight := none
  cont : Option TrapPos := none       -- continuation (R84)
  rstk : List DWord := []             -- held return addresses, newest first (R87)
  rsp : DWord := 0
  rsDepth : Word := 0
  sf : Word := 0
  sfarm : Word := 0
  fm : Words := []
  rngKey : DWord := 0
  rngCtr : DWord := 0
  handles : Assoc Handle := []        -- h0 to h15; unlisted is Empty
  pendU : List (Nat × Nat) := []      -- pending uniform registers, with the load id (R75)
  pendV : List (Nat × Nat × Nat) := []  -- pending vector register, slot, load id (R75)
  homeOp : Option HomeOp := none      -- the TASK word's operation at a home slice (R333)
  replyRegs : List (Nat × Word) := [] -- the registers that the home's reply writes
  homeWait : Bool := false            -- the home has put the word among its waiters (R337)
  homeDone : Bool := false            -- the home has answered, and its reply is under way
  replied : Bool := false             -- the home has replied; the word completes when it is presented
  inc : Nat := 0                      -- serial number of its incarnation (the model's own)
  incCharge : Int := 0                -- incarnation charge in beads (R346)
  yielding : Bool := false            -- inside the 32-clock window of YIELD (R90)
  promoted : Bool := false            -- passed over for 1,024 clocks (R77)
  exitStep : Nat := 0                 -- how far EXIT has come (R91, R265)
  sent : Bool := false                -- the remote message of the waiting slot or word is on its way (R171)
  reply8 : Option (List Byte) := none -- the bytes that its reply carries (R171)
  usent : Option Nat := none          -- the same for a word of another pipe that waits at its group: its serial
  ureply : Option (List Byte) := none
  unacked : Nat := 0                  -- remote stores not yet acknowledged (R171)
  acquiring : Option Nat := none      -- scope of an acquire that is not yet complete (R234)
  relIds : Option (List Nat) := none  -- the store-queue entries that the group's release awaits (R234)
  leaving : Bool := false             -- its EXIT has issued beside another word and waits (R91)
  again : Option Flight := none       -- the V word that TRET re-issues once the rod is free (R395)
  deriving DecidableEq, Repr

/-! ### Per-core and per-quarter units -/

/-- A TLB entry (R193): page base, log2 size, translated base and the leaf's fields. -/
structure TlbEntry where
  ctx : Nat
  base : Nat
  lg : Nat
  pa : Nat
  typ : Nat
  r : Bool
  w : Bool
  x : Bool
  key : Nat
  other : Bool              -- the key slot lies in the other compartment of the context's world (R416)
  deriving DecidableEq, Repr

/-- A line in an L1 (R207): not coherent with other cores. -/
structure L1Line where
  pa : PAddr
  ctx : Nat
  data : List Byte
  deriving DecidableEq, Repr

/-- A slot's store in the store queue (R202, R210). -/
structure SqEntry where
  id : Nat
  work : Work
  va : DWord
  data : List Byte
  slot : Nat
  ust : Bool
  pc : DWord
  widx : Nat
  group : Nat
  hgroup : Nat := 0         -- handler groups before it (R204)
  window : Nat              -- identifies the word and its window of eight slots (R210)
  pa : Option PAddr         -- set when translated
  fromHandler : Bool
  deriving DecidableEq, Repr

/-- An SFRQ record (R204); `none` in the queue is a free place. -/
structure SfrqRec where
  va : DWord
  data : List Byte
  pc : DWord
  slot : Nat
  size : Nat
  reason : Nat
  widx : Nat
  kind : Nat
  work : Work
  group : Nat
  hgroup : Nat := 0         -- handler groups before it (R204)
  fromHandler : Bool
  deriving DecidableEq, Repr

/-- A combining-buffer entry (R211). -/
structure CbEntry where
  id : Nat
  work : Work               -- the entry's context, and the strand and quarter that allotted it
  pa : PAddr                -- line address
  op : Nat
  vals : Assoc Word         -- valid partial values by word index
  flushing : Bool
  deriving DecidableEq, Repr

/-- An outstanding global load (R75, R216): it is bound to bytes at completion, or earlier where order demands. -/
structure LoadReq where
  id : Nat
  work : Work
  uni : Bool                -- destination is uniform
  reg : Nat
  slot : Nat
  pa : PAddr
  n : Nat
  data : Option (List Byte) -- bound bytes
  home : Bool               -- performed at the home slice (R228)
  l1 : Nat                  -- L1 accesses it is charged (R208)
  trip : Bool               -- it is charged the trip to the home slice (R208)
  miss : Bool               -- it missed in L1, so the strand may park (R75)
  raw : Bool := false       -- VLDPK: it sees memory at the home slice only and fills no L1 (R273)
  word : Nat := 0           -- the V word's serial number; its slots read in ascending order (R225)
  remote : Bool := false    -- a load of a remote scratchpad block: its reply brings the bytes (R133, R171)
  deriving DecidableEq, Repr

/-- A step at scratchpad banks (R169, R180 to R184, R312): a byte barrier's step has the function code of R313. -/
inductive SpOp where
  | load (n : Nat)
  | store (data : List Byte)
  | atom (op : Nat) (v : Word)
  | cas (cmp new : List Byte)
  | ldfe
  | stef (v : Word)
  | feSet (full : Bool)
  | feGet
  | bb (fn : Nat) (v : Word)
  deriving DecidableEq, Repr

/-- Where the result of a remote step goes: nowhere (an acknowledgement), the word of another pipe
that waits at its group, a load of a uniform word, or the slot of a V word: one that waits for the reply, or a VSTEF, which
waits for its step only (R171, R183). -/
inductive SpDest where
  | none
  | uni (serial : Nat)
  | load (id : Nat)
  | slot
  | step
  deriving DecidableEq, Repr

/-- A remote scratchpad message (R171). -/
structure RemoteMsg where
  work : Work
  k : Nat
  off : Nat                 -- core offset at the target
  op : SpOp
  dest : SpDest
  deriving DecidableEq, Repr

/-- A scratchpad block (R163): offset, log2 size, the strands that use it and the copies that touch it. -/
structure SpBlock where
  off : Nat
  lg : Nat
  ctx : Nat
  users : List Nat
  exitPending : Bool
  deriving DecidableEq, Repr

/-- A tensor shape record as the engine holds it (R301): EXT, LO, HI, ORG, STRIDE by dimension. -/
structure ShapeDim where
  ext : Nat
  lo : Int
  hi : Int
  org : Int
  stride : Int
  deriving DecidableEq, Repr

structure Shape where
  fmt : Nat
  gate : Nat
  scoff : Int
  dims : List ShapeDim
  deriving DecidableEq, Repr

/-- The chunk that a copy request is moving (R299): its destination line, the pieces that have yet to move, and what it is
charged for when it is complete. -/
structure CopyChunk where
  line : Nat
  left : List Nat
  rd : List PAddr := []      -- global lines read
  wr : List PAddr := []      -- global bytes written
  spad : Nat := 0            -- scratchpad bytes read and written
  remote : Bool := false     -- it has touched a remote segment
  deriving DecidableEq, Repr

/-- A request entry of a copy engine (R298). `work` is the work that issued it, which pays for it; `own` is the one whose
handle it is. -/
structure CopyReq where
  id : Nat
  work : Work
  own : Work
  handle : Nat
  exported : Option Word     -- the token when the handle is exported (R319)
  form : Nat                 -- form code of R304; 6 drain, 7 adding drain
  regs : List Word           -- the eight registers (R305, R293)
  list : Option (Nat × Nat × Nat)   -- CKICK: window offset, count, next entry (R311)
  shape : Option Shape       -- read at start
  started : Bool
  drain : List Word          -- a drain's 4,096 element values once the tile is read
  done : List Nat            -- destination lines whose chunk has completed
  chunk : Option CopyChunk := none
  turn : Nat := 0            -- serial taken when it started and when its last chunk began (R299)
  part : List Nat := []      -- MX units that have moved without the bytes of another line, which failed (R246, R316)
  tagged : List Nat          -- scratchpad regions whose tag it has set (R308): core * 2048 + region
  info : StrandInfo          -- the issuing strand's window, which outlives it (R91, R167)
  cancel : Bool
  failed : Option TrapInfo
  status : Nat
  handlerWork : Nat          -- serial number of the trap handler that issued it; 0 outside one (R393)
  deriving DecidableEq, Repr

/-- An export entry (R319). -/
structure ExportEntry where
  token : Word
  work : WorkRef
  exporter : Nat
  handle : Handle
  deriving DecidableEq, Repr

/-- A reservation of a scratchpad range (R165), and the request that holds it: its context and its place in the enqueue
order. -/
structure Reservation where
  off : Nat
  lg : Nat
  ctx : Nat
  order : Nat
  deriving DecidableEq, Repr

/-- The state of one core beyond its strands (R5, R14). -/
structure CoreSt where
  spad : Bytes := []                 -- 2 MB scratchpad (R163)
  fe : Assoc Bool := []              -- full/empty bit by word index; unlisted is empty (R173)
  tags : Assoc (BitVec 4) := []      -- swizzle tag by 1 KB region (R175)
  bbFar : List Nat := []             -- byte barriers whose phase another core's agent flipped last (R238, R314)
  blocks : List SpBlock := []
  reserved : Option Reservation := none
  qptr : Nat := 0                    -- quarter pointer of the bank arbiter (R168)
  remote : List RemoteMsg := []      -- remote messages in flight to this core, oldest first (R171)
  tlb : List TlbEntry := []          -- most recently used first (R193)
  l1 : List L1Line := []
  icache : List L1Line := []         -- the instruction cache, most recently fetched first (R9, R27)
  sq : List SqEntry := []            -- oldest first
  sfrq : List (Option SfrqRec) := [] -- 64 places
  cb : List CbEntry := []            -- oldest first
  creq : List CopyReq := []
  exports : List ExportEntry := []
  serial : Nat := 0                  -- serial of the next export token (R319)
  retired : Bool := false
  deriving DecidableEq, Repr

/-- A purse (R347). -/
structure Purse where
  level : Int := 0
  carry : Nat := 0
  drawing : Bool := false            -- a draw is in flight (R349)
  refused : Bool := false            -- the last draw was refused (R350)
  counted : Bool := false            -- that refusal has counted in HOLDS (R350)
  deriving DecidableEq, Repr

/-- The states of a matrix unit (R278). -/
inductive UnitState where
  | idle | running | stopping
  deriving DecidableEq, Repr

/-- The state of one quarter beyond its strands (R5). -/
structure QuarterSt where
  tiles : Assoc TileSt := []         -- four physical tiles
  mq : List MEntry := []
  unit : UnitState := .idle
  request : Bool := false            -- a grant is requested (R278)
  lastWork : Work := {}              -- the work of the last MMA run (R357)
  stopAt : Nat := 0                  -- when it entered Stopping
  stopRun : Nat := 0                 -- its own clocks from then to the next boundary, in parts of 700 (R357)
  stopDone : Nat := 0                -- the fillers that it has been charged for since (R357)
  purses : Assoc Purse := []         -- by context (R347)
  defs : Assoc Int := []             -- arbiter deficits by context (R354)
  ptr : Nat := 0                     -- arbiter pointer (R354)
  rowsUsed : Nat := 0                -- pool units of eight vector rows in use, of 192 (R136)
  ublkUsed : Nat := 0                -- uniform blocks in use, of 256 (R117)
  deriving DecidableEq, Repr

/-! ### Per-die and home-slice units -/

/-- A miss in a die's queue, or a walk in flight (R194). -/
structure WalkReq where
  id : Nat
  ctx : Nat
  vpn : Nat                          -- 64 KB virtual page
  work : Work                        -- the work whose miss started it (R192)
  walking : Bool
  deriving DecidableEq, Repr

/-- A request to the host's translation agent, or a page request (R196). -/
structure HostReq where
  id : Nat
  ctx : Nat
  page : Nat                         -- 64 KB page of the host address of the leaf
  deriving DecidableEq, Repr

/-- Who waits for a translation (R194 to R196, R202, R288, R302): the slot of a V word on the rod; a strand's group, for a
word of another pipe or a fetch; a store in the store queue; a copy request; an MMA; the check of a launch. -/
inductive Waiter where
  | rod (g : Nat)
  | group (g : Nat)
  | store (core id : Nat)
  | copy (core id : Nat)
  | mma (id : Nat)
  | launch (l : Nat)
  deriving DecidableEq, Repr

/-- A waiter of a context for a 64 KB page: virtual, or of host memory (`host`). -/
structure AskItem where
  who : Waiter
  ctx : Nat
  host : Bool
  page : Nat
  deriving DecidableEq, Repr

/-- A translation the die TLB holds from ATS (R196). -/
structure AtsEntry where
  ctx : Nat
  page : Nat
  hpa : Nat
  deriving DecidableEq, Repr

/-- The state of one die beyond its cores (R5). -/
structure DieSt where
  tlb : List TlbEntry := []
  walks : List WalkReq := []         -- the miss queue and the walks in flight, oldest first
  ats : List AtsEntry := []
  atsReqs : List HostReq := []
  pri : List HostReq := []           -- page requests in flight, at most 64
  asks : List AskItem := []          -- who waits for a walk or a host page (R194, R196)
  answers : List (AskItem × Nat) := []   -- failures that have come, with their reasons, until the waiter uses them
  stopped : Bool := false            -- a scheduler fault stopped its dispatchers (R419)
  trained : Bool := true             -- its stack and boundaries trained (R433)
  linkKey : BitVec 128 := 0          -- key of the link to its stack (R415)
  linkDown : Nat := 0                -- its flit counter in each direction: to the stack, and from it
  linkUp : Nat := 0
  linkStopped : Bool := false
  hbmDown : Bool := false            -- the stack is in power-down (R424)
  keys : Assoc (BitVec 256) := []    -- key slots of its stack (R414); unlisted is cleared
  deriving DecidableEq, Repr

/-- A task as a home slice knows it: its work, and the age stamp and restart count that a wound names (R255, R263). -/
structure TaskAge where
  work : Work
  stamp : DWord
  restarts : Nat
  deriving DecidableEq, Repr

/-- A hold-table entry (R255). -/
structure HoldEntry where
  gran : Granule
  task : TaskAge
  deriving DecidableEq, Repr

/-- A wait-list entry (R255); `slot` waits for a free table entry. -/
structure WaitEntry where
  task : TaskAge
  gran : Granule
  slot : Bool
  deriving DecidableEq, Repr

/-- A home slice, keyed by die * 16 + slice (R188, R255). -/
structure SliceSt where
  holdTable : List HoldEntry := []
  waitList : List WaitEntry := []
  reqs : List (TaskAge × Granule) := []  -- granule requests that have arrived, oldest first
  rels : List (TaskAge × Option Granule) := []  -- releases that have arrived, oldest first; `none` names every granule
  deriving DecidableEq, Repr

/-- A line the shared cache holds (R438). -/
structure ScLine where
  dirty : Bool
  writer : Work                      -- the work that last wrote it (R209)
  owner : Nat                        -- context whose access placed it
  deriving DecidableEq, Repr

/-! ### Contexts, partitions and functions -/

/-- Context states (R380). -/
inductive CtxState where
  | idle | running | halting | halted | error
  deriving DecidableEq, Repr

/-- What a rolled-back task keeps when it re-enters its queue (R261, R262). -/
structure PriorTask where
  stamp : DWord
  restarts : Nat
  reason : Nat
  serialised : Bool
  frame : Nat
  retryAt : DWord                    -- the delay of an ASRETRY (R270)
  deriving DecidableEq, Repr

/-- A task record in a task queue (R331, R332): id, its 64 bytes, its place in the enqueue order, and whether it
was passed over for 1 ms. -/
structure TaskItem where
  id : Nat
  bytes : List Byte
  order : Nat
  blocking : Bool := false
  running : Bool := false            -- dispatched: its record is kept until EXIT ends (R265)
  prior : Option PriorTask := none   -- what a rolled-back task keeps (R262)
  deriving DecidableEq, Repr

/-- A launch that a context's queue holds or runs (R370): not yet checked, checked, or ended. -/
inductive LaunchState where
  | queued | checked | ended
  deriving DecidableEq, Repr

structure LaunchItem where
  ctx : Nat
  cmd : List Byte                    -- the 128-byte command
  iface : Option (Nat × Nat)         -- interface and entry index, for the completion record
  order : Nat                        -- place in the enqueue order
  state : LaunchState := .queued
  next : Nat := 0                    -- next unplaced cohort
  exited : Nat := 0                  -- strands that have exited
  map : List Word := []              -- the placement map, once read (R376)
  blocking : Bool := false           -- passed over for 1 ms (R381)
  coll : List (List (Nat × Nat × Nat)) := []   -- groups: members (cohort, strand, package) in rank order (R379)
  collTimeout : List Nat := []
  peers : List Nat := []             -- other members whose GANGID and TICK agreed (R377)
  differ : List Nat := []            -- other members whose fields differed
  ready : List Nat := []             -- coordinator: members that sent READY (R378)
  go : Bool := false                 -- GO received
  started : Bool := false            -- its strands are issuable (R378)
  firstAt : Option DWord := none     -- context time of its first dispatch (R385)
  deriving DecidableEq, Repr

/-- A completion record that is to be written (R406): interface, entry index, status and context time. `after` names the
stores and combined reductions that it is a release of: core and serial (R243). -/
structure CplItem where
  iface : Nat
  index : Nat
  status : Nat
  time : DWord
  after : List (Nat × Nat) := []
  deriving DecidableEq, Repr

/-- A context (R345, R380, R387, R400). The trap block and the writable part of the scheduling block are protected
memory, at the addresses the create command gave. -/
structure Ctx where
  func : Nat := 0
  part : Nat := 0
  root : Nat := 0
  keys : List Nat := []
  comp : Bool := false
  prot : Bool := false
  energyAddr : Nat := 0
  schedAddr : Nat := 0
  trapAddr : Nat := 0
  level : Int := 0
  cap : Nat := 0
  refill : Nat := 0
  quantum : Nat := 0
  nextCap : Option Nat := none       -- writes that the next tick applies (R345)
  nextRefill : Option Nat := none
  nextQuantum : Option Nat := none
  eopok : Bool := false
  tenant : Word := 0
  account : Int := 0                 -- beads (R346)
  rollback : Int := 0                -- beads
  resid : Int := 0                   -- beads
  residCarry : Int := 0              -- beads of residual not yet moved to LEVEL as whole nJ (R352)
  holdCount : Nat := 0
  mseq : Nat := 0
  meterMark : Int × Int × Nat := (0, 0, 0)   -- ACCOUNT, RESID, HOLDS at the last record (R359)
  meterEnd : DWord := 0
  created : DWord := 0
  ctoff : DWord := 0
  pausedAt : Option DWord := none
  state : CtxState := .idle
  haltedAt : Nat := 0
  tasks : List TaskItem := []
  taskCap : Nat := 16
  deficit : Int := 0                 -- dispatch deficit in nJ (R381)
  windowMark : Int := 0              -- account at the last tick, for the charge of the window
  windowCarry : Int := 0
  frames : List Nat := []            -- strand frames in use (R380)
  log : List (List Byte) := []       -- error-log entries kept until their ring has room (R410)
  drops : Nat := 0
  reclaim : List Nat := []           -- pages asked for and not yet accepted (R417)
  fedLines : List Nat := []          -- lines fed from outside the package (R337)
  deriving DecidableEq, Repr

/-- A partition (R398). -/
structure Partition where
  quads : List Nat := []
  op : Nat := 0
  maxop : Nat := 0
  holdLimit : Nat := 10000           -- microseconds (R350)
  chg : Option Nat := none           -- operating point being entered (R361)
  incoming : Option Nat := none      -- the context of a switch that resumes once the other has halted (R382)
  want : Option Nat := none          -- firmware's operating point, to be entered when that change ends
  eop : Option (Nat × List Nat) := none   -- the slot whose EOP starts a change in this clock, and the quarters whose EOP has issued in it (R367)
  deriving DecidableEq, Repr

/-- States of a queue interface (R401). -/
inductive IfState where
  | unlocked | locked | run | error
  deriving DecidableEq, Repr

/-- A queue interface with its control block (R401) and its row of the interface table (R402). -/
structure Iface where
  func : Nat := 0                    -- the function, the index within it and the context that the PF assigns (R401)
  index : Nat := 0
  serves : Option Nat := none
  ring : DWord := 0
  cpl : DWord := 0
  lsize : Nat := 0
  esz : Nat := 0
  kind : Nat := 0
  pasid : Nat := 0
  ctx : Nat := 0
  vector : Nat := 0
  tail : Word := 0
  head : Word := 0
  state : IfState := .unlocked
  err : Nat := 0
  cplTail : Word := 0
  latched : BitVec 192 := 0          -- the privileged fields latched at attach
  attested : Option (BitVec 384) := none -- measurement sealed at attach (R418)
  deriving DecidableEq, Repr

/-- A host function (R399, R418). -/
structure Func where
  resetting : Bool := false
  meas : Assoc (BitVec 384) := []    -- sealed measurement blocks 4 to 6 by index
  deriving DecidableEq, Repr

/-- A member strand of a barrier instance (R325). -/
structure BarMember where
  g : Nat
  pending : Bool := false            -- a join: it is counted from the next generation on
  arrived : Bool := false            -- it has arrived in the generation that stands
  dropped : Bool := false            -- unregistered from the next generation on
  deriving DecidableEq, Repr

/-- A barrier instance (R322, R325). -/
structure BarInst where
  scope : Nat
  place : Nat                        -- core, quad of the package, die or 0
  ctx : Nat
  launch : Nat
  unitKey : Nat                      -- cohort, neighbourhood or 0 (R322)
  num : Nat
  joinMode : Bool
  gen : Word
  reg : Nat
  arr : Nat
  drop : Nat
  join : Nat
  members : List BarMember
  deriving DecidableEq, Repr

/-- A reserved ring entry of a bounded queue whose transfer is under way (R336). -/
structure QueueXfer where
  id : Nat
  work : Work                        -- the work that pays for the entry's line (R333)
  hdr : Nat
  idx : Word
  data : List Byte                   -- bytes to write; empty for a read
  n : Nat
  g : Option Nat                     -- the strand that pops
  d : Nat
  landed : Bool
  try_ : Bool
  role : QueueRole := .word
  deriving DecidableEq, Repr

/-- A waiter of a bounded queue, oldest first (R337). -/
structure QueueWaiter where
  g : Option Nat
  hdr : Nat
  pop : Bool
  d : Nat
  n : Nat
  data : List Word
  role : QueueRole := .word
  deriving DecidableEq, Repr

/-- A member's contribution to a collective (R340). -/
structure CollMember where
  rank : Nat
  g : Nat
  handle : Nat
  exported : Option Word             -- the token when the handle is exported (R319)
  work : Work
  own : Work                         -- whose handle it is
  handlerWork : Nat                  -- serial number of the trap handler that issued it; 0 outside one (R393)
  send : Nat
  recv : Nat
  miss : Nat
  record : List Byte
  deriving DecidableEq, Repr

/-- A collective under way (R339, R341). -/
structure Collective where
  id : Nat
  launch : Nat
  grp : Nat
  n : Nat
  members : List CollMember
  bad : Bool
  deriving DecidableEq, Repr

/-- A unit that the dispatcher claims from a halted strand (R383). -/
inductive UnitKind where
  | slot | rows | ublock | tile (t : Nat) | spad (core off : Nat)
  deriving DecidableEq, Repr

/-- A write-out under way: the strand whose unit it is and the context that pays for it. -/
structure Claim where
  id : Nat
  g : Nat
  claimer : Nat
  kind : UnitKind
  deriving DecidableEq, Repr

/-- A counter session (R426). -/
structure SessionEntry where
  unit : Nat
  event : Nat
  value : Nat
  ovf : Bool
  missed : Bool
  ovfCnt : Nat
  counter : Nat                      -- physical counter of the unit
  serving : Bool                     -- the counter serves this session now (R427)
  deriving DecidableEq, Repr

structure Session where
  id : Nat
  slot : Nat := 0                    -- its place among the 512 descriptors (R426)
  live : Bool := true                -- its owner has not been killed (R427)
  ctx : Nat
  func : Nat
  strandRd : Bool
  vector : Nat
  ven : Bool
  entries : List SessionEntry
  deriving DecidableEq, Repr

/-- What a scan read-out gives (R432): the state of a unit without its keys, or ciphertext. -/
inductive ScanData where
  | strand (t : Strand)
  | core (c : CoreSt)
  | quarter (q : QuarterSt)
  | die (d : DieSt)
  | bytes (l : List Byte)
  deriving DecidableEq, Repr

/-- A frame to another package of the pod (R362, R377, R378, R409). -/
inductive PodFrame where
  | demand (round pkg demand floor : Nat)
  | grant (round pkg cap podcap : Nat)
  | gangFields (launch : Nat) (gangId : BitVec 32) (tick : DWord)
  | gangReady (launch : Nat)
  | gangGo (launch : Nat)
  | gangAbort (launch : Nat)
  | gangLost (launch : Nat)
  deriving DecidableEq, Repr

/-- A message the package has sent to the outside world: interrupts, replies, frames and requests. -/
inductive OutMsg where
  | msix (func vector : Nat)
  | mailbox (func status : Nat)
  | readcnt (bytes : List Byte)
  | ats (die id ctx page : Nat)
  | pri (die id ctx page : Nat)
  | pod (port pkg : Nat) (f : PodFrame)
  | hostData (bytes : List Byte)
  | spdm (func code : Nat) (body sig : List Byte)
  | meter (bytes : List Byte)
  | reclaimed (ctx page : Nat)
  | deviceError (die : Nat)
  | thermalTrip
  | dieOut (die : Nat)
  | scan (cmd : ScanCmd) (d : ScanData)
  | scanRefused
  | nonce (n : BitVec 64)
  | rekey (die : Nat)
  deriving DecidableEq, Repr

/-- The power and clock state of the package (R431, R433). -/
inductive Power where
  | on | frozen | off
  deriving DecidableEq, Repr

/-! ### The issue context -/

/-- The group under execution (the model's own). `snap` is the strand as it stood before the group, which every word
of the group reads (R31). -/
structure Issue where
  g : Nat := 0
  pc : DWord := 0
  widx : Nat := 0                    -- word index of the group
  wpos : Nat := 0                    -- word index of the word under execution
  lit : Word := 0
  vp : Option VPfx := none
  up : Option UPfx := none
  snap : Option Strand := none
  raw : List (Nat × Nat) := []       -- issue-time charges: class and count (R348)
  slots : Nat := 0
  goto : Option TrapPos := none
  vflags : Nat := 0                  -- flags the group's V word raised (R111)
  ctx0 : Ctx := {}                   -- the context as it stood before the group (R365)
  purse0 : Int := 0                  -- and the purse of its quarter
  waited : Bool := false             -- the re-issued word has done its release waits (R235)
  go : Bool := false                 -- every word of the group can issue: the group takes effect now (R32, R77)
  multi : Bool := false              -- the group has a word of another pipe
  need : List Nat := []              -- the loads and M words whose registers the group waits for (R75)
  keyed : Bool := false              -- the group has written a generator key register (R125)
  res : IssueRes := .none
  deriving DecidableEq, Repr

/-! ### Events that are due -/

/-- An event of the package that its own state has made due. Each is the constructor of `Instr` of the same name. -/
inductive Event where
  | vWordCompletion (g : Nat)
  | specialFunctionDelivery (g k : Nat)
  | scratchpadResultDelivery (g k : Nat)
  | globalLoadCompletion (id : Nat)
  | yieldWindowExpiry (g : Nat)
  | storeQueueTranslation (g : Nat)
  | storeArrivesHome (core id : Nat)
  | pageWalkStart (die : Nat)
  | pageWalkComplete (die id : Nat)
  | combiningFlushApplied (core id : Nat)
  | sharedCacheWriteback (line : Nat)
  | remoteMessage (core : Nat)
  | remoteReply (g k : Nat)
  | fullEmptyWake (g : Nat)
  | scratchpadBlockReturn (core off : Nat)
  | launchCommandCheck (ctx : Nat)
  | dispatchPlacement (part : Nat)
  | granuleRequest (slice : Nat)
  | granuleGrant (g base glog : Nat)
  | granuleRelease (slice : Nat)
  | wound (stamp : DWord) (restart : Nat)
  | rollback (g : Nat)
  | rollbackRestart (g : Nat)
  | irrevocableTokenGrant
  | holdBufferDrainComplete (g : Nat)
  | asretryDelayExpiry (g : Nat)
  | mmaStagingComplete (q id : Nat)
  | mmaStart (q : Nat)
  | mmaRowCommit (q : Nat)
  | mmaComplete (q : Nat)
  | mmaSuspension (q : Nat)
  | tilePortComplete (q tile : Nat)
  | governorStepBoundary (die : Nat)
  | copyRequestStart (core id : Nat)
  | ckickEntryFetch (core id : Nat)
  | copyChunkComplete (core id : Nat)
  | copyRequestComplete (core id : Nat)
  | copyFailure (core id : Nat)
  | copyCancelEffect (core id : Nat)
  | byteBarrierWake (g : Nat)
  | barrierWake (g : Nat)
  | queueHomeStep (g : Nat)
  | queueEntryWritten (id : Nat)
  | queueEntryRead (id : Nat)
  | queueWaiterServe (hdr : Nat) (pop : Bool)
  | timelineWake (g : Nat)
  | taskWordHomeReply (g : Nat)
  | collectiveComplete (id : Nat) (contribs : List (List (BitVec 32)))
  | drawServed
  | opChangeClockRestart (part : Nat)
  | partitionHaltComplete (ctx : Nat)
  | spillComplete (id : Nat)
  | refillComplete (g : Nat)
  | trapEntry (g : Nat)
  | queueInterfaceFetch (i : Nat)
  | errorLogEntryWrite (log : Nat)
  | meterBatchWrite
  | counterWrap (id entry : Nat)
  | linkRekeyInterrupt (way : LinkWay)
  deriving DecidableEq, Repr

/-! ### Reasons to stop -/

/-- Why a step faults. -/
inductive Fault where
  /-- An access to a device physical address at or above 2^40, which the spec says does not exist (R188). Raised by
  host accesses only. Safe: the machine stops where the spec gives no behaviour. -/
  | noSuchAddress
  deriving DecidableEq, Repr

/-- Why a step is refused. -/
inductive Refusal where
  /-- An instruction without a meaning in this model. Raised by arms of `exec` only. Safe: nothing is claimed. -/
  | notModelled (mnemonic : String)
  deriving DecidableEq, Repr

/-! ### The package -/

/-- The parts of the package that no strand word touches directly: pod, firmware, error and debug state. -/
structure Pkg where
  batches : List (List Byte) := []   -- meter batches kept for the ring (R360)
  bseq : Nat := 0
  round : Nat := 0                   -- Wyari round (R362)
  cap : Nat := 0                     -- watts granted
  capMiss : Nat := 0                 -- rounds that have ended since the round of the last GRANT
  floor : Nat := 0
  demands : List (Nat × Nat × Nat) := []   -- cap master: frames of the round: package, demand, floor
  capMaster : Bool := false
  master : Nat := 0                  -- number of the pod's cap master (R362)
  podCap : Nat := 0
  num : Nat := 0                     -- package number (R422)
  portsUp : List Nat := []           -- pod ports that are up (R422)
  routes : Assoc (List Nat) := []    -- ordered list of ports to each package (R422)
  opLog : List (List Byte) := []     -- operator error log, kept entries (R410)
  opDrops : Nat := 0
  ecc : List EccUnit := []           -- the uncorrectable reads under retry, oldest first (R412)
  corrected : List ((Nat × Nat) × Nat) := []   -- corrected errors by structure and instance since the last report (R412)
  retired : List EccUnit := []       -- storage retired by lasting errors (R412)
  plugins : List Word := []          -- tenants whose plug-in was stopped (R419)
  debug : Bool := false              -- a valid debug token was presented (R432)
  nonce : Option (BitVec 64) := none -- the nonce that the device has issued (R432)
  flr : List Nat := []               -- functions whose reset drains (R408)
  retries : Assoc Nat := []          -- successive CRC failures by boundary (R421)
  lost : List Nat := []              -- packages declared lost (R422)
  thermal : Bool := false            -- a thermal trip is to be reported (R434)
  deriving DecidableEq, Repr

/-- The state of the package. -/
structure State where
  power : Power
  clock : Nat                        -- steps of the machine so far (the model's own clock)
  podTime : DWord                    -- pod time in ns (R423)
  free : Nat                         -- counter of the free values (the model's own)
  hbm : Bytes                        -- device HBM4E with the shared cache above it (R188, R207)
  hostMem : Bytes                    -- host memory (R188)
  keyed : Assoc Nat                  -- key slot under which each byte of device memory was written; unlisted is every slot (R414)
  strands : Assoc Strand             -- by global strand slot number
  cores : Assoc CoreSt
  quarters : Assoc QuarterSt
  dies : Assoc DieSt
  slices : Assoc SliceSt
  scache : Assoc ScLine              -- by line number PA / 64
  ctxs : Assoc Ctx
  parts : Assoc Partition
  funcs : Assoc Func
  ifaces : Assoc Iface
  loads : List LoadReq
  bars : Assoc BarInst
  launches : Assoc LaunchItem
  cpls : List CplItem                -- completion records not yet written (R406)
  xfers : List QueueXfer
  qwaiters : List QueueWaiter
  colls : List Collective
  claims : List Claim
  sessions : List Session
  serialWait : List Nat              -- strands waiting for the irrevocable token (R266)
  tokenHeld : Bool
  draws : List (Nat × Nat)           -- draw requests in flight: quarter, context (R349)
  tickStart : Nat                    -- quarter at which the previous tick began (R351)
  corr : Assoc Nat                   -- correction factor F by domain; unlisted is 0x4000 (R353)
  windowCharge : Assoc Nat           -- beads charged in the window: domain * 4096 + context (R352)
  rolled : List Nat                  -- incarnations that were rolled back (R346)
  unattributed : Assoc Int           -- by domain (R352)
  pkg : Pkg
  nextId : Nat                       -- next serial of requests, walks, loads and instances
  inputs : List Instr                -- what the outside world does next, in order
  pending : List Event               -- events of the package that are due, in any order the choice gives
  out : List OutMsg                  -- messages sent, newest first
  stuck : List Instr                 -- inputs that stall on such a link, in order
  held : List Event                  -- events that such a link has held back, in order, until each is made (R415)
  stalled : Bool                     -- this step needs a stack whose link carries no flit, so it is not taken (R415)
  iss : Issue
  deriving DecidableEq, Repr

/-- The package after power-on bring-up (R433): every unit at its reset value, no context, nothing listed in memory. -/
def State.reset : State :=
  { power := .on, clock := 0, podTime := 0, free := 0, hbm := [], hostMem := [], keyed := [], strands := [], cores := [],
    quarters := [],
    dies := (List.range 16).map (fun d => (d, { linkKey := Config.bootLinkKey d, keys := [(0, Config.bootKey d)] })), slices := [], scache := [], ctxs := [], parts := [], funcs := [], ifaces := [],
    loads := [], bars := [], launches := [], cpls := [], xfers := [], qwaiters := [], colls := [], claims := [], sessions := [],
    serialWait := [], tokenHeld := false, draws := [], tickStart := 0, corr := [], windowCharge := [], rolled := [],
    unattributed := [], pkg := {}, nextId := 1, inputs := [], pending := [], out := [], stuck := [], held := [], stalled := false, iss := {} }

end Sys2Proof.Machine
end

