-- ==== Sys2Proof/Machine/Base.lean ====
section
/-!
DEFINITION. Accessors of the package's parts, memory bytes, places in the package (R7, R8), the registers of the strand
that issues, and the outcome of a word.
-/

namespace Sys2Proof.Machine

/-! ### Parts of the package; what a table does not list is at its reset value -/

def State.strand (s : State) (g : Nat) : Strand := (s.strands.find? g).getD {}
def State.setStrand (s : State) (g : Nat) (x : Strand) : State := { s with strands := s.strands.insert g x }
def State.modStrand (s : State) (g : Nat) (f : Strand → Strand) : State := s.setStrand g (f (s.strand g))
def State.core (s : State) (c : Nat) : CoreSt := (s.cores.find? c).getD {}
def State.setCore (s : State) (c : Nat) (x : CoreSt) : State := { s with cores := s.cores.insert c x }
def State.modCore (s : State) (c : Nat) (f : CoreSt → CoreSt) : State := s.setCore c (f (s.core c))
def State.quarter (s : State) (q : Nat) : QuarterSt := (s.quarters.find? q).getD {}
def State.setQuarter (s : State) (q : Nat) (x : QuarterSt) : State := { s with quarters := s.quarters.insert q x }
def State.modQuarter (s : State) (q : Nat) (f : QuarterSt → QuarterSt) : State := s.setQuarter q (f (s.quarter q))
def State.die (s : State) (d : Nat) : DieSt := (s.dies.find? d).getD {}
def State.setDie (s : State) (d : Nat) (x : DieSt) : State := { s with dies := s.dies.insert d x }
def State.modDie (s : State) (d : Nat) (f : DieSt → DieSt) : State := s.setDie d (f (s.die d))
def State.slice (s : State) (i : Nat) : SliceSt := (s.slices.find? i).getD {}
def State.setSlice (s : State) (i : Nat) (x : SliceSt) : State := { s with slices := s.slices.insert i x }
def State.modSlice (s : State) (i : Nat) (f : SliceSt → SliceSt) : State := s.setSlice i (f (s.slice i))
def State.ctx (s : State) (c : Nat) : Ctx := (s.ctxs.find? c).getD {}
def State.setCtx (s : State) (c : Nat) (x : Ctx) : State := { s with ctxs := s.ctxs.insert c x }
def State.modCtx (s : State) (c : Nat) (f : Ctx → Ctx) : State := s.setCtx c (f (s.ctx c))
def State.part (s : State) (p : Nat) : Partition := (s.parts.find? p).getD {}
def State.setPart (s : State) (p : Nat) (x : Partition) : State := { s with parts := s.parts.insert p x }
def State.modPart (s : State) (p : Nat) (f : Partition → Partition) : State := s.setPart p (f (s.part p))
def State.func (s : State) (f : Nat) : Func := (s.funcs.find? f).getD {}
def State.setFunc (s : State) (f : Nat) (x : Func) : State := { s with funcs := s.funcs.insert f x }
def State.modFunc (s : State) (i : Nat) (f : Func → Func) : State := s.setFunc i (f (s.func i))
def State.iface (s : State) (i : Nat) : Iface := (s.ifaces.find? i).getD {}
def State.setIface (s : State) (i : Nat) (x : Iface) : State := { s with ifaces := s.ifaces.insert i x }
def State.modIface (s : State) (i : Nat) (f : Iface → Iface) : State := s.setIface i (f (s.iface i))

/-- Put an event of the package among those that are due. -/
def State.due (s : State) (i : Event) : State := { s with pending := s.pending ++ [i] }
/-- Put an event that goes on before all others that are due: it keeps its place among them (R421). -/
def State.dueFirst (s : State) (i : Event) : State := { s with pending := i :: s.pending }
/-- Put an event among those due, once. -/
def State.dueOnce (s : State) (i : Event) : State := if i ∈ s.pending then s else s.due i
/-- Send a message to the outside world. -/
def State.send (s : State) (m : OutMsg) : State := { s with out := m :: s.out }
/-- R422. The port that traffic to a package takes: the first of its list that is up. -/
def State.portTo (s : State) (pkg : Nat) : Option Nat := ((s.pkg.routes.find? pkg).getD []).find? (fun p => s.pkg.portsUp.contains p)
/-- R422. Send a frame to a package of the pod, which no frame reaches without a port. -/
def State.sendPod (s : State) (pkg : Nat) (f : PodFrame) : State :=
  match s.portTo pkg with
  | some port => s.send (.pod port pkg f)
  | none => s
/-- A serial number for a new request, and the state in which it is used up. -/
def State.takeId (s : State) : State := { s with nextId := s.nextId + 1 }
/-- Step the counter of the free values. -/
def State.stepFree (s : State) : State := { s with free := s.free + 1 }
/-- An event that does nothing more: the machine goes on in `s`. -/
def State.next (s : State) : Host.Outcome State Fault Refusal := .next s

/-- The first element that meets a test, removed from its list. -/
def takeFirst {α : Type} (p : α → Bool) : List α → Option (α × List α)
  | [] => none
  | x :: l => if p x then some (x, l) else (takeFirst p l).map (fun r => (r.1, x :: r.2))

/-- Replace every element that meets a test. -/
def updWhere {α : Type} (p : α → Bool) (f : α → α) (l : List α) : List α := l.map (fun x => if p x then f x else x)

/-! ### Places (R7, R8) -/

/-- The global strand slot number of a strand's key (R7). -/
def gslot (g : Nat) : Nat := g % 65536
def coreOf (g : Nat) : Nat := gslot g / 128
def quarterOf (g : Nat) : Nat := gslot g / 32
def coreOfQuarter (q : Nat) : Nat := q / 4
def dieOfCore (c : Nat) : Nat := c / 32
def dieOf (g : Nat) : Nat := gslot g / 4096
def rowOfCore (c : Nat) : Nat := c / 8 % 4
def colOfCore (c : Nat) : Nat := c % 8
/-- R7. The quad of a core within its die. -/
def quadOfCore (c : Nat) : Nat := rowOfCore c / 2 * 4 + colOfCore c / 2
/-- A quad of the package: die × 8 + quad. -/
def globalQuad (c : Nat) : Nat := dieOfCore c * 8 + quadOfCore c
/-- The cores of a quad of the package, in ascending order (R7). -/
def coresOfQuad (q : Nat) : List Nat :=
  let b := q / 8 * 32 + q % 8 / 4 * 16 + q % 4 * 2
  [b, b + 1, b + 8, b + 9]
def natDist (a b : Nat) : Nat := (a - b) + (b - a)
/-- R8. Boundaries that a flit crosses from one die to another. -/
def hops (a b : Nat) : Nat := natDist (a % 8) (b % 8) + natDist (a / 8) (b / 8)
/-- The dies a flit leaves on its way, along its row and then its column (R343). -/
def pathDies (a b : Nat) : List Nat :=
  let n := natDist (a % 8) (b % 8)
  let along := (List.range n).map (fun i => a / 8 * 8 + (if a % 8 ≤ b % 8 then a % 8 + i else a % 8 - i))
  along ++ (if a / 8 = b / 8 then [] else [a / 8 * 8 + b % 8])

/-! ### Bytes and words -/

/-- The number a little-endian list of bytes holds (R15). -/
def leNat : List Byte → Nat
  | [] => 0
  | b :: l => b.toNat + 256 * leNat l
/-- The n low bytes of a number, little-endian (R15). -/
def natLe : Nat → Nat → List Byte
  | 0, _ => []
  | n + 1, v => BitVec.ofNat 8 v :: natLe n (v / 256)
/-- Words of a list of bytes (R15). -/
def wordsOf : List Byte → List Word
  | a :: b :: c :: d :: l => wordOfBytes [a, b, c, d] :: wordsOf l
  | _ => []
/-- Bytes of a list of words (R15). -/
def bytesOfWords (l : List Word) : List Byte := (l.map bytesOfWord).flatten
/-- A field of a number: bits hi to lo. -/
def bitsOf (v hi lo : Nat) : Nat := v / 2 ^ lo % 2 ^ (hi + 1 - lo)
/-- Signed value of the low w bits. -/
def signedOf (w v : Nat) : Int := if v % 2 ^ w < 2 ^ (w - 1) then (v % 2 ^ w : Nat) else (v % 2 ^ w : Nat) - (2 ^ w : Nat)
/-- The 64-bit value of a register pair, low register first. -/
def dword (lo hi : Word) : DWord := hi ++ lo
def loWord (v : DWord) : Word := v.extractLsb' 0 32
def hiWord (v : DWord) : Word := v.extractLsb' 32 32
/-- Population count. -/
def popCount {w : Nat} (x : BitVec w) : Nat := ((List.range w).filter (fun i => x.getLsbD i)).length
/-- The set bits of a mask, ascending. -/
def slotsOf (m : Word) : List Nat := (List.range 32).filter (fun i => m.getLsbD i)

/-! ### Memory bytes (R187, R188) -/

/-- R414. A byte of memory as an access reads it. A byte of device memory that was written under another key slot reads as an
open value. DESIGN CHOICE (log 11): slot 0 stands for the accesses that the device makes by physical address, which read
every byte as it is. -/
def State.memByte (s : State) (p : PAddr) : Byte :=
  let b := Sp.get 0 (if p.host then s.hostMem else s.hbm) p.addr
  let k := Sp.get 0 s.keyed p.addr
  if p.host || p.key == 0 || k == 0 || k == p.key then b else Config.cipherByte k p.addr b
def PAddr.plus (p : PAddr) (i : Nat) : PAddr := { p with addr := p.addr + i }
def PAddr.line (p : PAddr) : PAddr := { p with addr := p.addr / 64 * 64 }
def State.memBytes (s : State) (p : PAddr) (n : Nat) : List Byte := (List.range n).map (fun i => s.memByte (p.plus i))
/-- Store bytes from an address up. -/
def storeBytes : Bytes → Nat → List Byte → Bytes
  | m, _, [] => m
  | m, a, b :: l => storeBytes (Sp.set 0 m a b) (a + 1) l
/-- R414. Note the key slot under which n bytes from an address up are written. -/
def noteKey (k : Nat) : Assoc Nat → Nat → Nat → Assoc Nat
  | m, _, 0 => m
  | m, a, n + 1 => noteKey k (Sp.set 0 m a k) (a + 1) n
def State.memWrite (s : State) (p : PAddr) (l : List Byte) : State :=
  if p.host then { s with hostMem := storeBytes s.hostMem p.addr l }
  else { s with hbm := storeBytes s.hbm p.addr l, keyed := noteKey p.key s.keyed p.addr l.length }
/-- The number held by n bytes of device memory. -/
def State.hbmNat (s : State) (a n : Nat) : Nat := leNat (s.memBytes { host := false, addr := a } n)

/-! ### The strand that issues -/

/-- The strand that issues the word under execution. -/
def State.me (s : State) : Strand := s.strand s.iss.g
/-- The strand as every word of the group reads it (R31). -/
def State.old (s : State) : Strand := s.iss.snap.getD s.me
def State.modMe (s : State) (f : Strand → Strand) : State := s.modStrand s.iss.g f
/-- The context and partition of the issuing strand. -/
def State.myCtx (s : State) : Nat := s.me.info.ctx
def State.myCore (s : State) : Nat := coreOf s.iss.g
def State.myQuarter (s : State) : Nat := quarterOf s.iss.g
def State.myDie (s : State) : Nat := dieOf s.iss.g

/-- A uniform register as the word reads it. -/
def State.u (s : State) (n : Nat) : Word := s.old.uregs.get n
/-- An aligned pair of uniform registers. -/
def State.u2 (s : State) (n : Nat) : DWord := dword (s.u n) (s.u (n + 1))
def State.setU (s : State) (n : Nat) (v : Word) : State := s.modMe (fun t => { t with uregs := t.uregs.set n v })
def State.setU2 (s : State) (n : Nat) (v : DWord) : State := (s.setU n (loWord v)).setU (n + 1) (hiWord v)
/-- Write words to successive uniform registers. -/
def State.setUs (s : State) (n : Nat) : List Word → State
  | [] => s
  | w :: l => (s.setU n w).setUs (n + 1) l
/-- R45. The n registers from r up are allotted. -/
def Strand.uOk (t : Strand) (r n : Nat) : Bool := r + n ≤ t.info.ublk * 64
def State.uOk (s : State) (r n : Nat) : Bool := s.old.uOk r n
/-- Write a uniform register of a strand. -/
def Strand.setU (t : Strand) (n : Nat) (v : Word) : Strand := { t with uregs := t.uregs.set n v }

/-- A mask as the word reads it (R96); m0 is `em`. -/
def State.mask (s : State) (n : Nat) : Word := s.old.masks.get n
/-- R66. Every write of a mask is within LIVE. -/
def Strand.setMask (t : Strand) (n : Nat) (v : Word) : Strand := { t with masks := t.masks.set n (v &&& t.info.live) }

/-- What a strand waits for: each word of its group may have brought a wait, and it goes on when all have ended. -/
def Strand.waitList (t : Strand) : List WaitOn := t.wait :: t.more

/-! ### The outcome of a word (R19, R32, R56, R120) -/

def State.setRes (s : State) (r : IssueRes) : State := { s with iss := { s.iss with res := r } }
/-- R412. The entries of a structure that lasting errors have retired. -/
def State.retiredOf (s : State) (u : EccUnit) : Nat := s.pkg.retired.count u
/-- The word has taken effect. -/
def State.done (s : State) : State := s.setRes .done
/-- The word is an illegal encoding (R56). -/
def State.enc (s : State) (c : Cause) : State := s.setRes (.enc c)
/-- The word calls Trap (R19): nothing else changes. -/
def State.trap (s : State) (t : TrapInfo) : State := s.setRes (.trap t)
/-- The word cannot issue yet. -/
def State.hold (s : State) (h : Hold) : State := s.setRes (.held h)
/-- R75. The word waits for registers that are pending on these loads or M words. -/
def State.holdData (s : State) (ids : List Nat) : State :=
  ({ s with iss := { s.iss with need := s.iss.need ++ ids } } : State).hold .scoreboard
/-- A wait for earlier words of the strand. Each word of a group answers it as the strand stands before the group; the
words of one group do not wait for one another (R31, R32, R77). -/
def State.waits (s : State) (c : Bool) : Bool := c && !s.iss.go
/-- Issue-time charge of the word (R348). -/
def State.raw (s : State) (cls n : Nat) : State := { s with iss := { s.iss with raw := s.iss.raw ++ [(cls, n)] } }
/-- R86. GoTo, at the end of the group. -/
def State.goTo (s : State) (pc : DWord) (widx : Nat := 0) : State :=
  { s with iss := { s.iss with goto := some { pc := pc, widx := widx } } }

end Sys2Proof.Machine
end

