-- ==== Sys2Proof/Machine/Energy.lean ====
section
/-!
DEFINITION. Charging (R343 to R349): charge events, purses, accounts and draw requests. Draws, ticks and windows are
in Machine/EnergyEvents.lean.
-/

namespace Sys2Proof.Machine

/-- The Q domain of a quarter (R352). -/
def qDom (q : Nat) : Nat := globalQuad (coreOfQuarter q)
/-- The U domain of a die (R352). -/
def uDom (die : Nat) : Nat := 128 + die
/-- The I domain (R352). -/
def iDom : Nat := 144

/-- The operating point whose table a charge to a context uses (R344, R361). -/
def State.opOf (s : State) (ctx : Nat) : Nat := (s.part (s.ctx ctx).part).op

/-- The correction factor of a domain (R353); reset 0x4000. -/
def State.corrOf (s : State) (d : Nat) : Nat := (s.corr.find? d).getD 0x4000

def State.purse (s : State) (q ctx : Nat) : Purse := ((s.quarter q).purses.find? ctx).getD {}
def State.setPurse (s : State) (q ctx : Nat) (p : Purse) : State :=
  s.modQuarter q (fun t => { t with purses := t.purses.insert ctx p })

/-- R349. A purse at or below 16,000 beads sends a draw request, unless one is in flight. A refused draw waits for
the retries of the refill ticks (R351) and counts as sent. -/
def State.drawCheck (s : State) (q ctx : Nat) : State :=
  let p := s.purse q ctx
  if p.level ≤ 16000 ∧ !p.drawing ∧ !p.refused then
    ({ s.setPurse q ctx { p with drawing := true } with draws := s.draws ++ [(q, ctx)] }).due .drawServed
  else s

/-- R346. Beads that land for an incarnation count in its incarnation charge, or in ROLLBACK once it was rolled back. -/
def State.addIncarnation (s : State) (w : Work) (beads : Nat) : State :=
  if (s.strand w.g).inc = w.inc then s.modStrand w.g (fun t => { t with incCharge := t.incCharge + beads })
  else if w.inc ∈ s.rolled then s.modCtx w.ctx (fun c => { c with rollback := c.rollback + beads })
  else s

/-- R426. The bytes of a session descriptor: its header, and its entries. -/
def SessionEntry.bytes (e : SessionEntry) : List Byte :=
  natLe 8 (e.unit + e.event * 2 ^ 16)
    ++ natLe 8 (e.value % 2 ^ 48 + e.ovf.toNat * 2 ^ 48 + e.missed.toNat * 2 ^ 49 + e.ovfCnt % 2 ^ 14 * 2 ^ 50)
def Session.bytes (x : Session) : List Byte :=
  natLe 16 (x.ctx + x.func * 2 ^ 12 + x.entries.length * 2 ^ 18 + x.strandRd.toNat * 2 ^ 23 + x.vector * 2 ^ 24
      + x.ven.toNat * 2 ^ 35)
    ++ x.entries.flatMap SessionEntry.bytes

/-- R425, R427, R428. Events of a context at a unit: the counter counts them for the session it serves; for another
session of the context MISSED is set. A count that passes 2^48 − 1 wraps. A killed context stops counting. -/
def State.countEv (s : State) (unit ev ctx n : Nat) : State :=
  if n = 0 ∨ s.sessions = [] ∨ (s.ctx ctx).state = .error then s else
  let upd (e : SessionEntry) : SessionEntry :=
    if e.unit = unit ∧ e.event = ev then
      if e.serving then
        let v := e.value + n
        let wraps := v / 2 ^ 48
        { e with value := v % 2 ^ 48, ovf := e.ovf || 0 < wraps, ovfCnt := min 0x3FFF (e.ovfCnt + wraps) }
      else { e with missed := true }
    else e
  let wrapped : List Event := s.sessions.flatMap (fun x =>
    if x.ctx = ctx ∧ x.live ∧ x.ven then
      (x.entries.zipIdx.filter (fun p => p.1.unit = unit && p.1.event = ev && p.1.serving && 2 ^ 48 ≤ p.1.value + n)).map
        (fun p => Event.counterWrap x.id p.2)
    else [])
  { s with
    sessions := s.sessions.map (fun x => if x.ctx = ctx ∧ x.live then { x with entries := x.entries.map upd } else x),
    pending := s.pending ++ wrapped }

/-- The partition that a core's quad lies in. -/
def State.partOfCore (s : State) (core : Nat) : Option Nat :=
  (List.find? (fun (p : Nat × Partition) => p.2.quads.contains (globalQuad core)) s.parts).map (·.1)

/-- R361. The clocks of a quarter run: no operating-point change stops them. -/
def State.quarterRuns (s : State) (q : Nat) : Bool :=
  match s.partOfCore (coreOfQuarter q) with
  | none => true
  | some p => (s.part p).chg.isNone

/-- R347, R348. One charge event of `raw` beads before correction in domain `d`. A purse that would pass −2^31 is met
in part from LEVEL. -/
def State.chargeEvent (s : State) (w : Work) (d raw : Nat) : State :=
  let p := s.purse w.q w.ctx
  let t := raw * s.corrOf d + p.carry
  let beads : Nat := t / 2 ^ 14
  let lv : Int := p.level - (beads : Int)
  let debit : Int := if lv < -2147483648 then (-2147483648 - lv + 15999) / 16000 else 0
  let s := s.setPurse w.q w.ctx { p with level := lv + 16000 * debit, carry := t % 2 ^ 14 }
  let s := s.modCtx w.ctx (fun c => { c with account := c.account + beads, level := c.level - debit })
  let key := d * 4096 + w.ctx
  let s := { s with windowCharge := s.windowCharge.insert key ((s.windowCharge.find? key).getD 0 + beads) }
  ((s.addIncarnation w beads).countEv (coreOfQuarter w.q) 0x07 w.ctx beads).drawCheck w.q w.ctx

/-- A charge that lands: class, count and domain. -/
abbrev Landing := Nat × Nat × Nat

/-- R347. The charges that land together make one charge event for each domain. -/
def State.land (s : State) (w : Work) (l : List Landing) : State :=
  let op := s.opOf w.ctx
  let s := l.foldl (fun s x =>
    match x.1 with
    | 10 => s.countEv (coreOfQuarter w.q) 0x03 w.ctx x.2.1
    | 11 => s.countEv (512 + (x.2.2 - 128)) 0x20 w.ctx x.2.1
    | 12 => s.countEv (512 + (x.2.2 - 128)) 0x22 w.ctx x.2.1
    | 13 => s.countEv (512 + (x.2.2 - 128)) 0x21 w.ctx x.2.1
    | 19 => s.countEv (coreOfQuarter w.q) 0x06 w.ctx x.2.1
    | _ => s) s
  let doms := (l.map (fun x => x.2.2)).eraseDups
  doms.foldl (fun s d =>
    s.chargeEvent w d (((l.filter (fun x => x.2.2 = d)).map (fun x => x.2.1 * Config.weight op x.1)).foldl (· + ·) 0)) s

/-- The beads before correction of a list of issue-time charges. -/
def rawBeads (op : Nat) (l : List (Nat × Nat)) : Nat :=
  (l.map (fun x => x.2 * Config.weight op x.1)).foldl (· + ·) 0

/-- R343. One flit from die a to die b: DieBoundary to the uncore domain of each die it leaves. -/
def flit (a b : Nat) : List Landing := (pathDies a b).map (fun d => (12, 1, uDom d))

/-- The work of a strand as it stands. -/
def State.workOf (s : State) (g : Nat) : Work :=
  let t := s.strand g
  { g := g, inc := t.inc, ctx := t.info.ctx, q := quarterOf g }
def State.myWork (s : State) : Work := s.workOf s.iss.g

/-- R77 item 6. -/
def State.pursePositive (s : State) (g : Nat) : Bool := 0 < (s.purse (quarterOf g) (s.strand g).info.ctx).level

end Sys2Proof.Machine
end

