-- ==== Sys2Proof/Machine/Mmu.lean ====
section
/-!
DEFINITION. Homes of lines, shared-cache tags and their charges (R188, R438), page-table walks (R190 to R192), the TLBs
(R193) and translation (R187, R195, R196).
-/

namespace Sys2Proof.Machine

/-! ### Homes and the shared cache -/

/-- R188. The home of a line: die × 16 + slice. -/
def homeSlice (p : PAddr) : Nat :=
  let a := p.addr
  let sl := bitsOf a 9 6 ^^^ bitsOf a 13 10 ^^^ bitsOf a 17 14 ^^^ bitsOf a 21 18
  (if p.host then bitsOf a 13 10 ^^^ bitsOf a 25 22 else bitsOf a 39 36) * 16 + sl
def homeDie (p : PAddr) : Nat := homeSlice p / 16

/-- Lines of one slice (R207), and of one of its ways. DESIGN CHOICE (log 151): 16 ways; the spec gives no number. -/
def sliceLines : Nat := 65536
def wayLines : Nat := sliceLines / 16

/-- R412. The lines that a slice still holds: each lasting error of its data or its tags has retired a way. -/
def State.sliceRoom (s : State) (slice : Nat) : Nat :=
  sliceLines - wayLines * (s.pkg.retired.countP (fun u => match u with
    | .scData l | .scTag l => homeSlice { host := false, addr := l * 64 } == slice
    | _ => false))

/-- R415. The flits that an access adds to a link's counters: to the stack and from it. DESIGN CHOICE (log 150): a read is a
request and a line back, a write a request and a line; the spec does not count them. -/
def linkFlits (write : Bool) : Nat × Nat := if write then (2, 0) else (1, 1)

/-- R415. The value of a link counter that raises the rekey interrupt, and that at which the link stops. -/
def rekeyAt : Nat := 2 ^ 48 - 2 ^ 32
def linkEnd : Nat := 2 ^ 48

/-- R415, R424. An access reaches the stack of a die and wakes it from power-down; its flits raise the link's counters. Where
the link has run out of counter values the access stalls: the step that makes it is not taken until a new key is
programmed. -/
def State.needStack (s : State) (die : Nat) (write : Bool := false) : State :=
  let d := s.die die
  if d.linkStopped then { s with stalled := true }
  else
    let f := linkFlits write
    let down := d.linkDown + f.1
    let up := d.linkUp + f.2
    let s := s.setDie die { d with hbmDown := false, linkDown := down, linkUp := up,
                                   linkStopped := decide (linkEnd ≤ down) || decide (linkEnd ≤ up) }
    let s := if d.linkDown < rekeyAt ∧ rekeyAt ≤ down then s.due (.linkRekeyInterrupt ⟨die, false⟩) else s
    if d.linkUp < rekeyAt ∧ rekeyAt ≤ up then s.due (.linkRekeyInterrupt ⟨die, true⟩) else s

/-- R438. An access at the home slice: a type-00 line is allocated, and fetched from HBM4E unless it is present or
written whole. The charges are those of the home: SharedCache, and HBM4E or HostLine. A full slice replaces a line of
its choice. -/
def State.homeAccess (s : State) (w : Work) (p : PAddr) (write full : Bool) : State × List Landing :=
  let h := homeDie p
  let base : List Landing := [(11, 1, uDom h)]
  if p.host then (s, base ++ [(14, 1, iDom)])
  else
    let line := p.addr / 64
    match s.scache.find? line with
    | some l =>
      (if write then { s with scache := s.scache.insert line { l with dirty := true, writer := w } } else s, base)
    | none =>
      let s := if write && full then s else s.needStack h
      let peers := s.scache.filter (fun x => homeSlice { host := false, addr := x.1 * 64 } = homeSlice p)
      let s :=
        if s.sliceRoom (homeSlice p) ≤ peers.length then
          match peers[Config.pick s.free % peers.length]? with
          | some (v, vl) =>
            if vl.dirty then s.stepFree.dueOnce (.sharedCacheWriteback v)
            else { s.stepFree with scache := s.scache.erase v }
          | none => s
        else s
      ({ s with scache := s.scache.insert line { dirty := write, writer := w, owner := w.ctx } },
        base ++ (if write && full then [] else [(13, 1, uDom h)]))

/-- R208, R333. A line access from a die: the home's charges and the boundaries crossed each way. -/
def State.lineAccess (s : State) (w : Work) (die : Nat) (p : PAddr) (write full : Bool) : State × List Landing :=
  let r := s.homeAccess w p write full
  (r.1, r.2 ++ flit die (homeDie p) ++ flit (homeDie p) die)

/-- The same, landed at once. -/
def State.chargeLine (s : State) (w : Work) (die : Nat) (p : PAddr) (write full : Bool) : State :=
  let r := s.lineAccess w die p write full
  r.1.land w r.2

/-! ### Page tables -/

/-- Access kinds that translation tells apart (R192). -/
inductive Access where
  | load | store | atomic | fetch
  | gateLoad | gateStore     -- a gate copy's accesses, to which compartments are no bar (R416)
  deriving DecidableEq, Repr

/-- R187. -/
def canonical (va : Nat) : Bool := let t := va / 2 ^ 56 % 256; t == 0 || t == 255

/-- Fields of a page-table entry (R191). -/
def pteV (e : Nat) : Bool := e % 2 == 1
def pteLeaf (e : Nat) : Bool := bitsOf e 1 1 == 1
def pteType (e : Nat) : Nat := bitsOf e 6 5
def pteAddr (e : Nat) : Nat := bitsOf e 51 8 * 256
def pteKey (e : Nat) : Nat := bitsOf e 61 52
def pteRsv (e : Nat) : Bool := bitsOf e 63 62 != 0 || bitsOf e 7 7 != 0

/-- The levels of a walk, L4 to L0: lowest VA bit indexed, index bits, whether a leaf may stand there, and log2 of the
alignment of the table the level's entries name (R190). -/
def levels : List (Nat × Nat × Bool × Nat) :=
  [(48, 9, false, 12), (39, 9, false, 12), (30, 9, true, 12), (21, 9, true, 8), (16, 5, true, 0)]

/-- R414, R416. Whose a key slot is for a context: `some false` its own, `some true` that of the other compartment of
its world, `none` neither. Slot 0 is no context's. -/
def State.keySide (s : State) (ctx key : Nat) : Option Bool :=
  let c := s.ctx ctx
  if key = 0 then none
  else if key ∈ c.keys then some false
  else if s.ctxs.any (fun x => x.2.tenant == c.tenant && x.2.comp != c.comp && x.2.keys.contains key) then some true
  else none

/-- R192. The walk over the levels from a table: the page or a reason of R198, and the addresses of the entries read,
last first. -/
def walkFrom (s : State) (ctx va : Nat) : List (Nat × Nat × Bool × Nat) → Nat → List Nat → Except Nat TlbEntry × List Nat
  | [], _, rd => (.error 6, rd)
  | (lo, bits, leafOk, al) :: ls, table, rd =>
    let ea := table + bitsOf va (lo + bits - 1) lo * 8
    let e := s.hbmNat ea 8
    let rd := ea :: rd
    if !pteV e then (.error 0, rd)
    else if pteRsv e || 2 ≤ pteType e || (!pteLeaf e && pteType e != 0) || (pteLeaf e && !leafOk)
        || (!pteLeaf e && ls.isEmpty) || (pteType e == 0 && 2 ^ 40 ≤ pteAddr e)
        || pteAddr e % 2 ^ (if pteLeaf e then lo else al) != 0
        || (pteLeaf e && pteType e == 0 && (s.keySide ctx (pteKey e)).isNone) then (.error 6, rd)
    else if pteLeaf e then
      (.ok { ctx := ctx, base := va / 2 ^ lo * 2 ^ lo, lg := lo, pa := pteAddr e, typ := pteType e,
             r := bitsOf e 2 2 == 1, w := bitsOf e 3 3 == 1, x := bitsOf e 4 4 == 1, key := pteKey e,
             other := pteType e == 0 && s.keySide ctx (pteKey e) == some true }, rd)
    else walkFrom s ctx va ls (pteAddr e) rd

/-- A whole walk for a context (R190, R192). -/
def State.walk (s : State) (ctx va : Nat) : Except Nat TlbEntry × List Nat :=
  walkFrom s ctx (va % 2 ^ 57) levels (s.ctx ctx).root []

/-- The reason a found page denies an access (R192, R416), if it does. -/
def denied (e : TlbEntry) : Access → Option Nat
  | .load => if e.r && !e.other then none else some 2
  | .atomic => if !e.r || e.other then some 2 else if !e.w then some 3 else none
  | .store => if e.w && !e.other then none else some 3
  | .gateLoad => if e.r then none else some 2
  | .gateStore => if e.w then none else some 3
  | .fetch => if e.x then none else some 4

/-- R192, R343. The charges of a walk's entry reads, to the work whose miss started it, from a die: a shared-cache access
and the boundaries it crosses, whether or not the line was there. -/
def State.chargeWalk (s : State) (w : Work) (die : Nat) (rd : List Nat) : State :=
  rd.reverse.foldl (fun s a =>
      let r := s.lineAccess w die { host := false, addr := a } false false
      r.1.land w (r.2.filter (fun x => x.1 != 13))) s

/-! ### TLBs -/

/-- The entry serves an address of a context (R193). -/
def TlbEntry.hits (e : TlbEntry) (ctx va : Nat) : Bool := e.ctx == ctx && e.base == va % 2 ^ 57 / 2 ^ e.lg * 2 ^ e.lg

/-- R193. Put an entry first in a TLB of n entries; the least recently used goes. -/
def tlbFill (n : Nat) (l : List TlbEntry) (e : TlbEntry) : List TlbEntry :=
  (e :: l.filter (fun x => !(x.ctx == e.ctx && x.base == e.base && x.lg == e.lg))).take n

def State.fillCoreTlb (s : State) (c : Nat) (e : TlbEntry) : State :=
  s.modCore c (fun t => { t with tlb := tlbFill (512 - s.retiredOf (.coreTlb c)) t.tlb e })
def State.fillTlbs (s : State) (c : Nat) (e : TlbEntry) : State :=
  (s.fillCoreTlb c e).modDie (dieOfCore c) (fun d => { d with tlb := tlbFill (32768 - s.retiredOf (.dieTlb (dieOfCore c))) d.tlb e })

/-- R193. Look an address up in a core's TLB and then its die's; a hit becomes the most recently used. -/
def State.tlbLookup (s : State) (c ctx va : Nat) : State × Option TlbEntry :=
  match (s.core c).tlb.find? (·.hits ctx va) with
  | some e => (s.fillCoreTlb c e, some e)
  | none =>
    match (s.die (dieOfCore c)).tlb.find? (·.hits ctx va) with
    | some e => (s.fillTlbs c e, some e)
    | none => (s, none)

/-- What a translation gives: a place, a reason of R198, a miss that a walker must serve, or a host page that ATS must
translate. -/
inductive Trans where
  | ok (p : PAddr)
  | fail (reason : Nat)
  | miss
  | host (page : Nat)
  deriving DecidableEq, Repr

/-- The place an entry gives an address. A type-01 address is looked up among the answers of ATS (R196). -/
def State.place (s : State) (die : Nat) (e : TlbEntry) (va : Nat) : Trans :=
  let a := e.pa + va % 2 ^ e.lg
  if e.typ = 0 then .ok { host := false, addr := a, key := e.key }
  else
    match (s.die die).ats.find? (fun x => x.ctx == e.ctx && x.page == a / 65536) with
    | some x => .ok { host := true, addr := x.hpa / 65536 * 65536 + a % 65536 }
    | none => .host (a / 65536)

/-- Translation of an address through the TLBs (R187, R192, R193, R196). -/
def State.translate (s : State) (c ctx va : Nat) (k : Access) : State × Trans :=
  if !canonical va then (s, .fail 1)
  else
    match s.tlbLookup c ctx va with
    | (s, none) => (s, .miss)
    | (s, some e) =>
      match denied e k with
      | some r => (s, .fail r)
      | none => (s, s.place (dieOfCore c) e va)

/-- The 64 KB virtual page of an address. -/
def vpnOf (va : Nat) : Nat := va % 2 ^ 57 / 65536

/-- R194. Join a miss to its die's queue; while 256 misses wait, it waits to enter. -/
def State.joinWalk (s : State) (die ctx vpn : Nat) (w : Work) : State :=
  let d := s.die die
  if d.walks.any (fun w => w.ctx == ctx && w.vpn == vpn) || 256 ≤ (d.walks.filter (fun w => !w.walking)).length then s
  else
    ((s.setDie die { d with walks := d.walks ++ [{ id := s.nextId, ctx := ctx, vpn := vpn, work := w, walking := false }] }).takeId).due
      (.pageWalkStart die)

/-- R196. Ask the host's translation agent for a page, unless the request is under way. -/
def State.atsAsk (s : State) (die ctx page : Nat) : State :=
  let d := s.die die
  if d.atsReqs.any (fun x => x.ctx == ctx && x.page == page) || d.pri.any (fun x => x.ctx == ctx && x.page == page)
  then s
  else
    ((s.setDie die { d with atsReqs := d.atsReqs ++ [{ id := s.nextId, ctx := ctx, page := page }] }).send
      (.ats die s.nextId ctx page)).takeId

/-- A waiter is listed once. -/
def State.listAsk (s : State) (die : Nat) (a : AskItem) : State :=
  s.modDie die (fun d => { d with asks := if d.asks.contains a then d.asks else d.asks ++ [a] })
/-- The failure that has come to a waiter is used up. -/
def State.takeAnswer (s : State) (die : Nat) (a : AskItem) : Option (State × Nat) :=
  ((s.die die).answers.find? (fun x => x.1 == a)).map (fun x =>
    (s.modDie die (fun d => { d with answers := d.answers.filter (fun y => y.1 != a) }), x.2))
/-- A failure comes to everyone who waits for a page. -/
def State.failAsks (s : State) (die ctx : Nat) (host : Bool) (page reason : Nat) : State :=
  let p (a : AskItem) : Bool := a.ctx == ctx && a.host == host && a.page == page
  s.modDie die (fun d => { d with asks := d.asks.filter (fun a => !p a),
                                  answers := d.answers ++ (d.asks.filter p).map (fun a => (a, reason)) })
/-- What a strand's own words wait for is forgotten. -/
def State.forgetAsks (s : State) (g : Nat) : State :=
  let p (a : AskItem) : Bool := a.who == .rod g || a.who == .group g
  s.modDie (dieOf g) (fun d => { d with asks := d.asks.filter (fun a => !p a), answers := d.answers.filter (fun a => !p a.1) })

/-- R192 to R196, R201, R288, R302. The translation of an access for one who may wait: a miss joins the die's queue, and
a host page is asked of ATS. A failure that has come in the meantime is its answer. -/
def State.translateFor (s : State) (who : Waiter) (w : Work) (c va : Nat) (k : Access) : State × Trans :=
  let die := dieOfCore c
  let a : AskItem := { who := who, ctx := w.ctx, host := false, page := vpnOf va }
  match s.takeAnswer die a with
  | some (s, r) => (s, .fail r)
  | none =>
    match s.translate c w.ctx va k with
    | (s, .miss) => ((s.joinWalk die w.ctx (vpnOf va) w).listAsk die a, .miss)
    | (s, .host page) =>
      let b : AskItem := { who := who, ctx := w.ctx, host := true, page := page }
      (match s.takeAnswer die b with
       | some (s, r) => (s, .fail r)
       | none => ((s.atsAsk die w.ctx page).listAsk die b, .host page))
    | r => r

end Sys2Proof.Machine
end

