-- ==== Sys2Proof/Machine/Rod.lean ====
section
/-!
DEFINITION. A strand's vector registers and the exposed latencies: write buffers, late results, latches, switch points
and involuntary stops (R69 to R76, R80, R83).
-/

namespace Sys2Proof.Machine

/-- The value of v(r) of slot k in the main file. -/
def Strand.vreg (t : Strand) (r k : Nat) : Word := t.vregs.get (32 * r + k)
/-- Write v(r) of slot k in the main file. -/
def Strand.putV (t : Strand) (r k : Nat) (v : Word) : Strand := { t with vregs := t.vregs.set (32 * r + k) v }

/-- R74, R111. Late results of a register and slot that a later write overtakes: their values are lost, and flags that
are still to come are delivered. -/
def overtake (p : Late → Bool) (l : List Late) : List Late :=
  (l.filter (fun x => !(p x && (x.delivered || x.flags == 0)))).map (fun x => if p x then { x with void := true } else x)

/-- R73, R74. A later write of the register leaves its own value: an older buffered or late result of the same register
and slot is dropped. -/
def Strand.dropOlder (t : Strand) (r k : Nat) : Strand :=
  { t with wbuf := t.wbuf.filter (fun x => !(x.1 == k && x.2.reg == r)),
           late := overtake (fun x => x.slot == k && x.reg == r) t.late }
/-- A result readable at distance 1 (R71). -/
def Strand.writeV (t : Strand) (r k : Nat) (v : Word) : Strand := (t.dropOlder r k).putV r k v

/-- R73, R74. A slot's buffered result enters its register. A late result of an earlier word for that register has been
overtaken. -/
def Strand.landBuf (t : Strand) (k : Nat) (b : WBuf) : Strand :=
  { t.putV b.reg k b.val with late := overtake (fun x => x.slot == k && x.reg == b.reg && x.seq < b.seq) t.late }

/-- R73. Commit the buffered results that meet a test. -/
def Strand.commitBuf (t : Strand) (p : WBuf → Bool) : Strand :=
  let t' := (t.wbuf.filter (fun x => p x.2)).foldl (fun t x => t.landBuf x.1 x.2) t
  { t' with wbuf := t.wbuf.filter (fun x => !p x.2) }

/-- R73. Place a floating-point result in a slot's write buffer; a value already there commits first. -/
def Strand.bufV (t : Strand) (r k : Nat) (v : Word) (seq : Nat) : Strand :=
  let t := match t.wbuf.find? k with
    | some b => t.landBuf k b
    | none => t
  { t with wbuf := t.wbuf.insert k { reg := r, val := v, seq := seq } }

/-- R74. A special-function or scratchpad result on its way. -/
def Strand.lateV (t : Strand) (l : Late) : Strand := { t with late := t.late ++ [l] }

/-- R71, R111. ORs flags into SF. -/
def Strand.orSf (t : Strand) (f : Nat) : Strand := { t with sf := t.sf ||| BitVec.ofNat 32 f }

/-- R74. Commit the late results that meet a test, oldest first; flags not yet raised are raised with their delivery. -/
def Strand.commitLate (t : Strand) (p : Late → Bool) : Strand :=
  let go := t.late.filter p
  let t' := go.foldl (fun t x =>
    let t := if x.void then t
      else ({ t with wbuf := t.wbuf.filter (fun b => !(b.1 == x.slot && b.2.reg == x.reg && b.2.seq < x.seq)) } : Strand).putV
        x.reg x.slot x.val
    t.orSf (if x.delivered then 0 else x.flags)) t
  { t' with late := t.late.filter (fun x => !p x) }

/-- R74. Late results that are due just before the V word of serial number `seq` reads its operands. -/
def lateDue (seq : Nat) (x : Late) : Bool := x.seq + 3 ≤ seq

/-- R80, R83. The write buffers and every pending result commit. -/
def Strand.commitAll (t : Strand) : Strand := (t.commitBuf (fun _ => true)).commitLate (fun _ => true)

/-- R80. A switch point: commit, and every latch of every slot becomes zero. -/
def Strand.switchPoint (t : Strand) : Strand := { t.commitAll with latches := [] }

/-- A latch of a slot. -/
def Strand.latch (t : Strand) (l k : Nat) : Word := t.latches.get (32 * l + k)

/-- R72. One slot's array after a latch-writing word: a new result goes in front, an inactive slot rotates. -/
def rotateSlot (old : Words) (m : Words) (k : Nat) (v : Option Word) : Words :=
  let m := m.set k (v.getD (old.get (96 + k)))
  let m := m.set (32 + k) (old.get k)
  let m := m.set (64 + k) (old.get (32 + k))
  m.set (96 + k) (old.get (64 + k))

/-- R72. Rotate the latches of every slot of the strand; `res` gives the results of the active slots. -/
def Strand.rotate (t : Strand) (res : Nat → Option Word) : Strand :=
  { t with latches := (slotsOf t.info.live).foldl (fun m k => rotateSlot t.latches m k (res k)) t.latches }

/-- The rod is free (R68). -/
def Strand.rodFree (t : Strand) : Bool := t.flight.isNone
/-- The V word on the rod has run to its end: the rod is free for the word that TRET re-issues, if there is one (R395). -/
def Strand.freeRod (t : Strand) : Strand :=
  if t.flight.any (fun f => f.stop == .ran) then { t with flight := t.again, again := none } else t
/-- Stops from which a word goes on by itself. -/
def FlightStop.goesOn : FlightStop → Bool
  | .walk | .stores | .remote | .release | .granReq => true
  | _ => false
/-- A V memory word that stands on the rod or is stopped has slots that have not acted. -/
def Strand.vmemOut (t : Strand) : Bool := t.flight.any (fun f => f.stop != .ran)

/-- R75. A vector register of a slot waits for a global load; without a slot, of any slot. -/
def Strand.pendsV (t : Strand) (r n : Nat) : Bool := t.pendV.any (fun x => r ≤ x.1 && x.1 < r + n)
def Strand.pendsU (t : Strand) (r n : Nat) : Bool := t.pendU.any (fun x => r ≤ x.1 && x.1 < r + n)
/-- The loads and M words on which registers of a group are pending. -/
def Strand.idsV (t : Strand) (r n : Nat) : List Nat := (t.pendV.filter (fun x => r ≤ x.1 && x.1 < r + n)).map (·.2.2)
def Strand.idsU (t : Strand) (r n : Nat) : List Nat := (t.pendU.filter (fun x => r ≤ x.1 && x.1 < r + n)).map (·.2)

end Sys2Proof.Machine
end

