-- ==== Sys2Proof/Machine/Sets.lean ====
section
/-!
DEFINITION. Atomic sets, shared operations: descriptors and granules (R248 to R251), age (R252, R253), messages to home
slices, releases, discarding what a task holds, and marking a rollback (R255, R260, R261). The words and events are in
Machine/AsetWords.lean and Machine/AsetEvents.lean.
-/

namespace Sys2Proof.Machine

/-! ### Descriptors (R248) -/

def descBase (d : BitVec 128) : Nat := bitsOf d.toNat 63 0
def descGlog (d : BitVec 128) : Nat := bitsOf d.toNat 67 64
def descCount (d : BitVec 128) : Nat := bitsOf d.toNat 95 72
def descV (d : BitVec 128) : Bool := bitsOf d.toNat 96 96 == 1
def descSize (d : BitVec 128) : Nat := 2 ^ (descGlog d + 6)
def descEnd (d : BitVec 128) : Nat := descBase d + descCount d * descSize d
/-- The reserved bits are zero and the range lies whole in the canonical range. -/
def descFormOk (d : BitVec 128) : Bool :=
  bitsOf d.toNat 71 68 == 0 && bitsOf d.toNat 127 97 == 0 && descGlog d ≤ 10 && 1 ≤ descCount d
    && descBase d % descSize d == 0 && (descEnd d ≤ 2 ^ 56 || 2 ^ 64 - 2 ^ 56 ≤ descBase d) && descEnd d ≤ 2 ^ 64
/-- Two ranges share an address. -/
def descOverlap (a b : BitVec 128) : Bool := descBase a < descEnd b && descBase b < descEnd a
/-- R248. A descriptor with V = 1 is valid beside the other sets of the task. -/
def descValid (others : List (BitVec 128)) (d : BitVec 128) : Bool := descFormOk d && others.all (fun o => !descOverlap o d)

/-- R249. The task is set-bearing. -/
def Strand.setBearing (t : Strand) : Bool := 1 ≤ t.info.setCount
/-- R259. The task is bound by the rules of set-bearing tasks that are not serialised. -/
def Strand.setBound (t : Strand) : Bool := t.setBearing && !t.aset.serialised

/-- R250. The set an address lies in: its slot and descriptor. -/
def Strand.inSet (t : Strand) (va : Nat) : Option (Nat × BitVec 128) :=
  List.find? (fun x => descBase x.2 ≤ va && va < descEnd x.2) t.aset.sets
/-- R250. The granule of an address at place p, in a set with descriptor d. -/
def granuleAt (d : BitVec 128) (p : PAddr) : Granule := { base := p.addr / descSize d * descSize d, glog := descGlog d }
/-- R250. The home of a granule. -/
def Granule.home (x : Granule) : Nat := homeSlice { host := false, addr := x.base }

/-! ### Age -/

/-- The task of a strand, as it names itself to a home. -/
def State.ageOf (s : State) (g : Nat) : TaskAge :=
  let t := s.strand g
  { work := s.workOf g, stamp := t.info.stamp, restarts := t.aset.restarts }

/-- R266. The task holds the irrevocable token. -/
def State.hasToken (s : State) (a : TaskAge) : Bool := (s.strand a.work.g).aset.token && (s.strand a.work.g).info.stamp == a.stamp

/-- R253. -/
def State.older (s : State) (a b : TaskAge) : Bool :=
  if s.hasToken a then true else if s.hasToken b then false else (a.stamp - b.stamp).toInt < 0

/-- The entry of the oldest task of a list, by R253. -/
def State.oldest {α : Type} (s : State) (task : α → TaskAge) : List α → Option α
  | [] => none
  | a :: l =>
    match s.oldest task l with
    | none => some a
    | some b => if s.older (task a) (task b) then some a else some b
/-- The entry of the youngest task of a list, by R253. -/
def State.youngest {α : Type} (s : State) (task : α → TaskAge) : List α → Option α
  | [] => none
  | a :: l =>
    match s.youngest task l with
    | none => some a
    | some b => if s.older (task a) (task b) then some b else some a

/-! ### Messages -/

/-- R255. A request, grant or release message: one shared-cache access and the boundaries it crosses. -/
def State.granuleMessage (s : State) (w : Work) (die slice : Nat) (toHome : Bool) : State :=
  s.land w ([(11, 1, uDom (slice / 16))] ++ (if toHome then flit die (slice / 16) else flit (slice / 16) die))

/-- Send a release to a home (R261 step 2, R265 step 3); `none` names every granule the task holds there. -/
def State.sendRelease (s : State) (g slice : Nat) (x : Option Granule) : State :=
  let a := s.ageOf g
  let s := s.granuleMessage a.work (dieOf g) slice true
  let s := s.modStrand g (fun t => { t with aset := { t.aset with acks := t.aset.acks + 1 } })
  (s.modSlice slice (fun t => { t with rels := t.rels ++ [(a, x)] })).due (.granuleRelease slice)

/-- R261 step 2, R265 step 3. Release every granule on the hold list, and those whose grants are on their way; a serialised task's release goes to every home
slice. The hold list is empty from here on (R263). -/
def State.releaseHolds (s : State) (g : Nat) : State :=
  let t := s.strand g
  let coming : List Granule := s.pending.filterMap (fun e =>
    match e with | .granuleGrant g' b l => if g' = g then some { base := b, glog := l } else none | _ => none)
  let s := s.modStrand g (fun t => { t with aset := { t.aset with holds := [] } })
  let isGrant (e : Event) : Bool := match e with | .granuleGrant g' _ _ => g' == g | _ => false
  let s : State := { s with pending := s.pending.filter (fun e => !isGrant e) }
  if t.aset.serialised then (List.range 256).foldl (fun s i => s.sendRelease g i none) s
  else (t.aset.holds ++ coming).foldl (fun s x => s.sendRelease g x.home (some x)) s

/-- R261 step 2. Remove a task from every wait list and from the requests on their way. -/
def State.leaveWaitLists (s : State) (g : Nat) : State :=
  { s with slices := s.slices.map (fun x =>
      (x.1, { x.2 with waitList := x.2.waitList.filter (fun e => e.task.work.g != g), reqs := x.2.reqs.filter (fun e => e.1.work.g != g) })) }

/-- R261 step 1, R396 step 3. Discard the hold buffer lines and the deferred entries. -/
def State.discardHeld (s : State) (g : Nat) : State :=
  s.modStrand g (fun t => { t with aset := { t.aset with lines := [], deferred := [] } })

/-- R266. Return the irrevocable token; the oldest waiting requester is served. -/
def State.returnToken (s : State) (g : Nat) : State :=
  if (s.strand g).aset.token then
    ({ s.modStrand g (fun t => { t with aset := { t.aset with token := false } }) with tokenHeld := false }).dueOnce
      .irrevocableTokenGrant
  else s

/-- R261, R263, R274. A rollback of a task is due at its next boundary; one already due, or a committing task, is left
as it is. An overflow makes the task serialised at its restart (R260). -/
def State.markRollback (s : State) (g reason : Nat) (overflow : Bool) : State :=
  let t := s.strand g
  if !t.setBearing || t.aset.rolling || t.aset.committing then s
  else
    (s.setStrand g { t with aset := { t.aset with rolling := true, reason := reason, overflow := overflow } }).due
      (.rollback g)

/-- R258. Lines of the core's hold buffer that are taken: those of resident tasks that are not spilt. -/
def State.holdLinesUsed (s : State) (core : Nat) : Nat :=
  (s.strands.filter (fun x => x.2.resident && coreOf x.1 == core)).foldl
    (fun n x => n + (x.2.aset.lines.length + x.2.aset.deferred.length - x.2.spilt.lines)) 0

/-! ### The order of claims (R383) -/

/-- Insert an element into a list before the first that it precedes, and a list in that order. -/
def insertBy {α : Type} (before : α → α → Bool) (x : α) : List α → List α
  | [] => [x]
  | y :: l => if before x y then x :: y :: l else y :: insertBy before x l
def sortBy {α : Type} (before : α → α → Bool) : List α → List α
  | [] => []
  | x :: l => insertBy before x (sortBy before l)

/-- The halted strands whose units may be claimed, in the order of R383: context halted longest ago, oldest stamp. -/
def State.claimOrder (s : State) (p : Nat → Bool) : List (Nat × Strand) :=
  let l := s.strands.filter (fun x => x.2.resident && x.2.state == .halted && p x.1)
  let before (a b : Nat × Strand) : Bool :=
    let ha := (s.ctx a.2.info.ctx).haltedAt
    let hb := (s.ctx b.2.info.ctx).haltedAt
    ha < hb || (ha == hb && (a.2.info.stamp - b.2.info.stamp).toInt ≤ 0)
  sortBy before l

/-- R267, R383. The halted task whose hold-buffer line on the core of strand g is claimed next for that strand: its held lines
first, then those of its deferred entries. -/
def State.lineOwner (s : State) (g : Nat) : Option Nat :=
  (List.find? (fun (x : Nat × Strand) => x.2.spilt.lines < x.2.aset.lines.length + x.2.aset.deferred.length)
    (s.claimOrder (fun h => coreOf h == coreOf g && h != g))).map (·.1)

end Sys2Proof.Machine
end

