-- ==== Sys2Proof/Machine/Barrier.lean ====
section
/-!
DEFINITION. Barrier instances and their steps (R322 to R327, R330). The SYNC words and the wake are in
Machine/SyncWords.lean.
-/

namespace Sys2Proof.Machine

/-- R325. -/
def passed (g h : Word) : Bool := 0 < (g - h).toInt
/-- R325. The member is counted in the current generation. -/
def BarMember.counted (m : BarMember) : Bool := !m.dropped && !m.pending
def BarInst.member (b : BarInst) (g : Nat) : Option BarMember := b.members.find? (fun m => m.g == g)
def BarInst.modMember (b : BarInst) (g : Nat) (f : BarMember → BarMember) : BarInst :=
  { b with members := updWhere (fun m => m.g == g) f b.members }
/-- R326. The strand is registered, or has a pending join. -/
def BarInst.registered (b : BarInst) (g : Nat) : Bool := b.members.any (fun m => m.g == g && !m.dropped)
/-- R326. An arriving word of the strand can take its step now. -/
def BarInst.mayArrive (b : BarInst) (g : Nat) : Bool :=
  b.members.any (fun m => m.g == g && m.counted && !m.arrived)

/-- R325. Settle: the generation advances when every registered strand has arrived. -/
def BarInst.settle (b : BarInst) : BarInst :=
  if 0 < b.reg ∧ b.arr = b.reg then
    { b with gen := b.gen + 1, arr := 0, reg := b.reg - b.drop + b.join, drop := 0, join := 0,
             members := (b.members.filter (fun m => !m.dropped)).map (fun m => { m with pending := false, arrived := false }) }
  else b

/-- R325. -/
def BarInst.arrive (b : BarInst) (g : Nat) : BarInst :=
  ({ b with arr := b.arr + 1 }.modMember g (fun m => { m with arrived := true })).settle

/-- R325, R330. Drop; a pending join that is not yet counted is taken back. -/
def BarInst.doDrop (b : BarInst) (g : Nat) : BarInst :=
  match b.member g with
  | none => b
  | some m =>
    if m.dropped then b
    else if m.counted then
      let b := if m.arrived then b else { b with arr := b.arr + 1 }
      ({ b with drop := b.drop + 1 }.modMember g (fun m => { m with arrived := true, dropped := true })).settle
    else { b with join := b.join - 1, members := b.members.filter (fun m => m.g != g) }

/-- R325, R328. Join, and the first generation the strand is counted in. -/
def BarInst.doJoin (b : BarInst) (g : Nat) : BarInst × Word :=
  match b.member g with
  | some m =>
    if m.dropped then
      ({ b with join := b.join + 1 }.modMember g (fun m => { m with dropped := false, pending := true }), b.gen + 1)
    else (b, if m.counted && !m.arrived then b.gen else b.gen + 1)
  | none =>
    if b.reg = 0 then ({ b with reg := 1, members := b.members ++ [{ g := g }] }, b.gen)
    else ({ b with join := b.join + 1, members := b.members ++ [{ g := g, pending := true }] }, b.gen + 1)

/-- R343. The class of a barrier message of a scope, and its domain at the network node. -/
def barrierCharge (scope : Nat) (g : Nat) : Landing :=
  (21 + scope, 1, if scope = 1 then qDom (quarterOf g) else if scope = 5 then iDom else uDom (dieOf g))

/-- A waiter whose generation has passed becomes Ready (R325, R327): its wake is due. -/
def State.wakeBarrier (s : State) (inst : Nat) (gen : Word) : State :=
  s.strands.foldl (fun s x => x.2.waitList.foldl (fun s w =>
    match w with
    | .barrier i h => if i = inst ∧ passed gen h then s.dueOnce (.barrierWake x.1) else s
    | _ => s) s) s

/-- R325. Store an instance after a step, with the wakes that a new generation makes due. -/
def State.putBar (s : State) (inst : Nat) (old new : BarInst) : State :=
  let s := { s with bars := s.bars.insert inst new }
  if old.gen = new.gen then s else s.wakeBarrier inst new.gen

/-- R325. A strand that will not come back leaves the members of an instance; the counts keep what it has done. -/
def BarInst.forget (b : BarInst) (g : Nat) : BarInst := { b with members := b.members.filter (fun m => m.g != g) }

/-- R325. One step of an instance. A strand of another package of the gang, which the pod network names, counts as
registered from generation 0; once it has dropped, the name may stand for another strand. -/
def State.barStep (s : State) (inst g : Nat) (op : BarOp) : State :=
  match s.bars.find? inst with
  | none => s
  | some b =>
    let b' := if 4194304 ≤ g ∧ (b.member g).isNone then { b with members := b.members ++ [{ g := g }] } else b
    match op with
    | .arrive => if b'.mayArrive g then s.putBar inst b (b'.arrive g) else s
    | .drop => s.putBar inst b (if 4194304 ≤ g then (b'.doDrop g).forget g else b'.doDrop g)
    | .join => s.putBar inst b (b.doJoin g).1

/-- R322, R55. The instance that a strand's SYNC word names. -/
def State.barInst (s : State) (g scope num : Nat) : Option Nat :=
  match (s.strand g).info.work with
  | .task _ => none
  | .cohort l c =>
    (List.find? (fun x =>
      let b := x.2
      b.scope == scope && b.num == num && b.launch == l &&
        (match scope with
         | 1 => b.unitKey == c && b.place == coreOf g
         | 2 => b.unitKey == c
         | 3 => b.place == dieOf g && b.unitKey == (match (s.strand g).info.neigh with | some n => n + 1 | none => 0)
         | _ => true)) s.bars).map (·.1)

/-- R330, R327, R396 step 4. Drop, at the charge of one message each, from every instance on which the strand is registered or has
a pending join. The strand is gone: a later one of its slot is another. -/
def State.dropBarriers (s : State) (g : Nat) : State :=
  let s := (s.bars.filter (fun x => x.2.registered g)).foldl (fun s x =>
    (s.land (s.workOf g) [barrierCharge x.2.scope g]).barStep x.1 g .drop) s
  { s with bars := s.bars.map (fun x => (x.1, x.2.forget g)) }

end Sys2Proof.Machine
end

