-- ==== Sys2Proof/Machine/Spad.lean ====
section
/-!
DEFINITION. Scratchpad: the buddy allotment (R163 to R167), the window (R170, R177, R189) and swizzle tags (R175, R176).
The steps at the banks are in Machine/SpadSteps.lean.
-/

namespace Sys2Proof.Machine

/-! ### Allotment -/

/-- The two blocks share a byte. -/
def rangesMeet (o1 n1 o2 n2 : Nat) : Bool := o1 < o2 + n2 && o2 < o1 + n1

/-- R164. The free blocks inside a range of log2 size `lg`, largest first within it: with every merge made, a block is
free when nothing allotted lies in it and its buddy is not wholly free. `fuel` counts the sizes down to 1 KB. -/
def freeIn (alloc : List (Nat × Nat)) : Nat → Nat → Nat → List (Nat × Nat)
  | 0, _, _ => []
  | fuel + 1, off, lg =>
    if alloc.all (fun b => !rangesMeet b.1 (2 ^ b.2) off (2 ^ lg)) then [(off, lg)]
    else if alloc.any (fun b => b.1 ≤ off && off + 2 ^ lg ≤ b.1 + 2 ^ b.2) then []
    else freeIn alloc fuel off (lg - 1) ++ freeIn alloc fuel (off + 2 ^ (lg - 1)) (lg - 1)

/-- The blocks of a core that are taken: those allotted and not spilt. -/
def CoreSt.taken (c : CoreSt) : List (Nat × Nat) := c.blocks.map (fun b => (b.off, b.lg))

/-- R164. The free lists of a core: every free block, by offset. -/
def CoreSt.freeBlocks (c : CoreSt) : List (Nat × Nat) := freeIn c.taken 12 0 21

/-- R164. The lowest-offset free block of the smallest size that holds `lg`. -/
def smallestFit (l : List (Nat × Nat)) (lg : Nat) : Option (Nat × Nat) :=
  l.foldl (fun best b =>
    if b.2 < lg then best
    else match best with
      | none => some b
      | some x => if b.2 < x.2 ∨ (b.2 = x.2 ∧ b.1 < x.1) then some b else some x) none

/-- R164, R165. The offset that an allotment of 2^lg bytes gets, if one fits. A standing reservation keeps its range for
the request that holds it. -/
def CoreSt.fit (c : CoreSt) (lg : Nat) (holder : Bool) : Option Nat :=
  match c.reserved with
  | none => (smallestFit c.freeBlocks lg).map (·.1)
  | some r =>
    if holder then
      if c.taken.all (fun b => !rangesMeet b.1 (2 ^ b.2) r.off (2 ^ r.lg)) then some r.off else none
    else (smallestFit (freeIn ((r.off, r.lg) :: c.taken) 12 0 21) lg).map (·.1)

/-- R166. Refill a block: data zero, every bit empty, every tag invalid. -/
def CoreSt.refill (c : CoreSt) (off lg : Nat) : CoreSt :=
  { c with spad := c.spad.filter (fun x => !(off ≤ x.1 && x.1 < off + 2 ^ lg)),
           fe := c.fe.filter (fun x => !(off ≤ 4 * x.1 && 4 * x.1 < off + 2 ^ lg)),
           tags := c.tags.filter (fun x => !(off ≤ 1024 * x.1 && 1024 * x.1 < off + 2 ^ lg)),
           bbFar := c.bbFar.filter (fun o => !(off ≤ o && o < off + 2 ^ lg)) }

/-! ### Bytes, bits and tags -/

def CoreSt.readSp (c : CoreSt) (o n : Nat) : List Byte := (List.range n).map (fun i => Sp.get 0 c.spad (o + i))
def CoreSt.writeSp (c : CoreSt) (o : Nat) (l : List Byte) : CoreSt := { c with spad := storeBytes c.spad o l }
def CoreSt.full (c : CoreSt) (o : Nat) : Bool := Sp.get false c.fe (o / 4)
def CoreSt.setFull (c : CoreSt) (o : Nat) (b : Bool) : CoreSt := { c with fe := Sp.set false c.fe (o / 4) b }
/-- R175. The tag of the region of an offset; 0 is invalid data of no swizzle. -/
def CoreSt.tag (c : CoreSt) (o : Nat) : BitVec 4 := Sp.get 0 c.tags (o / 1024)
def CoreSt.setTag (c : CoreSt) (o : Nat) (t : BitVec 4) : CoreSt := { c with tags := Sp.set 0 c.tags (o / 1024) t }
/-- R176. -/
def swizzle (span o : Nat) : Nat := o ^^^ (o / span % 8 * 16)

/-! ### The window -/

/-- R170. -/
def Strand.winSize (t : Strand) : Nat := if t.info.spLog = 0 then 0 else t.info.segs.length * 2 ^ t.info.spLog
/-- R170. The core and core offset of a window offset. -/
def Strand.winPlace (t : Strand) (x : Nat) : Nat × Nat :=
  let seg := t.info.segs.getD (x / 2 ^ t.info.spLog) (0, 0)
  (seg.1, seg.2 + x % 2 ^ t.info.spLog)
/-- R189. The window offset of an address in the window region. -/
def Strand.window (t : Strand) (va : Nat) : Option Nat :=
  let b := t.info.winBase.toNat
  if t.info.spLog ≠ 0 ∧ b ≤ va ∧ va < b + 2 ^ 26 then some (va - b) else none

/-- R165. A request that is met, or is gone, no longer holds a reservation on any core. -/
def State.dropReservations (s : State) (p : Reservation → Bool) : State :=
  { s with cores := s.cores.map (fun (x : Nat × CoreSt) => (x.1, { x.2 with reserved := x.2.reserved.filter (fun r => !p r) })) }

/-- R167. What touched the blocks of a window has ended: those that are exit-pending may return. -/
def State.blocksMayReturn (s : State) (segs : List (Nat × Nat)) : State :=
  segs.foldl (fun (s : State) seg =>
    if (s.core seg.1).blocks.any (fun b => b.off == seg.2 && b.exitPending) then s.dueOnce (.scratchpadBlockReturn seg.1 seg.2)
    else s) s

/-- R167. A strand no longer uses its block on a core; the block is exit-pending once no strand uses it. -/
def State.leaveBlocks (s : State) (g : Nat) : State :=
  (s.strand g).info.segs.foldl (fun s seg =>
    let c := s.core seg.1
    match c.blocks.find? (fun b => b.off == seg.2 && b.users.contains g) with
    | none => s
    | some b =>
      let b' := { b with users := b.users.filter (· != g) }
      let b' := { b' with exitPending := b'.users.isEmpty }
      let s := s.setCore seg.1 { c with blocks := updWhere (fun x => x.off == b.off) (fun _ => b') c.blocks }
      if b'.exitPending then s.due (.scratchpadBlockReturn seg.1 b.off) else s) s

end Sys2Proof.Machine
end

