-- ==== Sys2Proof/Machine/HostSide.lean ====
section
/-!
DEFINITION. What the package writes for its host: rings and completion records (R401, R406), error-log entries (R410),
and the end of launches (R324, R372).
-/

namespace Sys2Proof.Machine

/-! ### Interfaces (R401, R402) -/

/-- The number under which the operator's error log is kept beside those of the contexts. -/
def opLogKey : Nat := 4096

/-- R410. The log that a KIND 3 interface serves: that of its context, or the operator's where the PF has given it none. -/
def Iface.logOf (f : Iface) : Nat := f.serves.getD opLogKey

/-- The event in which an interface next consumes or produces an entry (R405 to R407, R410). -/
def State.kickIface (s : State) (i : Nat) : State :=
  match (s.iface i).kind with
  | 2 => s.dueOnce .meterBatchWrite
  | 3 => s.dueOnce (.errorLogEntryWrite (s.iface i).logOf)
  | _ => s.dueOnce (.queueInterfaceFetch i)

/-- R410. The running interface of a log. -/
def State.logIface (s : State) (log : Nat) : Option (Nat × Iface) :=
  List.find? (fun (x : Nat × Iface) => x.2.state == .run && x.2.kind == 3 && x.2.logOf == log) s.ifaces

/-- Entries of an interface's ring (R401), and those that the host has not yet freed. -/
def Iface.size (f : Iface) : Nat := 2 ^ f.lsize
def Iface.used (f : Iface) : Nat := (f.tail - f.head).toNat

/-- R410. The entries of a log that are kept: those its ring has room for, which are on their way to it, and 64 more. -/
def State.logRoom (s : State) (log : Nat) : Nat :=
  64 + (match s.logIface log with | some (_, f) => f.size - f.used | none => 0)

/-- R410. Beyond them the oldest are dropped and counted. -/
def State.trimLog (s : State) (log : Nat) : State :=
  let n := s.logRoom log
  if log = opLogKey then
    let d := s.pkg.opLog.length - n
    { s with pkg := { s.pkg with opLog := s.pkg.opLog.drop d, opDrops := min 0xFFF (s.pkg.opDrops + d) } }
  else s.modCtx log (fun c => { c with log := c.log.drop (c.log.length - n), drops := min 0xFFF (c.drops + (c.log.length - n)) })

/-- R410. A KIND 3 interface no longer runs: its log keeps 64 entries. -/
def State.ringStopped (s : State) (f : Iface) : State := if f.kind = 3 then s.trimLog f.logOf else s

/-- R402. A running interface moves to ERROR. -/
def State.ifaceError (s : State) (i err : Nat) : State :=
  (s.modIface i (fun f => { f with state := .error, err := err })).ringStopped (s.iface i)

/-! ### Guest memory -/

/-- The number under which the answers of ATS for a PASID are kept beside those of the 4,096 contexts. -/
def pasidKey (pasid : Nat) : Nat := 4096 + pasid

/-- R401. The host page that an address of a PASID lies in, when ATS has answered it to die 0. -/
def State.guestPlace (s : State) (pasid va : Nat) : Option PAddr :=
  ((s.die 0).ats.find? (fun x => x.ctx == pasidKey pasid && x.page == va / 65536)).map
    (fun x => { host := true, addr := x.hpa / 65536 * 65536 + va % 65536 })

/-- Bytes of an entry (R401). -/
def Iface.entryBytes (f : Iface) : Nat := 64 * 2 ^ f.esz
/-- R401. The address of entry j. -/
def Iface.entryVa (f : Iface) (j : Nat) : Nat := f.ring.toNat + j % f.size * f.entryBytes

/-- A control block with the privileged fields that 192 bits hold. -/
def Iface.withPrivileged (f : Iface) (v : BitVec 192) : Iface :=
  let n := v.toNat
  { f with ring := BitVec.ofNat 64 n, cpl := BitVec.ofNat 64 (n / 2 ^ 64), lsize := bitsOf n 131 128, esz := bitsOf n 132 132,
           kind := bitsOf n 135 133, pasid := bitsOf n 155 136, ctx := bitsOf n 167 156, vector := bitsOf n 178 168 }

/-- R404. The block as the device acts on it: a detached interface keeps its latched fields for the entries it fetched. -/
def Iface.acting (f : Iface) : Iface := if f.state = .unlocked then f.withPrivileged f.latched else f

/-- R243. A store or a combined reduction that a completion record follows has not reached its home. -/
def State.openAccess (s : State) (x : Nat × Nat) : Bool :=
  (s.core x.1).sq.any (fun e => e.id == x.2) || (s.core x.1).cb.any (fun e => e.id == x.2)

/-- R243, R406. Write the completion records whose place is known and whose release is made, in order; ask the host for the
places of the others. -/
def State.flushCpls (s : State) : State :=
  s.cpls.foldl (fun s c =>
    let f := (s.iface c.iface).acting
    let va := f.cpl.toNat + 16 * (c.index % f.size)
    if c.after.any s.openAccess then s
    else
    match s.guestPlace f.pasid va with
    | none => s.atsAsk 0 (pasidKey f.pasid) (va / 65536)
    | some p =>
      let s := s.memWrite p (natLe 4 c.index ++ natLe 4 (c.status % 256) ++ natLe 8 c.time.toNat)
      let s := { s with cpls := s.cpls.filter (· != c) }
      (s.modIface c.iface (fun x => { x with cplTail := x.cplTail + 1 })).send (.msix f.func f.vector)) s

/-- R196, R402. The host refuses a page of a PASID: the running interfaces whose next entry, or whose completion record,
lies in it move to ERROR. The records that have no place are dropped. -/
def State.ringRefused (s : State) (key page : Nat) : State :=
  let lost (c : CplItem) : Bool :=
    let f := (s.iface c.iface).acting
    pasidKey f.pasid == key && (f.cpl.toNat + 16 * (c.index % f.size)) / 65536 == page
  let onPage (f : Iface) : Bool :=
    match f.kind with
    | 0 | 1 => f.entryVa f.head.toNat / 65536 == page
    | 2 => (List.range 262).any (fun j => f.entryVa (f.tail.toNat + j) / 65536 == page)
    | _ => f.entryVa f.tail.toNat / 65536 == page
  let hit (x : Nat × Iface) : Bool :=
    x.2.state == .run && pasidKey x.2.pasid == key
      && (onPage x.2 || s.cpls.any (fun c => c.iface == x.1 && lost c))
  let bad := (s.ifaces.filter hit).map (·.1)
  bad.foldl (fun (s : State) i => s.ifaceError i 4) { s with cpls := s.cpls.filter (fun c => !lost c) }

/-- R406. A consumed entry's completion record is due, when the interface has a completion ring. -/
def State.complete (s : State) (i j status : Nat) (time : DWord) (after : List (Nat × Nat) := []) : State :=
  if (s.iface i).acting.cpl = 0 then s
  else ({ s with cpls := s.cpls ++ [{ iface := i, index := j, status := status, time := time, after := after }] } : State).flushCpls

/-- R212. Flush the combining-buffer entries of a core that meet a test: each flush is on its way. -/
def State.flushCb (s : State) (core : Nat) (p : CbEntry → Bool) : State :=
  let c := s.core core
  let ids := (c.cb.filter (fun e => p e && !e.flushing)).map (·.id)
  let s := s.setCore core { c with cb := updWhere p (fun e => { e with flushing := true }) c.cb }
  ids.foldl (fun s i => s.due (.combiningFlushApplied core i)) s

/-! ### Error logs (R410) -/

/-- R380. Frozen mode, of the scheduling block. -/
def State.frozenTime (s : State) (ctx : Nat) : Bool := s.hbmNat ((s.ctx ctx).schedAddr + 10) 1 / 2 % 2 == 1
/-- R384. Context time: pod time less CTOFF. -/
def State.ctxTime (s : State) (ctx : Nat) : DWord :=
  let c := s.ctx ctx
  let now := match c.pausedAt with | some p => if s.frozenTime ctx then p else s.podTime | none => s.podTime
  now - c.ctoff

/-- R410. The bytes of an entry, with DROPS left zero until it is written. -/
def logBytes (typ cause cause2 ctx slot : Nat) (time : DWord) (addr : Nat) (data : List Byte) : List Byte :=
  natLe 8 (typ + cause * 2 ^ 8 + cause2 * 2 ^ 16 + ctx % 4096 * 2 ^ 24 + slot % 65536 * 2 ^ 36)
    ++ natLe 8 time.toNat ++ natLe 8 addr ++ natLe 40 0 ++ (data ++ natLe (64 - data.length) 0).take 64

/-- R410. An entry for a log: it is written to the log's ring, or kept. -/
def State.addLog (s : State) (log : Nat) (e : List Byte) : State :=
  let s :=
    if log = opLogKey then { s with pkg := { s.pkg with opLog := s.pkg.opLog ++ [e] } }
    else s.modCtx log (fun c => { c with log := c.log ++ [e] })
  (s.trimLog log).dueOnce (.errorLogEntryWrite log)

/-! ### Launches -/

/-- A field of a launch command (R370). -/
def cmdField (cmd : List Byte) (hi lo : Nat) : Nat := bitsOf (leNat cmd) hi lo
def LaunchItem.f (l : LaunchItem) (hi lo : Nat) : Nat := cmdField l.cmd hi lo
/-- R373. Cohorts of the grid. -/
def LaunchItem.cohorts (l : LaunchItem) : Nat := l.f 79 64 * l.f 95 80 * l.f 111 96
def LaunchItem.nstr (l : LaunchItem) : Nat := l.f 120 112
/-- R375. Members of a neighbourhood; 0 without neighbourhoods. -/
def LaunchItem.nbSize (l : LaunchItem) : Nat := l.f 151 148 * l.f 154 152

def State.launch? (s : State) (l : Nat) : Option LaunchItem := s.launches.find? l

/-- R243. The translated stores and the combining entries of a context, by core and serial. -/
def State.openAccesses (s : State) (ctx : Nat) : List (Nat × Nat) :=
  s.cores.flatMap (fun x =>
    (x.2.sq.filter (fun e => e.work.ctx == ctx && e.pa.isSome)).map (fun e => (x.1, e.id))
      ++ (x.2.cb.filter (fun e => e.work.ctx == ctx)).map (fun e => (x.1, e.id)))

/-- R324. A `.pod` instance serves its gang: it outlives a member's launch while strands of other members are registered. -/
def BarInst.gangLives (b : BarInst) (status : Nat) : Bool := b.scope == 5 && status == 0 && (b.reg != 0 || b.join != 0)

/-- R243, R324, R372. A launch ends with a status: its completion record is due, as a release at `.host` of every access of
its context, and its barriers return. -/
def State.endLaunch (s : State) (l status : Nat) : State :=
  match s.launch? l with
  | none => s
  | some it =>
    let s : State := { s with launches := s.launches.erase l, bars := s.bars.filter (fun b => b.2.launch != l || b.2.gangLives status) }
    let s := s.dropReservations (fun r => r.order == it.order)
    match it.iface with
    | none => s
    | some (i, j) =>
      if it.next = 0 then s.complete i j status (s.ctxTime it.ctx)
      else
      let s := s.cores.foldl (fun (s : State) x => s.flushCb x.1 (fun e => e.work.ctx == it.ctx)) s
      s.complete i j status (s.ctxTime it.ctx) (s.openAccesses it.ctx)

/-- Strands that have not exited and meet a test. -/
def State.anyResident (s : State) (p : Nat → Strand → Bool) : Bool := s.strands.any (fun x => x.2.resident && p x.1 x.2)

/-- The strand belongs to a launch. -/
def Strand.inLaunch (t : Strand) (l : Nat) : Bool := match t.info.work with | .cohort l' _ => l' == l | .task _ => false

/-- R324. Every strand of the unit that an instance of a launch serves has exited. -/
def State.unitOver (s : State) (l : Nat) (it : LaunchItem) (b : BarInst) : Bool :=
  match b.scope with
  | 1 | 2 => !s.anyResident (fun _ t => t.info.work == .cohort l b.unitKey)
  | 3 =>
    if b.unitKey = 0 then it.cohorts ≤ it.next && !s.anyResident (fun g t => t.inLaunch l && dieOf g == b.place)
    else !s.anyResident (fun _ t => t.inLaunch l && t.info.neigh == some (b.unitKey - 1))
  | _ => false

/-- R324. The instances of a launch whose unit is over return to their pools. -/
def State.freeBars (s : State) (l : Nat) (it : LaunchItem) : State :=
  { s with bars := s.bars.filter (fun b => !(b.2.launch == l && s.unitOver l it b.2)) }

/-- R319. Unimported exports of a cohort or a task without a strand left are freed. -/
def State.freeExports (s : State) (work : WorkRef) : State :=
  if s.anyResident (fun _ t => t.info.work == work) then s
  else { s with cores := s.cores.map (fun x => (x.1, { x.2 with exports := x.2.exports.filter (fun e => e.work != work) })) }

/-- R324, R319, R372. A strand has exited: instances whose unit is over return to their pools, unimported exports of a
finished cohort are freed, and a launch ends when every strand has exited. -/
def State.strandLeft (s : State) (info : StrandInfo) : State :=
  let s := s.freeExports info.work
  match info.work with
  | .task _ => s
  | .cohort l _ =>
    match s.launch? l with
    | none => s
    | some it =>
      let it := { it with exited := it.exited + 1 }
      let s := ({ s with launches := s.launches.insert l it } : State).freeBars l it
      if it.cohorts * it.nstr ≤ it.exited then s.endLaunch l 0 else s

end Sys2Proof.Machine
end

