-- ==== Sys2Proof/Machine/Ops.lean ====
section
/-!
DEFINITION. Taking a trap and returning from one (R387 to R395), ending a strand (R91, R396), and the waits that these
leave and return to.
-/

namespace Sys2Proof.Machine

/-! ### Code (R21, R27) -/

/-- The code line of an address as the strand sees it: the line it has fetched, or what its translation gives now. -/
def State.codeLine (s : State) (g : Nat) (pc : DWord) : Option (List Byte) :=
  let a := pc.toNat / 64 * 64
  match (s.strand g).line with
  | some (b, l) => if a = b then some l else other a
  | none => other a
where
  other (a : Nat) : Option (List Byte) :=
    if !canonical a then none
    else
      match (s.walk (s.strand g).info.ctx a).1 with
      | .error _ => none
      | .ok e =>
        if e.x then
          match s.place (dieOf g) e a with
          | .ok p => some (s.memBytes p 64)
          | _ => none
        else none

/-- The three words of the packet at a PC, in a code line (R21). -/
def packetWords (line : List Byte) (pc : DWord) : List Word :=
  (wordsOf ((line.drop (pc.toNat % 64)).take 12))
/-- The line literal (R21). -/
def lineLiteral (line : List Byte) : Word := wordOfBytes (line.drop 60)

/-- The words of the issue group that starts at a word index (R29). -/
def groupFrom : List Word → Nat → List Word
  | _, 0 => []
  | [], _ => []
  | w :: l, n + 1 => if fieldC w then w :: groupFrom l n else [w]

/-- R23, R34. The position after a group of `n` words at word index `widx` of a packet; padding is passed over. -/
def afterGroup (words : List Word) (pc : DWord) (widx n : Nat) : TrapPos :=
  let rest := words.drop (widx + n)
  if rest.all (· == 0#32) then { pc := nextPacket pc, widx := 0 } else { pc := pc, widx := widx + n }

/-- R389. The group that follows a recorded group in sequence; for a packet that was not fetched, the next packet. -/
def State.nextGroup (s : State) (g : Nat) (pc : DWord) (widx : Nat) (fetched : Bool) : TrapPos :=
  match if fetched then s.codeLine g pc else none with
  | some l =>
    let ws := packetWords l pc
    afterGroup ws pc widx (groupFrom (ws.drop widx) 3).length
  | none => { pc := nextPacket pc, widx := 0 }

/-! ### Waits -/

/-- The event that looks at a wait again. -/
def WaitOn.event (w : WaitOn) (g : Nat) : Option Event :=
  match w with
  | .barrier _ _ => some (.barrierWake g)
  | .byteBarrier _ _ _ => some (.byteBarrierWake g)
  | .queue _ _ => some (.queueHomeStep g)
  | .fullEmpty _ _ _ => some (.fullEmptyWake g)
  | _ => none

/-- Put the first wait that meets a test in front. -/
def Strand.bring (t : Strand) (p : WaitOn → Bool) : Strand :=
  if p t.wait then t
  else
    match takeFirst p t.more with
    | some (w, l) => { t with wait := w, more := t.wait :: l }
    | none => t

/-- R81, R82. A wait of the strand's group, beside those that its other words have brought. -/
def Strand.addWait (t : Strand) (w : WaitOn) : Strand :=
  if t.state = .waiting ∧ t.wait ≠ .nothing then { t with more := t.more ++ [w] }
  else { t with state := .waiting, wait := w }

/-- R81, R82. The strand waits; the event that ends the wait looks at its condition at once. -/
def State.enterWait (s : State) (g : Nat) (w : WaitOn) : State :=
  let s := s.modStrand g (fun t => t.addWait w)
  match w.event g with
  | some e => s.dueOnce e
  | none => s

/-- R82. The state that a strand is in, or that it will return to after a hold or a halt, becomes this. -/
def Strand.become (t : Strand) (x : StrandState) : Strand :=
  match t.state with
  | .held => { t with before := x }
  | .halted => if t.haltFrom = .held then { t with before := x } else { t with haltFrom := x }
  | _ => { t with state := x }

/-- R81. The wait in front has ended: a strand without another is Ready. -/
def Strand.wakeUp (t : Strand) : Strand :=
  match t.more with
  | w :: l => { t with wait := w, more := l }
  | [] => { t.become .ready with wait := .nothing }

/-- R316. The status word of a handle, as HTEST gives it. -/
def handleStatus : Handle → Word
  | .empty => 8
  | .pending => 15
  | .done w => w
def Strand.handle (t : Strand) (h : Nat) : Handle := (t.handles.find? h).getD .empty
def Strand.setHandle (t : Strand) (h : Nat) (x : Handle) : Strand :=
  { t with handles := if x = .empty then t.handles.erase h else t.handles.insert h x }

/-! ### Ending a strand -/

/-- Pool units of eight rows beyond the operand file (R136). -/
def poolUnits (vrows : Nat) : Nat := (vrows - 16 + 7) / 8

/-- R261 step 3, R396 step 5. The tiles of a strand whose work has ended, as its M queue leaves them: suspended and held
words are gone, and a tile that accepted words still run on is stale until they are complete. `keep` says that the
strand goes on, with tiles of zeros. -/
def QuarterSt.endTiles (x : QuarterSt) (g : Nat) (keep : Bool) : Assoc TileSt :=
  let owner : Option Nat := if keep then some g else none
  x.tiles.filterMap (fun y =>
    if y.2.owner != some g then some y
    else
      match x.mq.find? (fun m => m.tile == y.1) with
      | some m => some (y.1, { owner := owner, data := y.2.data, rp := y.2.rp, stale := some m.work })
      | none => if keep then some (y.1, { owner := owner }) else none)

/-- R261 step 3, R396 step 5. The drains among a strand's M words that are gone leave their entries of the copy engine. -/
def State.dropDrains (s : State) (g : Nat) : State :=
  let queued (r : CopyReq) : Bool := (s.quarter (quarterOf g)).mq.any (fun m => m.kind == .mdrain r.id)
  let gone (r : CopyReq) : Bool := r.work == s.workOf g && 6 ≤ r.form && r.drain.isEmpty && !r.started && !queued r
  s.modCore (coreOf g) (fun c => { c with creq := c.creq.filter (fun r => !gone r) })

/-- R91 step 5, R167, R275, R396 step 6. The strand's slot, rows, blocks, tiles and frame return to their pools; its
scratchpad block returns once nothing touches it, and a tile once its words are complete. Rows and blocks keep their contents
until they are given to another strand. Resources have come back, so the dispatcher acts. -/
def State.reclaim (s : State) (g : Nat) : State :=
  let t := s.strand g
  let q := quarterOf g
  let s := s.modQuarter q (fun x =>
    { x with rowsUsed := x.rowsUsed - (poolUnits t.info.vrows - t.spilt.rows),
             ublkUsed := x.ublkUsed - (t.info.ublk - t.spilt.ublks),
             tiles := x.endTiles g false })
  let s := s.modCtx t.info.ctx (fun c => { c with frames := c.frames.filter (· != t.info.frame) })
  let s := { s with qwaiters := s.qwaiters.filter (fun w => w.g != some g),
                    serialWait := s.serialWait.filter (· != g),
                    claims := s.claims.filter (fun c => c.g != g) }
  let s := ((s.dropDrains g).leaveBlocks g).forgetAsks g
  let s := s.setStrand g { state := .exited, vregs := t.vregs, uregs := t.uregs, masks := t.masks }
  let s := s.modCtx t.info.ctx (fun c =>
    { c with tasks := c.tasks.filter (fun x => !(x.running && t.info.work == .task x.id)) })
  (s.strandLeft t.info).dueOnce (.dispatchPlacement t.info.part)

/-- Stores that wait for a free SFRQ place or a host page are looked at again. -/
def State.retryStores (s : State) (core : Nat) : State :=
  (((s.core core).sq.filter (fun e => e.pa.isNone)).map (fun e => e.work.g)).eraseDups.foldl
    (fun s g => s.dueOnce (.storeQueueTranslation g)) s

/-- R203, R205. Free the SFRQ records of a strand; stores that wait for a place go on. -/
def State.freeSfrq (s : State) (g : Nat) : State :=
  (s.modCore (coreOf g) (fun c => { c with sfrq := c.sfrq.map (fun x => x.filter (fun r => r.work.g != g)) })).retryStores (coreOf g)

/-- R396 step 2. Discard a strand's stores that are not translated. -/
def State.discardStores (s : State) (g : Nat) : State :=
  s.modCore (coreOf g) (fun c => { c with sq := c.sq.filter (fun e => e.work.g != g || e.pa.isSome) })

/-- Words 0 to n − 1 of the trap record, as bytes. -/
def recordBytes (t : Strand) (n : Nat) : List Byte :=
  bytesOfWords ((List.range n).map (fun i => t.trap.record.get i))

/-- R396. Terminate a strand: everything but the kill of a context that may have caused it. -/
def State.terminate (s : State) (g cause cause2 : Nat) : State :=
  let t := s.strand g
  if !t.resident then s else
  let s := s.modStrand g (fun t => { t with trap := { t.trap with traps := [] } })
  let s := (s.discardStores g).freeSfrq g
  let s := s.flushCb (coreOf g) (fun e => e.work.ctx == t.info.ctx)
  let s := if t.setBearing then (((s.discardHeld g).leaveWaitLists g).releaseHolds g).returnToken g else s
  let s := s.dropBarriers g
  let va : DWord := if cause ≠ 0 ∧ (t.trap.record.get 0).getLsbD 31 then dword (t.trap.record.get 2) (t.trap.record.get 3) else 0
  let s := s.addLog t.info.ctx (logBytes 1 cause cause2 t.info.ctx (gslot g) s.podTime va.toNat (recordBytes t 16))
  s.reclaim g

/-! ### Outstanding traps -/

/-- R393. The mark of what a strand issues: the serial number of the handler that runs, or 0. -/
def Strand.mark (t : Strand) (handler : Bool) : Nat := if handler then t.trap.serial else 0
def Strand.handlerMark (t : Strand) : Nat := t.mark t.trap.inHandler

/-- R390, R393. The trap a strand takes next: in a handler only one that this handler's own work raised. -/
def Strand.takeable (t : Strand) : Option Outstanding :=
  if t.trap.inHandler then t.trap.traps.find? (fun o => o.handlerWork == t.trap.serial) else t.trap.traps.head?

/-- R317. An HWAIT that waits on a handle that is no longer Pending returns its status; an outstanding trap takes the
strand out of the wait instead (R316). -/
def State.wakeHandle (s : State) (g : Nat) : State :=
  let t := (s.strand g).bring (fun w => match w with | .handle _ _ => true | _ => false)
  match t.wait with
  | .handle h d =>
    match t.handle h with
    | .pending => s
    | x => if t.takeable.isSome then s else s.setStrand g (((t.setU d (handleStatus x)).setHandle h .empty).wakeUp)
  | _ => s

/-- R390. A trap becomes outstanding. -/
def State.raiseOut (s : State) (g : Nat) (o : Outstanding) : State :=
  let t := s.strand g
  if !t.resident then s
  else (s.setStrand g { t with trap := { t.trap with traps := t.trap.traps ++ [o] } }).dueOnce (.trapEntry g)

/-- R390. A trap of a word, or of work that has been handed on, becomes outstanding. `group` is the recorded group where it is
not the next unissued one. -/
def State.raise (s : State) (g : Nat) (info : TrapInfo) (group : Option TrapPos) (handlerWork : Nat) : State :=
  s.raiseOut g { info := info, group := group, handlerWork := handlerWork }

/-- R82, R390. The strand's V word faults at the slot where it stands: its trap is outstanding, and a strand that is Ready
is in TrapEntry. -/
def State.raiseSlot (s : State) (g : Nat) (info : TrapInfo) : State :=
  let s := s.modStrand g (fun t => if t.state = .ready then { t with state := .trapEntry } else t)
  let t := s.strand g
  s.raiseOut g { info := info, group := none, vword := true, handlerWork := t.mark (t.flight.any (·.fromHandler)) }

/-! ### Entry (R391) -/

/-- R380. Device physical address of an offset in a strand's frame. -/
def State.frameAddr (s : State) (g off : Nat) : Nat :=
  let t := s.strand g
  s.hbmNat (s.ctx t.info.ctx).schedAddr 8 + t.info.frame * 131072 + off

/-- R383. One save-area line written out or read back: SharedCache, the boundaries between the core's die and the
line's home, and HBM4E whether it hits or not. -/
def saveLine (die addr : Nat) : List Landing :=
  let h := homeDie { host := false, addr := addr }
  [(11, 1, uDom h)] ++ flit die h ++ [(13, 1, uDom h)]

/-- R383, R424. The access to such a line, at the charge of some work: its burst reaches the stack. -/
def State.saveAccess (s : State) (w : Work) (die addr : Nat) (write : Bool) : State :=
  (s.needStack (homeDie { host := false, addr := addr }) write).land w (saveLine die addr)

/-- R391, R395. Write or read back the record lines at the given frame offsets, at the strand's context's charge. -/
def State.chargeFrame (s : State) (g : Nat) (offs : List Nat) (write : Bool) : State :=
  offs.foldl (fun s o => s.saveAccess (s.workOf g) (dieOf g) (s.frameAddr g o) write) s

/-- Frame offsets of the record lines that entry writes: words 0 to 31 and 128 to 255 (R391). -/
def entryLines : List Nat := [0x400, 0x440] ++ (List.range 8).map (fun i => 0x600 + 64 * i)
/-- Frame offsets of the lines that TRET reads back: words 0 to 15 and the latches (R395). -/
def returnLines : List Nat := [0x400] ++ (List.range 8).map (fun i => 0x600 + 64 * i)

/-- R203, R204. The groups issued since a store's group. Those of a handler that ran in between do not count. -/
def Strand.skid (t : Strand) (group hgroup : Nat) (fromHandler : Bool) : Nat :=
  if fromHandler then t.groups - group else (t.groups - t.hgroups) - (group - hgroup)

/-- R204. The 64 bytes of an SFRQ record; SKID counts the groups issued since the store. -/
def SfrqRec.bytes (r : SfrqRec) (skid : Nat) : List Byte :=
  natLe 8 r.va.toNat ++ (r.data ++ natLe 32 0).take 32 ++ natLe 8 r.pc.toNat
    ++ natLe 8 (r.slot % 32 + Nat.log2 (r.size / 4) * 2 ^ 5 + r.reason % 16 * 2 ^ 8 + r.widx % 4 * 2 ^ 12
        + r.kind % 4 * 2 ^ 14 + gslot r.work.g * 2 ^ 16 + r.work.ctx % 4096 * 2 ^ 32 + min skid 31 * 2 ^ 48)
    ++ natLe 8 0

/-- Put words into a record from an index up. -/
def putWords (m : Words) (i : Nat) : List Word → Words
  | [] => m
  | w :: l => putWords (m.set i w) (i + 1) l

/-- R288, R294. Row progress of tile t of a strand. -/
def State.rowProgress (s : State) (g t : Nat) : Nat :=
  match (s.strand g).info.tiles[t]? with
  | none => 0
  | some p =>
    let x := ((s.quarter (quarterOf g)).tiles.find? p).getD {}
    if x.stale.isSome then 0 else x.rp

/-- R388, R389. The record of a trap: words 0 to 31, AMASK and the latches; SCRATCH is kept. `stopped` is the V word
that stands between slots, `waitm` marks a left wait. -/
def State.record (s : State) (g : Nat) (o : Outstanding) (stopped : Option Flight) (waitm : Bool) : Words :=
  let t := s.strand g
  let i := o.info
  let pos : TrapPos :=
    match o.group, stopped with
    | some p, _ => p
    | none, some f => { pc := f.pc, widx := f.gwidx }
    | none, none => { pc := t.pc, widx := t.widx }
  let nx := s.nextGroup g pos.pc pos.widx (i.cause != .execFault)
  let cursor := match stopped with | some f => f.cursor | none => 0
  let cont : TrapPos := match stopped with | some _ => { pc := t.pc, widx := t.widx } | none => { pc := 0, widx := 0 }
  let sf : Option SfrqRec :=
    match i.sfrq with
    | none => none
    | some n => ((s.core (coreOf g)).sfrq[n]?).join
  let w (n : Nat) : Word := BitVec.ofNat 32 n
  let words : List Word :=
    [ w (i.cause.code + i.tcode * 2 ^ 8 + i.detail * 2 ^ 16 + i.reason * 2 ^ 24 + i.kind * 2 ^ 28
        + (if i.va.isSome then 2 ^ 31 else 0)),
      w (i.size + i.slot * 2 ^ 6 + i.sfrq.getD 0 * 2 ^ 11 + (if i.sfrq.isSome then 2 ^ 17 else 0) + i.tile * 2 ^ 18
        + i.opnd * 2 ^ 20 + i.handle * 2 ^ 22 + (if waitm then 2 ^ 26 else 0)),
      w (i.va.getD 0), w (i.va.getD 0 / 2 ^ 32), loWord pos.pc, hiWord pos.pc,
      w (pos.widx + cursor * 2 ^ 2 + cont.widx * 2 ^ 8 + (if stopped.isSome then 2 ^ 10 else 0)
        + (match stopped with | some f => f.widx | none => 0) * 2 ^ 11),
      t.masks.get 0, loWord cont.pc, hiWord cont.pc,
      w (s.rowProgress g 0 + s.rowProgress g 1 * 2 ^ 8 + s.rowProgress g 2 * 2 ^ 16 + s.rowProgress g 3 * 2 ^ 24),
      w (nx.widx + gslot g * 2 ^ 16), loWord nx.pc, hiWord nx.pc,
      loWord (s.ctxTime t.info.ctx), hiWord (s.ctxTime t.info.ctx) ]
  let img : List Word :=
    match sf with
    | some r => wordsOf (r.bytes (t.skid r.group r.hgroup r.fromHandler))
    | none => List.replicate 16 0
  let rec0 := (t.trap.record.filter (fun x => 64 ≤ x.1 && x.1 < 128))
  let rec1 := putWords rec0 0 (words ++ img)
  let rec2 := rec1.set 32 (match stopped with | some f => f.active | none => 0)
  putWords rec2 128 ((List.range 128).map (fun j => t.latches.get j))

/-- R389. The V word that the record of a trap names: the one in which the trap arises, one that stands at its slot for a
host page or a granule, or a release that a store fault stops before its lowest active slot (R206). -/
def Strand.stoppedWord (t : Strand) (o : Outstanding) : Option Flight :=
  match t.flight with
  | none => none
  | some f =>
    match f.stop with
    | .pageWait | .granWait | .reissue => some f
    | .faulted => if o.vword then some f else none
    | .release => if o.info.sfrq.isSome then some f else none
    | _ => none

/-- A store fault of the strand is outstanding (R203). -/
def Strand.storeFaulted (t : Strand) : Bool := t.trap.traps.any (·.info.sfrq.isSome)

/-- The V word on the rod must still run to its end or its stop before an entry goes on (R83, R391 step 1). A release that
waits for a store which has faulted stays where it stands (R206). -/
def Strand.rodRuns (t : Strand) : Bool :=
  match t.flight with
  | none => false
  | some f => f.stop.goesOn && !(f.stop == .release && t.storeFaulted)

/-- R391, R395. What a trap leaves in the strand's trap state: the record, the stopped word and the left wait. -/
def Strand.tookTrap (t : Strand) (o : Outstanding) (rcd : Words) (left : Bool) : Strand :=
  { t with trap := { t.trap with
      traps := t.trap.traps.erase o, record := rcd,
      stopped := match t.flight with
        | some f => if f.stop == .ran then none else some f
        | none => none,
      aside := (t.stoppedWord o).isNone,
      leftWait := if left then some (t.state, t.wait) else none,
      leftMore := if left then t.more else [],
      leftExit := t.leaving,
      leftSent := t.usent.map (fun n => (n, { pc := t.pc, widx := t.widx })), leftReply := t.ureply } }

/-- R391. The handler starts: `em` is LIVE, the latches are zero, and the strand is Ready at the handler's entry. -/
def Strand.inTrapHandler (t : Strand) (o : Outstanding) (handler : DWord) : Strand :=
  { t with
    masks := t.masks.set 0 t.info.live, latches := [], pc := handler, widx := 0, flight := none,
    state := .ready, wait := .nothing, more := [], leaving := false, usent := none, ureply := none, relIds := none,
    trap := { t.trap with inHandler := true, serial := t.trap.serial + 1, handlerGroup := t.groups,
                          first := o.info.cause.code } }

/-- R337. The wait of a queue word. -/
def WaitOn.isQueue (w : WaitOn) : Bool := match w with | .queue _ _ => true | _ => false

/-- R333, R390. The strand leaves what a TASK word has under way at its home: the reply of the group it is Parked at, or the wait
of a group that has issued. It takes it up again at TRET. -/
def Strand.leaveHome (t : Strand) : Strand :=
  if t.homeOp.isNone && !t.replied then t
  else
    { t with homeOp := none, homeWait := false, homeDone := false, replied := false, replyRegs := [],
             trap := { t.trap with leftHome := t.homeOp, leftRegs := if t.homeOp.isNone then some t.replyRegs else none,
                                   leftAt := if t.waitList.any WaitOn.isQueue then none else some { pc := t.pc, widx := t.widx } } }

/-- Change the roles of a strand's queue waiters and of the entries on their way to it. -/
def State.setRoles (s : State) (g : Nat) (a b c : QueueRole) : State :=
  { s with qwaiters := updWhere (fun w => w.g == some g && w.role == a) (fun w => { w with role := b }) s.qwaiters,
           xfers := updWhere (fun x => x.g == some g && x.role == a) (fun x => { x with role := c }) s.xfers }

/-- R337. Nothing waits any longer for a word that a trap left: its place in a queue is given up, and its entry is nobody's. -/
def State.dropLeft (s : State) (g : Nat) : State :=
  let s := s.setRoles g .left .lost .lost
  let s : State := { s with qwaiters := s.qwaiters.filter (fun w => w.role != .lost) }
  s.modStrand g (fun t => { t with trap := { t.trap with leftHome := none, leftRegs := none, leftAt := none } })

/-- R395. The strand takes up what a TASK word has under way: `listed` says that the word is still among its home's waiters.
In front of its group the word finds its reply; after it, the registers are written. -/
def Strand.rejoinHome (t : Strand) (listed : Bool) : Strand :=
  let bare : Strand := { t with trap := { t.trap with leftHome := none, leftRegs := none, leftAt := none } }
  match t.trap.leftRegs, t.trap.leftAt with
  | some regs, some _ => { bare with replied := true, replyRegs := regs }
  | some regs, none => regs.foldl (fun (t : Strand) x => t.setU x.1 x.2) bare
  | none, at_ => { bare with homeOp := t.trap.leftHome, homeWait := t.trap.leftHome.isSome, replied := at_.isSome && listed }

/-- R395. The same for the queue's waiter and for the entry on its way. -/
def State.rejoinHome (s : State) (g : Nat) : State :=
  let listed := s.qwaiters.any (fun w => w.g == some g && w.role == .left)
  (s.modStrand g (fun t => t.rejoinHome listed)).setRoles g .left .word .word

/-- R289. The suspension of a tile has been reported by its trap. -/
def State.markReported (s : State) (g tile : Nat) : State :=
  match (s.strand g).info.tiles[tile]? with
  | none => s
  | some p =>
    let mark (x : Nat × TileSt) : Nat × TileSt :=
      if x.1 = p then (x.1, { x.2 with susp := x.2.susp.map (fun (m : MSuspend) => { m with reported := true }) }) else x
    s.modQuarter (quarterOf g) (fun (q : QuarterSt) => { q with tiles := q.tiles.map mark })

/-- R391. The record is written to the strand and its frame, and charged; what the strand has under way at a home is left. -/
def State.writeRecord (s : State) (g : Nat) (o : Outstanding) : State :=
  let t := s.strand g
  let left : Bool := t.state == .waiting && t.wait != .group
  let s := s.setStrand g (t.tookTrap o (s.record g o (t.stoppedWord o) left) left)
  let s := s.memWrite { host := false, addr := s.frameAddr g 0x400 } (recordBytes (s.strand g) 256)
  let s := s.chargeFrame g entryLines true
  let s := if o.info.kind = 5 then s.markReported g o.info.tile else s
  (s.modStrand g Strand.leaveHome).setRoles g .word .left .left

/-- R391. A strand takes a trap at its boundary: results commit, the record is written, and the handler starts. A
missing handler ends the strand. -/
def State.enterTrap (s : State) (g : Nat) (o : Outstanding) : State :=
  let s := (s.modStrand g (fun t => t.commitAll.freeRod)).writeRecord g o
  let blk := (s.ctx (s.strand g).info.ctx).trapAddr
  let handler := BitVec.ofNat 64 (s.hbmNat blk 8)
  if s.hbmNat (blk + 8) 1 % 2 = 0 ∨ !pcValid handler then s.terminate g o.info.cause.code 0
  else (s.forgetAsks g).modStrand g (fun t => t.inTrapHandler o handler)

/-- R393. A trap that is a double fault: one that the running handler's own work raised, or a V fault in the group of its
TRET. -/
def Strand.isDouble (t : Strand) (o : Outstanding) : Bool := t.trap.inHandler || (o.vword && o.handlerWork != 0)

/-- R333. A request of the strand is on its way to a home slice, or its reply is on its way back. -/
def Strand.asksHome (t : Strand) : Bool := (t.homeOp.isSome && !t.homeWait) || t.homeDone

/-- R390, R391. A strand can take its trap now: a hold, a halt, a rollback, a V word still running or a message to its home and
back puts it off. -/
def Strand.trapReady (t : Strand) : Bool :=
  t.resident && t.takeable.isSome && t.state != .held && t.state != .halted && !t.aset.rolling
    && (t.trap.inHandler || (!t.rodRuns && !t.asksHome))

/-- R391. A strand takes its outstanding trap once the V word in flight has come to its stop; a strand that waits goes on
waiting until then (R390). A double fault (R393) ends the strand. -/
def State.takeTrap (s : State) (g : Nat) : State :=
  let t := s.strand g
  match t.takeable with
  | none => s
  | some o =>
    if !t.resident || t.state == .held || t.state == .halted || t.aset.rolling then s
    else if t.isDouble o then
      s.terminate g (bitsOf (t.trap.record.get 0).toNat 7 0) o.info.cause.code
    else if t.asksHome then s
    else if t.rodRuns then
      s.modStrand g (fun t => { t with state := if t.state = .waiting then .waiting else .trapEntry })
    else s.enterTrap g o

/-- R394. The copy of the record that a core holds for a strand in its handler goes back to the strand frame. -/
def State.saveRecord (s : State) (g : Nat) : State :=
  let t := s.strand g
  if t.trap.inHandler then s.memWrite { host := false, addr := s.frameAddr g 0x400 } (recordBytes t 256) else s

/-! ### Return (R395) -/

/-- A field of the trap record: bits hi to lo, counted from word 0 (R388). -/
def Strand.recBits (t : Strand) (hi lo : Nat) : Nat := bitsOf (t.trap.record.get (lo / 32)).toNat (hi - lo / 32 * 32) (lo % 32)
def Strand.rec64 (t : Strand) (w : Nat) : DWord := dword (t.trap.record.get w) (t.trap.record.get (w + 1))

/-- A position whose word index lies beyond the packet is the start of the next packet. -/
def normPos (pc : DWord) (widx : Nat) : TrapPos :=
  if 3 ≤ widx then { pc := nextPacket pc, widx := 0 } else { pc := pc, widx := widx }

/-- The V word, with its prefix, that stands at a place in the code. -/
def State.vWordAt (s : State) (g : Nat) (pc : DWord) (widx : Nat) : Option (Instr × VPfx) :=
  match s.codeLine g pc with
  | none => none
  | some l =>
    let ws := packetWords l pc
    match ws[widx]? with
    | none => none
    | some w =>
      if pipeOf (fieldMaj w) ≠ 2 then none
      else
        match decode w with
        | .error _ => none
        | .ok i =>
          let p : VPfx :=
            if widx = 0 then .zero
            else
              match ws[widx - 1]?.map decode with
              | some (.ok (.vpfx m r z d a b c)) => { msk := m, rm := r, zm := z = 1, wd := d, wa := a, wb := b, c := c }
              | _ => .zero
          some (i, p)

/-- R395. A strand returns to the wait that its trap left, and goes on when the wait ends. -/
def State.resumeLeft (s : State) (g : Nat) : State :=
  let t := s.strand g
  match t.trap.leftWait with
  | none => s
  | some (_, w) =>
    if t.trap.inHandler then s
    else
      let served := t.trap.leftRegs.isSome
      let s := (s.setStrand g { t with trap := { t.trap with leftWait := none, leftMore := [] } }).rejoinHome g
      (((w :: t.trap.leftMore).filter (fun w => !(served && w.isQueue))).foldl (fun s w => s.enterWait g w) s).wakeHandle g

/-- R395. The V word that TRET re-issues: the stopped word, or the word the handler named in its place, with the saved
operand values, over AMASK within LIVE from CURSOR. -/
def State.reissued (s : State) (g : Nat) : Option Flight :=
  let t := s.strand g
  let pc := t.rec64 4
  let vw := t.recBits 204 203
  let here (f : Flight) : Option Flight :=
    if f.pc = pc ∧ f.widx = vw then some f
    else (s.vWordAt g pc vw).map (fun (w : Instr × VPfx) => { f with instr := w.1, vp := w.2 })
  let base : Option Flight :=
    match t.trap.stopped with
    | some f => here f
    | none => (s.vWordAt g pc vw).map (fun (w : Instr × VPfx) =>
        { instr := w.1, vp := w.2, pc := pc, widx := vw, gwidx := vw, lit := 0, active := 0, cursor := 0, uni := t.uregs,
          fmt := t.fm, bvals := [], wins := [], seq := t.vseq, group := t.groups, stop := .reissue, waited := true, mask := none,
          mark := s.nextId })
  base.map (fun f => { f with pc := pc, widx := vw, active := t.trap.record.get 32 &&& t.info.live,
                              cursor := t.recBits 199 194, stop := .reissue })

/-- R394, R395. The return from a handler, after its waits and its check of PC: the record is written back, `em`, latches and row progress are restored,
the SFRQ record is freed, and the strand goes on at the stopped V word, the left wait or the recorded place. A word
at (PC, VWIDX) that is not a V word traps with ILLEGAL_GROUP. -/
def State.leaveHandler (s : State) (g : Nat) : State :=
  let s := (s.saveRecord g).chargeFrame g returnLines false
  let t := s.strand g
  let s := s.modQuarter (quarterOf g) (fun q =>
    { q with tiles := q.tiles.map (fun x =>
        match x.2.susp, t.info.tiles.idxOf? x.1 with
        | some m, some i => if m.reported then (x.1, { x.2 with rp := t.recBits (326 + 8 * i) (320 + 8 * i) }) else x
        | _, _ => x) })
  let s := if t.recBits 49 49 = 1 then
      (s.modCore (coreOf g) (fun c => { c with sfrq := c.sfrq.set (t.recBits 48 43) none })).retryStores (coreOf g)
    else s
  let cvalid := t.recBits 202 202 == 1
  let waitm := t.recBits 58 58 == 1
  let again := cvalid && t.recBits 199 194 ≤ 31
  let pos := if cvalid then normPos (t.rec64 8) (t.recBits 201 200) else normPos (t.rec64 4) (t.recBits 193 192)
  let re := if again then s.reissued g else none
  let flight :=
    match again, t.trap.stopped with
    | true, _ => re
    | false, some f => if f.stop == .fullEmpty then (if waitm then some f else none) else if t.trap.aside then some f else none
    | false, none => none
  let sent := t.trap.leftSent.filter (fun x => x.2 = pos)
  let s := s.setStrand g { t with
    masks := t.masks.set 0 (t.trap.record.get 7 &&& t.info.live),
    latches := (List.range 128).foldl (fun m j => m.set j (t.trap.record.get (128 + j))) [],
    pc := pos.pc, widx := pos.widx, state := .ready, wait := .nothing, more := [],
    flight := if t.flight.isSome then t.flight else flight, again := if t.flight.isSome then flight else none,
    usent := sent.map (·.1), ureply := if sent.isSome then t.trap.leftReply else none, leaving := t.trap.leftExit,
    trap := { t.trap with inHandler := false, stopped := none, aside := false, leftExit := false, leftSent := none, leftReply := none,
                          leftWait := if waitm then t.trap.leftWait else none } }
  let s := if again && re.isNone then
      s.raise g { cause := .illegalGroup } (some { pc := t.rec64 4, widx := t.recBits 204 203 }) 0
    else s
  let s := if t.trap.leftAt = some pos then s.rejoinHome g else if t.trap.leftAt.isSome || !waitm then s.dropLeft g else s
  let s := if re.isSome then s else s.resumeLeft g
  if (s.strand g).trap.traps.isEmpty then s else s.dueOnce (.trapEntry g)

end Sys2Proof.Machine
end

