-- ==== Sys2Proof/Machine/Fetch.lean ====
section
/-!
DEFINITION. Fetching code (R21, R25, R27): the PACKET_FETCH event and the operation it shares with issue.
-/

namespace Sys2Proof.Machine

/-- What a fetch gives. -/
inductive Fetched where
  | line (l : List Byte)
  | fail (reason : Nat)
  | wait (h : Hold)
  deriving DecidableEq, Repr

/-- R9. The lines of an instruction cache: 128 KB of 64-byte lines. -/
def icacheLines : Nat := 2048

/-- The instruction cache drops the lines of a context. -/
def State.codeDropCtx (s : State) (core ctx : Nat) : State :=
  s.modCore core (fun c => { c with icache := c.icache.filter (fun l => l.ctx != ctx) })

/-- R9, R27. A core's fetch of a code line of a context: as its instruction cache holds it, else whole from memory, which a
fetch that is made anew reads in any case. -/
def State.codeAt (s : State) (core ctx : Nat) (p : PAddr) (anew : Bool) : State × List Byte :=
  let c := s.core core
  let mine (l : L1Line) : Bool := l.pa == p && l.ctx == ctx
  let held : Option L1Line := if anew then none else c.icache.find? mine
  let line : L1Line := held.getD { pa := p, ctx := ctx, data := s.memBytes p 64 }
  (s.setCore core { c with icache := (line :: c.icache.filter (fun l => !mine l)).take icacheLines }, line.data)

/-- R25, R27. The strand fetches the code line of its PC, whole, unless it has it. -/
def State.fetchLine (s : State) (g : Nat) (anew : Bool := false) : State × Fetched :=
  let t := s.strand g
  let a := t.pc.toNat / 64 * 64
  let fresh : State × Fetched :=
    match s.translateFor (.group g) (s.workOf g) (coreOf g) a .fetch with
    | (s, .ok p) =>
      let r := s.codeAt (coreOf g) t.info.ctx p anew
      (r.1.modStrand g (fun t => { t with line := some (a, r.2) }), .line r.2)
    | (s, .fail r) => (s, .fail r)
    | (s, .host _) => (s, .wait .pageWait)
    | (s, .miss) => (s, .wait .walk)
  match t.line with
  | some (b, l) => if a = b then (s, .line l) else fresh
  | none => fresh

/-- PACKET_FETCH: the strand fetches its line anew, past the instruction cache, so that it has the new contents of a line
that was stored to (R27). -/
def execPacketFetch (g : Nat) (s : State) : Host.Outcome State Fault Refusal :=
  .next ((s.modStrand g (fun t => { t with line := none })).fetchLine g true).1

end Sys2Proof.Machine
end

