-- ==== Sys2Proof/Machine/Float.lean ====
section
/-!
DEFINITION. Floating point (R98 to R103, R109, R115, R116): values of the fixed formats as exact numbers, rounding by
the modes of R38, sums and products with one rounding, comparison and conversion. A finite value is
(−1)^neg × m × 2^e, so every exact result here is exact.
-/

namespace Sys2Proof.Machine

/-- Flags of SF (R110). -/
def flagNV : Nat := 1
def flagDZ : Nat := 2
def flagOF : Nat := 4
def flagUF : Nat := 8
def flagNX : Nat := 16
def flagSAT : Nat := 32

/-- A fixed format (R98): exponent and fraction widths and bias. -/
structure FFmt where
  eb : Nat
  fb : Nat
  bias : Nat
  deriving DecidableEq, Repr

def f32 : FFmt := { eb := 8, fb := 23, bias := 127 }
def f16 : FFmt := { eb := 5, fb := 10, bias := 15 }
def bf16 : FFmt := { eb := 8, fb := 7, bias := 127 }

/-- A value: a NaN, an infinity, or a number. -/
inductive FVal where
  | nan (signalling : Bool)
  | inf (neg : Bool)
  | fin (neg : Bool) (m : Nat) (e : Int)
  deriving DecidableEq, Repr

/-- R98. The value of an encoding. -/
def FFmt.decode (f : FFmt) (bits : Nat) : FVal :=
  let frac := bits % 2 ^ f.fb
  let ex := bits / 2 ^ f.fb % 2 ^ f.eb
  let neg := bits / 2 ^ (f.fb + f.eb) % 2 == 1
  if ex = 2 ^ f.eb - 1 then (if frac = 0 then .inf neg else .nan (frac / 2 ^ (f.fb - 1) == 0))
  else if ex = 0 then .fin neg frac (1 - f.bias - f.fb)
  else .fin neg (2 ^ f.fb + frac) (ex - f.bias - f.fb)

def FFmt.signBit (f : FFmt) (neg : Bool) : Nat := if neg then 2 ^ (f.fb + f.eb) else 0
def FFmt.infBits (f : FFmt) (neg : Bool) : Nat := f.signBit neg + (2 ^ f.eb - 1) * 2 ^ f.fb
def FFmt.maxBits (f : FFmt) (neg : Bool) : Nat := f.infBits neg - 1
/-- R100. The canonical NaN. -/
def FFmt.nanBits (f : FFmt) : Nat := (2 ^ f.eb - 1) * 2 ^ f.fb + 2 ^ (f.fb - 1)

def FVal.isNaN : FVal → Bool
  | .nan _ => true
  | _ => false
def FVal.isSNaN : FVal → Bool
  | .nan q => q
  | _ => false
def FVal.isInf : FVal → Bool
  | .inf _ => true
  | _ => false
def FVal.neg : FVal → Bool
  | .nan _ => false
  | .inf n => n
  | .fin n _ _ => n
def FVal.isZero : FVal → Bool
  | .fin _ m _ => m == 0
  | _ => false

/-- A rounding mode with the draw of R103: `d` of `w` bits, used by mode 5. -/
structure RMode where
  mode : Nat := 0
  d : Nat := 0
  w : Nat := 32
  deriving DecidableEq, Repr

def rne : RMode := {}

/-- R102, R103. Whether the magnitude r / 2^s above q is rounded up, 0 ≤ r < 2^s. DESIGN CHOICE (log 119): a tie of RNE goes to
the even multiple of the quantum in a format without fraction bits too. -/
def RMode.up (rm : RMode) (neg : Bool) (q r s : Nat) : Bool :=
  match rm.mode with
  | 0 => 2 ^ s < 2 * r || (2 * r == 2 ^ s && q % 2 == 1)
  | 1 => false
  | 2 => r != 0 && !neg
  | 3 => r != 0 && neg
  | 4 => r != 0 && 2 ^ s ≤ 2 * r
  | _ => rm.d < r * 2 ^ rm.w / 2 ^ s

/-- Round m × 2^e to a multiple of 2^qe: the multiple, and whether it is exact. -/
def roundTo (rm : RMode) (neg : Bool) (m : Nat) (e qe : Int) : Nat × Bool :=
  if qe ≤ e then (m * 2 ^ (e - qe).toNat, true)
  else
    let s := (qe - e).toNat
    let q := m / 2 ^ s
    let r := m % 2 ^ s
    (if rm.up neg q r s then q + 1 else q, r == 0)

/-- The weight of the last fraction bit of a format at a magnitude, with subnormals at the bottom. -/
def quantum (emin : Int) (fb : Nat) (m : Nat) (e : Int) : Int := max ((Nat.log2 m : Int) + e) emin - fb

/-- R102. Round a finite value into a fixed format: bits and flags. -/
def FFmt.round (f : FFmt) (rm : RMode) (neg : Bool) (m : Nat) (e : Int) : Nat × Nat :=
  let emin : Int := 1 - f.bias
  let qe := quantum emin f.fb m e
  let r := roundTo rm neg m e qe
  let nx := if r.2 then 0 else flagNX
  if r.1 = 0 then (f.signBit neg, if m = 0 then 0 else nx)
  else
    let top := (Nat.log2 r.1 : Int) + qe
    if (f.bias : Int) < top then
      let toInf : Bool := match rm.mode with
        | 1 => false
        | 2 => !neg
        | 3 => neg
        | _ => true
      (if toInf then f.infBits neg else f.maxBits neg, flagOF ||| flagNX)
    else
      (f.signBit neg + (qe - (emin - f.fb)).toNat * 2 ^ f.fb + r.1,
        nx ||| (if top < emin && !r.2 then flagUF else 0))

/-- The sign of an exact zero that sums signed zeros or cancelling terms (R99). -/
def zeroSign (rm : RMode) (signs : List Bool) : Bool :=
  if signs.all (fun n => n) then true else if signs.all (fun n => !n) then false else rm.mode == 3

/-- The exact sum of finite values: sign and magnitude. -/
def finSum : List FVal → Int × Int
  | [] => (0, 0)
  | .fin n m e :: l =>
    let r := finSum l
    let v : Int := if n then -(m : Int) else m
    if m = 0 then r
    else if r.1 = 0 then (v, e)
    else if e ≤ r.2 then (v + r.1 * 2 ^ (r.2 - e).toNat, e)
    else (v * 2 ^ (e - r.2).toNat + r.1, r.2)
  | _ :: l => finSum l

/-- An exact product; `none` is 0 × ∞. -/
def FVal.mul : FVal → FVal → Option FVal
  | .nan a, .nan b => some (.nan (a || b))
  | .nan a, _ => some (.nan a)
  | _, .nan b => some (.nan b)
  | .inf a, .inf b => some (.inf (a != b))
  | .inf a, .fin b m _ => if m = 0 then none else some (.inf (a != b))
  | .fin a m _, .inf b => if m = 0 then none else some (.inf (a != b))
  | .fin a m e, .fin b n g => some (.fin (a != b) (m * n) (e + g))

/-- R99. The value with the other sign. -/
def FVal.negate : FVal → FVal
  | .nan s => .nan s
  | .inf n => .inf (!n)
  | .fin n m e => .fin (!n) m e

/-- R99, R100, R102, R147. The sum of terms with one rounding: bits and flags. `ops` are the operands, whose signalling
NaNs set NV; a term `none` is an invalid product. -/
def FFmt.sum (f : FFmt) (rm : RMode) (ops : List FVal) (terms : List (Option FVal)) : Nat × Nat :=
  let snan := if ops.any FVal.isSNaN then flagNV else 0
  let vals := terms.filterMap id
  let infs := vals.filter FVal.isInf
  let invalid := terms.any Option.isNone || (infs.any FVal.neg && infs.any (fun v => !v.neg))
  if invalid then (f.nanBits, flagNV)
  else if vals.any FVal.isNaN || ops.any FVal.isNaN then (f.nanBits, snan)
  else
    match infs with
    | v :: _ => (f.infBits v.neg, 0)
    | [] =>
      let r := finSum vals
      if r.1 = 0 then (f.signBit (zeroSign rm (vals.map FVal.neg)), 0)
      else f.round rm (r.1 < 0) r.1.natAbs r.2

/-- R147. Addition, multiplication and fused multiply-add of encodings. -/
def FFmt.add (f : FFmt) (rm : RMode) (a b : Nat) : Nat × Nat :=
  let x := f.decode a
  let y := f.decode b
  f.sum rm [x, y] [some x, some y]
def FFmt.sub (f : FFmt) (rm : RMode) (a b : Nat) : Nat × Nat :=
  let x := f.decode a
  let y := f.decode b
  f.sum rm [x, y] [some x, some y.negate]
def FFmt.mul (f : FFmt) (rm : RMode) (a b : Nat) : Nat × Nat :=
  let x := f.decode a
  let y := f.decode b
  f.sum rm [x, y] [x.mul y]
def FFmt.fma (f : FFmt) (rm : RMode) (a b c : Nat) : Nat × Nat :=
  let x := f.decode a
  let y := f.decode b
  let z := f.decode c
  f.sum rm [x, y, z] [x.mul y, some z]

/-- A finite value as an integer multiple of 2^e0, for comparison. -/
def scaled (e0 : Int) : FVal → Int
  | .fin n m e => let v : Int := (m * 2 ^ (e - e0).toNat : Nat); if n then -v else v
  | _ => 0

/-- Order of two values that are not NaNs; −0 equals +0. -/
def FVal.cmp (a b : FVal) : Ordering :=
  match a, b with
  | .inf x, .inf y => if x = y then .eq else if x then .lt else .gt
  | .inf x, _ => if x then .lt else .gt
  | _, .inf y => if y then .gt else .lt
  | .fin n m e, .fin n' m' e' =>
    let e0 := min e e'
    let v := scaled e0 (.fin n m e)
    let w := scaled e0 (.fin n' m' e')
    if v < w then .lt else if v = w then .eq else .gt
  | _, _ => .eq

/-- R147. VFMIN and VFMAX (`mx`): bits and flags. -/
def minMax (mx : Bool) (a b : Word) : Word × Nat :=
  let x := f32.decode a.toNat
  let y := f32.decode b.toNat
  let fl := if x.isSNaN || y.isSNaN then flagNV else 0
  if x.isNaN && y.isNaN then (BitVec.ofNat 32 f32.nanBits, fl)
  else if x.isNaN then (b, fl)
  else if y.isNaN then (a, fl)
  else
    match x.cmp y with
    | .eq => (if x.neg == mx then b else a, fl)
    | .lt => (if mx then b else a, fl)
    | .gt => (if mx then a else b, fl)

/-- R144. Condition codes of VFCMP.f32 on the values of two registers: truth and flags. -/
def fcmp (cond : Nat) (a b : Word) : Bool × Nat :=
  let x := f32.decode a.toNat
  let y := f32.decode b.toNat
  let fl := if x.isSNaN || y.isSNaN then flagNV else 0
  if x.isNaN || y.isNaN then (cond == 1 || cond == 6, fl)
  else
    let o := x.cmp y
    (match cond with
     | 0 => o == .eq
     | 1 => o != .eq
     | 2 => o == .lt
     | 3 => o != .gt
     | 4 => o == .gt
     | 5 => o != .lt
     | 6 => false
     | _ => true, fl)

/-- R150. The class of an FP32 operand. -/
def fclass (a : Word) : Nat :=
  match f32.decode a.toNat with
  | .nan s => if s then 8 else 9
  | .inf n => if n then 0 else 7
  | .fin n m _ =>
    let normal := bitsOf a.toNat 30 23 != 0
    if m = 0 then (if n then 3 else 4)
    else if normal then (if n then 1 else 6)
    else (if n then 2 else 5)

/-- R150. VFRND. -/
def frnd (rm : RMode) (a : Word) : Word × Nat :=
  match f32.decode a.toNat with
  | .nan s => (BitVec.ofNat 32 f32.nanBits, if s then flagNV else 0)
  | .inf _ => (a, 0)
  | .fin n m e =>
    let r := roundTo rm n m e 0
    if m = 0 then (a, 0) else (BitVec.ofNat 32 (f32.round rne n r.1 0).1, 0)

/-- R109, R151. A value converted to i32 (`signed`) or n32, plain or saturating: bits and flags. A signalling NaN sets NV in
either form (R100). -/
def toInteger (rm : RMode) (signed sat : Bool) (v : FVal) : Nat × Nat :=
  let lo : Int := if signed then -2147483648 else 0
  let hi : Int := if signed then 2147483647 else 4294967295
  let plain : Nat := if signed then 0x80000000 else 0xFFFFFFFF
  let bound (neg : Bool) : Nat := ((if neg then lo else hi) % 4294967296).toNat
  match v with
  | .nan s => if sat then (0, flagSAT ||| (if s then flagNV else 0)) else (plain, flagNV)
  | .inf n => if sat then (bound n, flagSAT) else (plain, flagNV)
  | .fin n m e =>
    let r := roundTo rm n m e 0
    let x : Int := if n then -(r.1 : Int) else r.1
    if lo ≤ x ∧ x ≤ hi then ((x % 4294967296).toNat, if r.2 then 0 else flagNX)
    else if sat then (bound n, flagSAT)
    else (plain, flagNV)

/-- R109, R151. A value converted to a fixed format. -/
def FFmt.convert (f : FFmt) (rm : RMode) (sat : Bool) (v : FVal) : Nat × Nat :=
  match v with
  | .nan s => (f.nanBits, if s then flagNV else 0)
  | .inf n => (f.infBits n, 0)
  | .fin n m e =>
    let r := f.round rm n m e
    if sat && r.2 &&& flagOF != 0 then (f.maxBits n, flagSAT ||| flagNX) else r

/-- R160. The draw of the generator for a counter value. -/
def randWord (k c : DWord) : Word :=
  let x := c ^^^ k
  let x := (x ^^^ (x >>> 32)) * 0xA3B195354A39B70D#64
  let x := ((x ^^^ (x >>> 29)) + k) * 0x8CB92BA72F3D8DD7#64
  loWord (x ^^^ (x >>> 32))

end Sys2Proof.Machine
end

