-- ==== Sys2Proof/Machine/Narrow.lean ====
section
/-!
DEFINITION. Narrow formats (R104 to R108), MX block scales (R113) and the block sums of the matrix unit (R115).
-/

namespace Sys2Proof.Machine

/-- Fields of a format register (R104). -/
def fmS (f : Word) : Nat := bitsOf f.toNat 0 0
def fmE (f : Word) : Nat := bitsOf f.toNat 3 1
def fmM (f : Word) : Nat := bitsOf f.toNat 6 4
def fmBias (f : Word) : Int := signedOf 8 (bitsOf f.toNat 15 8)
def fmPol (f : Word) : Nat := bitsOf f.toNat 17 16
def fmScs (f : Word) : Bool := f.getLsbD 18
def fmScf (f : Word) : Nat := bitsOf f.toNat 21 19
/-- Width of a code. -/
def fmWidth (f : Word) : Nat := fmS f + fmE f + fmM f
/-- R107. Bits of the container. -/
def fmContainer (f : Word) : Nat := if fmWidth f ≤ 4 then 4 else 8

/-- R105. A non-zero value is a valid format. -/
def fmValid (f : Word) : Bool :=
  2 ≤ fmWidth f && fmWidth f ≤ 8 && fmPol f != 3 && (fmPol f != 1 || 2 ≤ fmE f) && (fmPol f != 2 || 1 ≤ fmE f)
    && (fmE f != 0 || fmPol f == 0) && bitsOf f.toNat 31 22 == 0 && !f.getLsbD 7

/-- R105. A word may use format register i: it is set and valid, and so is its scale format when it names one. -/
def fmUsable (fms : Words) (i : Nat) : Bool :=
  let f := fms.get i
  f != 0 && fmValid f && (!fmScs f || (fms.get (fmScf f) != 0 && fmWidth (fms.get (fmScf f)) == 8))

/-- R106. The sign bit of a code, the exponent field and the mantissa field. -/
def codeSign (f : Word) (c : Nat) : Bool := fmS f == 1 && c / 2 ^ (fmWidth f - 1) % 2 == 1
def codeExp (f : Word) (c : Nat) : Nat := c / 2 ^ fmM f % 2 ^ fmE f
def codeMan (f : Word) (c : Nat) : Nat := c % 2 ^ fmM f

/-- R106. The canonical NaN code, if the format has one. -/
def fmNaN (f : Word) : Option Nat :=
  match fmPol f with
  | 1 => if fmM f = 0 then none else some ((2 ^ fmE f - 1) * 2 ^ fmM f + 2 ^ (fmM f - 1))
  | 2 => some (2 ^ fmWidth f - 1)
  | _ => none

/-- R106. The codes of the largest positive and the most negative finite value; a format without a sign has the zero
code for the latter (R108). -/
def fmMax (f : Word) (neg : Bool) : Nat :=
  let w := fmWidth f
  let body : Nat :=
    match fmPol f with
    | 1 => (2 ^ fmE f - 1) * 2 ^ fmM f - 1
    | 2 => if fmS f = 0 then 2 ^ w - 2 else 2 ^ (w - 1) - 1
    | _ => 2 ^ (w - fmS f) - 1
  if !neg then body
  else if fmS f = 0 then 0
  else if fmE f = 0 then 2 ^ (w - 1)
  else if fmPol f = 2 then 2 ^ w - 2
  else 2 ^ (w - 1) + body

/-- R106. The value of a code; bits above its width are not looked at (R107). -/
def narrowDecode (f : Word) (c : Nat) : FVal :=
  let w := fmWidth f
  let c := c % 2 ^ w
  if fmE f = 0 then
    let v : Int := if fmS f = 1 then signedOf w c else c
    .fin (v < 0) v.natAbs (-fmBias f)
  else
    let n := codeSign f c
    let ex := codeExp f c
    let fr := codeMan f c
    if fmPol f = 2 ∧ c = 2 ^ w - 1 then .nan false
    else if fmPol f = 1 ∧ ex = 2 ^ fmE f - 1 then (if fr = 0 then .inf n else .nan false)
    else if ex = 0 then .fin n fr (1 - fmBias f - fmM f)
    else .fin n (2 ^ fmM f + fr) (ex - fmBias f - fmM f)

/-- R108. The code of a value and the flags. DESIGN CHOICE (log 137): a format with E = 0 has no smallest normal for the test
of R102, so no result of it is tiny and none sets UF. -/
def narrowEncode (f : Word) (rm : RMode) (v : FVal) : Nat × Nat :=
  match v with
  | .nan _ =>
    match fmNaN f with
    | some c => (c, flagNV)
    | none => (0, flagNV ||| flagSAT)
  | .inf n =>
    if fmPol f = 1 ∧ (!n ∨ fmS f = 1) then
      ((if n then 2 ^ (fmWidth f - 1) else 0) + (2 ^ fmE f - 1) * 2 ^ fmM f, 0)
    else (fmMax f n, flagSAT)
  | .fin n m e =>
    let emin : Int := 1 - fmBias f
    let qe : Int := if fmE f = 0 then -fmBias f else quantum emin (fmM f) m e
    let r := roundTo rm n m e qe
    let nx := if r.2 then 0 else flagNX
    if fmS f = 0 ∧ n then
      if r.1 = 0 then (0, if m = 0 then 0 else flagNX) else (0, flagSAT ||| flagNX)
    else
      let big := narrowDecode f (fmMax f n)
      let here := FVal.fin n r.1 qe
      if here.cmp big == (if n then .lt else .gt) then (fmMax f n, flagSAT ||| flagNX)
      else if fmE f = 0 then ((if n then 2 ^ fmWidth f - r.1 else r.1) % 2 ^ fmWidth f, nx)
      else
        let uf := if r.1 ≠ 0 ∧ (Nat.log2 r.1 : Int) + qe < emin ∧ !r.2 then flagUF else 0
        let body := if r.1 = 0 then 0 else (qe - (emin - fmM f)).toNat * 2 ^ fmM f + r.1
        ((if n then 2 ^ (fmWidth f - 1) else 0) + body, nx ||| uf)

/-! ### Matrix elements (R113, R115) -/

/-- R113. The value of a block scale byte in the scale format of element format f. -/
def scaleValue (fms : Words) (f : Word) (c : Nat) : FVal :=
  if fmScs f then narrowDecode (fms.get (fmScf f)) c
  else if c = 255 then .nan false
  else .fin false 1 (c - 127)

/-- R115. An exact product of element values; 0 × ∞ is a NaN. DESIGN CHOICE (log 120): so is an infinite element or block sum
times a zero scale (R113). -/
def mulX (a b : FVal) : FVal := (a.mul b).getD (.nan false)

/-- R115. The exact sum of products: −0 when every one is −0, +0 for any other sum of zero. -/
def blockSum (l : List FVal) : FVal :=
  let infs := l.filter FVal.isInf
  if l.any FVal.isNaN || (infs.any FVal.neg && infs.any (fun v => !v.neg)) then .nan false
  else
    match infs with
    | v :: _ => v
    | [] =>
      let r := finSum l
      if r.1 = 0 then .fin (l.all (fun v => v.isZero && v.neg)) 0 0 else .fin (r.1 < 0) r.1.natAbs r.2

/-- R115. One K-block: the accumulator element plus the scaled block sum, rounded once. -/
def accumulate (acc : Word) (p : FVal) : Word :=
  let x := f32.decode acc.toNat
  BitVec.ofNat 32 (f32.sum rne [x, p] [some x, some p]).1

end Sys2Proof.Machine
end

