-- ==== Sys2Proof/Machine/Sfu.lean ====
section
/-!
DEFINITION. The special-function unit (R154, R155): the exact and special cases of each function, correctly rounded
results, and for the other operands a value of the implementation that lies within the bound of the function's row.
Fixed-point numbers have 240 fraction bits.
-/

namespace Sys2Proof.Machine

/-- Fraction bits of the fixed-point numbers. -/
def fixBits : Nat := 240
/-- 2π, ln 2 and log₂ e in fixed point, rounded down. -/
def fixTwoPi : Int := 11101427517448923470466154259574275593670452188976819761925419650816006300
def fixLn2 : Int := 1224685061431752149387114016819916847747660333428801675508466606222838698
def fixLog2e : Int := 2549021498364996158492822670917473327442576334123703768170874065315799874

/-- Integer square root, rounded down, of a number below 2^(2 × (bits + 1)). -/
def isqrtFrom (n : Nat) : Nat → Nat → Nat
  | 0, r => if (r + 1) * (r + 1) ≤ n then r + 1 else r
  | b + 1, r => isqrtFrom n b (if (r + 2 ^ (b + 1)) * (r + 2 ^ (b + 1)) ≤ n then r + 2 ^ (b + 1) else r)
def isqrt (n : Nat) : Nat := isqrtFrom n 330 0

/-- Product of fixed-point numbers. -/
def fixMul (a b : Int) : Int := a * b / 2 ^ fixBits

/-- The sum term + term × g / k + term × g² / (k (k + 1)) + … of `n` terms. -/
def fixSeries (g : Int) : Nat → Nat → Int → Int
  | 0, _, _ => 0
  | n + 1, k, term => term + fixSeries g n (k + 1) (fixMul term g / k)

/-- 2^t for a fixed-point t, as a fixed-point number: the value at scale 2^-240. -/
def fixExp2 (t : Int) : Int :=
  let n := t / 2 ^ fixBits
  let f := t % 2 ^ fixBits
  let v := fixSeries (fixMul f fixLn2) 60 1 (2 ^ fixBits)
  if 0 ≤ n then v * 2 ^ n.toNat else v / 2 ^ (-n).toNat

/-- The fraction bits of log₂ y for a fixed-point y in [1, 2). -/
def fixLogBits : Nat → Int → Int
  | 0, _ => 0
  | n + 1, y =>
    let z := fixMul y y
    if 2 ^ (fixBits + 1) ≤ z then 2 ^ n + fixLogBits n (z / 2) else fixLogBits n z

/-- The alternating series of sine (k = 2) or cosine (k = 1): each term is the last × −x² / (k (k + 1)). -/
def fixTrig (x2 : Int) : Nat → Nat → Int → Int
  | 0, _, _ => 0
  | n + 1, k, term => term + fixTrig x2 n (k + 2) (-(fixMul term x2 / (k * (k + 1))))

/-- A finite value in fixed point, rounded down in magnitude. -/
def fixOf (n : Bool) (m : Nat) (e : Int) : Int :=
  let v : Int := (if 0 ≤ e + fixBits then m * 2 ^ (e + fixBits).toNat else m / 2 ^ (-(e + fixBits)).toNat : Nat)
  if n then -v else v

/-- FP32 bits nearest to a fixed-point number. -/
def fixRound (c : Int) : Nat := (f32.round rne (c < 0) c.natAbs (-(fixBits : Int))).1

/-- One unit in the last place of a fixed-point number as an FP32 magnitude, in fixed point. -/
def fixUlp (c : Int) : Int := 2 ^ (quantum (-126) 23 c.natAbs (-(fixBits : Int)) + fixBits).toNat

/-- R155. The value of the implementation, when it lies within `bound` of a value known as `c` to within `err`; else
the nearest FP32 value. -/
def sfuWithin (fn : Nat) (a : Word) (c err bound : Int) : Word :=
  let v := Config.sfuValue fn a
  match f32.decode v.toNat with
  | .fin n m e => if (fixOf n m e - c).natAbs + err ≤ bound then v else BitVec.ofNat 32 (fixRound c)
  | _ => BitVec.ofNat 32 (fixRound c)

/-- A correctly rounded result (R155): q × 2^-240, where `exact` says nothing was cut off. Flags OF only. -/
def sfuRounded (neg : Bool) (q : Nat) (exact : Bool) : Word × Nat :=
  let r := f32.round rne neg (2 * q + (if exact then 0 else 1)) (-(fixBits : Int) - 1)
  (BitVec.ofNat 32 r.1, r.2 &&& flagOF)

def sfuNaN (fl : Nat) : Word × Nat := (BitVec.ofNat 32 f32.nanBits, fl)
def sfuInf (neg : Bool) (fl : Nat) : Word × Nat := (BitVec.ofNat 32 (f32.infBits neg), fl)
def sfuZero (neg : Bool) : Word × Nat := (BitVec.ofNat 32 (f32.signBit neg), 0)
def sfuOne (neg : Bool) : Word × Nat := (if neg then 0xBF800000#32 else 0x3F800000#32, 0)

/-- m × 2^e is a power of two, and which. -/
def powerOfTwo (m : Nat) (e : Int) : Option Int := if m = 2 ^ Nat.log2 m then some (Nat.log2 m + e) else none

def sfuRcp (n : Bool) (m : Nat) (e : Int) : Word × Nat :=
  if m = 0 then sfuInf n flagDZ
  else
    let num := 2 ^ (fixBits - e).toNat
    sfuRounded n (num / m) (num % m == 0)

def sfuRsq (a : Word) (n : Bool) (m : Nat) (e : Int) : Word × Nat :=
  if m = 0 then sfuInf n flagDZ
  else if n then sfuNaN flagNV
  else
    let c : Int := isqrt (2 ^ (2 * fixBits - e).toNat / m)
    let four := match powerOfTwo m e with | some p => p % 2 == 0 | none => false
    if four then (BitVec.ofNat 32 (fixRound c), 0) else (sfuWithin 1 a c 2 (fixUlp c), 0)

def sfuSqrt (n : Bool) (m : Nat) (e : Int) : Word × Nat :=
  if m = 0 then sfuZero n
  else if n then sfuNaN flagNV
  else
    let x := m * 2 ^ (e + 2 * fixBits).toNat
    let c := isqrt x
    sfuRounded false c (c * c == x)

def sfuExp2 (a : Word) (n : Bool) (m : Nat) (e : Int) : Word × Nat :=
  let t := fixOf n m e
  if 128 * 2 ^ fixBits ≤ t then sfuInf false flagOF
  else if t < -150 * 2 ^ fixBits then sfuZero false
  else
    let c := fixExp2 t
    if t % 2 ^ fixBits = 0 ∧ -149 * 2 ^ fixBits ≤ t then (BitVec.ofNat 32 (fixRound c), 0)
    else (sfuWithin 3 a c (c.natAbs / 2 ^ 200 + 2) (2 * fixUlp c), 0)

def sfuLog2 (a : Word) (n : Bool) (m : Nat) (e : Int) : Word × Nat :=
  if m = 0 then sfuInf true flagDZ
  else if n then sfuNaN flagNV
  else
    let lg := Nat.log2 m
    let c : Int := (lg + e) * 2 ^ fixBits + fixLogBits 100 ((m * 2 ^ (fixBits - lg) : Nat) : Int) * 2 ^ (fixBits - 100)
    match powerOfTwo m e with
    | some p => if p = 0 then sfuZero false else (BitVec.ofNat 32 (fixRound (p * 2 ^ fixBits)), 0)
    | none =>
      let nearOne := m * 2 ^ (e + fixBits).toNat ≤ 2 ^ (fixBits + 1) && 2 ^ (fixBits - 1) ≤ m * 2 ^ (e + fixBits).toNat
      let b := 2 * fixUlp c
      (sfuWithin 4 a c (2 ^ (fixBits - 98)) (if nearOne then max b (2 ^ (fixBits - 22)) else b), 0)

/-- The operand modulo 2π, in fixed point; the error is below 2^-100. -/
def fixAngle (n : Bool) (m : Nat) (e : Int) : Int := fixOf n m e % fixTwoPi

def sfuTrig (fn : Nat) (a : Word) (n : Bool) (m : Nat) (e : Int) : Word × Nat :=
  if m = 0 then (if fn = 5 then sfuZero n else sfuOne false)
  else
    let x := fixAngle n m e
    let x2 := fixMul x x
    let c := if fn = 5 then fixTrig x2 60 2 x else fixTrig x2 60 1 (2 ^ fixBits)
    (sfuWithin fn a c (2 ^ (fixBits - 90)) (2 ^ (fixBits - 20)), 0)

def sfuTanh (a : Word) (n : Bool) (m : Nat) (e : Int) : Word × Nat :=
  let t := fixOf false m e
  if m = 0 then sfuZero n
  else if 9 * 2 ^ fixBits ≤ t then sfuOne n
  else
    let z := fixExp2 (-(2 * fixMul t fixLog2e))
    let p : Int := (2 ^ fixBits - z) * 2 ^ fixBits / (2 ^ fixBits + z)
    let c := if n then -p else p
    (sfuWithin 7 a c (2 ^ (fixBits - 200)) (max (2 * fixUlp c) (2 ^ (fixBits - 24))), 0)

/-- R155. A special function: result and flags. -/
def sfu (fn : Nat) (a : Word) : Word × Nat :=
  match f32.decode a.toNat with
  | .nan s => sfuNaN (if s then flagNV else 0)
  | .inf n =>
    match fn with
    | 0 => sfuZero n
    | 1 => if n then sfuNaN flagNV else sfuZero false
    | 2 => if n then sfuNaN flagNV else sfuInf false 0
    | 3 => if n then sfuZero false else sfuInf false 0
    | 4 => if n then sfuNaN flagNV else sfuInf false 0
    | 7 => sfuOne n
    | _ => sfuNaN flagNV
  | .fin n m e =>
    match fn with
    | 0 => sfuRcp n m e
    | 1 => sfuRsq a n m e
    | 2 => sfuSqrt n m e
    | 3 => sfuExp2 a n m e
    | 4 => sfuLog2 a n m e
    | 7 => sfuTanh a n m e
    | _ => sfuTrig fn a n m e

end Sys2Proof.Machine
end

