-- ==== Sys2Proof/Machine/Flags.lean ====
section
/-!
DEFINITION. The sticky flags (R110 to R112, R126): raising them, waiting for them, and the barrier check.
-/

namespace Sys2Proof.Machine

/-- R112, R126. No flag of an earlier word is still to come: the rod is free and no special function is pending. -/
def Strand.flagsSettled (t : Strand) : Bool := t.rodFree && t.late.all (fun x => !x.sfu || x.delivered)

/-- R111. The word raises flags for a slot or a result. The group keeps those its V word raised. -/
def State.raiseFlags (s : State) (f : Nat) : State :=
  let s := s.modMe (fun t => t.orSf f)
  { s with iss := { s.iss with vflags := s.iss.vflags ||| f } }

/-- R110, R111. A USW to SF: the value, with the flags that the group's other word raises. -/
def State.setSf (s : State) (v : Word) : State :=
  s.modMe (fun t => { t with sf := v ||| BitVec.ofNat 32 s.iss.vflags })

/-- R110. SAT of SF and of SFARM. -/
def satBit (w : Word) : Bool := w.getLsbD 5

/-- R112. The saturation trap is armed and due. -/
def Strand.satPending (t : Strand) : Bool := satBit t.sf && satBit t.sfarm

/-- The rounding mode of a word with the draw of a slot (R38, R103). -/
def modeOf (rm w : Nat) (draw : Word) : RMode :=
  { mode := rm, d := if w = 16 then draw.toNat % 2 ^ 16 else draw.toNat, w := w }
/-- The mode of the upper lane of a packed word. -/
def modeHi (rm : Nat) (draw : Word) : RMode := { mode := rm, d := draw.toNat / 2 ^ 16, w := 16 }

end Sys2Proof.Machine
end

