-- ==== Sys2Proof/Machine/Operands.lean ====
section
/-!
DEFINITION. Operands of words: the uniform register fields with UPFX (R39 to R41, R45, R119, R123), the vector source
and destination codes (R42 to R44), widths (R41), and the issue conditions that the registers of a word set (R68, R74 to
R76).
-/

namespace Sys2Proof.Machine

/-! ### Prefix fields -/

def VPfx.isZero (p : VPfx) : Bool := p == .zero
def UPfx.zero : UPfx := { xd := 0, xa := 0, xb := 0, w := 0, imm := 0 }
/-- The VPFX of the word under execution; without one, all fields are zero (R37). -/
def State.vp (s : State) : VPfx := s.iss.vp.getD .zero
/-- The UPFX of the word under execution. -/
def State.up (s : State) : UPfx := s.iss.up.getD .zero
/-- Registers that a width code covers (R41). -/
def wcount (w : BitVec 2) : Nat := 2 ^ w.toNat

/-! ### Uniform operands -/

/-- The register a field names, with its extension bits (R36, R39). -/
def ureg (x : BitVec 2) (f : BitVec 8) : Nat := x.toNat * 256 + f.toNat

/-- R41, R45. A group of n registers from r is aligned and allotted. -/
def Strand.uGroupOk (t : Strand) (r n : Nat) : Bool := r % n == 0 && t.uOk r n

/-- R75. The word waits for the uniform registers of these groups. -/
def State.holdU (s : State) (regs : List (Nat × Nat)) : State := s.holdData (regs.flatMap (fun r => s.old.idsU r.1 r.2))

/-- The common course of a U word: its operand groups are checked and then waited for (R75), and it is charged the
uniform-word weight (R122). `ok` is its own encoding check, and `priv` says that it is privileged here (R57 item 4). -/
def State.uWord (s : State) (ok : Bool) (regs : List (Nat × Nat)) (k : State → State) (priv : Bool := false) : State :=
  if !ok || regs.any (fun r => !s.old.uGroupOk r.1 r.2) then s.enc .illegalOperand
  else if priv then s.enc .priv
  else if regs.any (fun r => s.old.pendsU r.1 r.2) then s.holdU regs
  else k (s.raw 1 1)

/-- A 32-bit or 64-bit uniform operand. -/
def State.uval (s : State) (r n : Nat) : DWord := if n = 1 then (s.u r).setWidth 64 else s.u2 r
/-- Write a 32-bit or 64-bit uniform result. -/
def State.setUval (s : State) (r n : Nat) (v : DWord) : State := if n = 1 then s.setU r (loWord v) else s.setU2 r v

/-! ### Vector source operands -/

/-- A vector source operand (R42). -/
inductive VSrc where
  | reg (r n : Nat)
  | latch (l : Nat)
  | cy
  | slot
  | const (v : Word)
  | uni (r n : Nat)
  deriving DecidableEq, Repr

/-- R42. The inline constants. -/
def inlineInt (i : Nat) : Word :=
  match i with
  | 9 => 16 | 10 => 32 | 11 => 64 | 12 => 128 | 13 => 256 | 14 => 0xFFFFFFFF#32 | 15 => 0xFFFFFFFE#32
  | n => BitVec.ofNat 32 n
def inlineFloat (i : Nat) : Word :=
  match i with
  | 0 => 0x3F000000#32 | 1 => 0x3F800000#32 | 2 => 0x40000000#32 | 3 => 0x40800000#32
  | 4 => 0xBF000000#32 | 5 => 0xBF800000#32 | 6 => 0xC0000000#32 | _ => 0xC0800000#32

/-- R41, R42. The operand of a code and a width code; `none` is an illegal code or width. -/
def vSrcOf (lit : Word) (code : BitVec 8) (w : BitVec 2) : Option VSrc :=
  let c := code.toNat
  if c < 0x80 then some (.reg c (wcount w))
  else if 0xC0 ≤ c then some (.uni (c - 0xC0) (wcount w))
  else if w ≠ 0 then none
  else if c < 0x84 then some (.latch (c - 0x80))
  else if c = 0x84 then some .cy
  else if c = 0x85 then some .slot
  else if 0xA0 ≤ c ∧ c < 0xB0 then some (.const (inlineInt (c - 0xA0)))
  else if 0xB0 ≤ c ∧ c < 0xB8 then some (.const (inlineFloat (c - 0xB0)))
  else if c = 0xBF then some (.const lit)
  else none

/-- R41. The operand's registers are aligned and allotted. -/
def Strand.vSrcOk (t : Strand) : VSrc → Bool
  | .reg r n => r % n == 0 && r + n ≤ t.info.vrows
  | .uni r n => t.uGroupOk r n
  | _ => true

/-- R138. Registers of v0 to v15 and of v16 upwards that a group of n registers from r covers. -/
def opFileOf (r n : Nat) : Nat := min (r + n) 16 - min r 16
def mainFileOf (r n : Nat) : Nat := n - opFileOf r n
/-- Operand accesses of a source in one slot. -/
def VSrc.accesses : VSrc → Nat × Nat
  | .reg r n => (opFileOf r n, mainFileOf r n)
  | _ => (0, 0)

/-- Register i of an operand for slot k, read from a strand (R138, VRead); `carry` is the value of `cy`. -/
def Strand.vRead (t : Strand) (carry : Word) (x : VSrc) (k i : Nat) : Word :=
  match x with
  | .reg r _ => t.vreg (r + i) k
  | .latch l => t.latch l k
  | .cy => carry
  | .slot => BitVec.ofNat 32 k
  | .const v => v
  | .uni r _ => t.uregs.get (r + i)

/-- An operand of one or two registers as a 64-bit value. -/
def Strand.vVal (t : Strand) (carry : Word) (x : VSrc) (k : Nat) : DWord :=
  match x with
  | .reg _ 2 | .uni _ 2 => dword (t.vRead carry x k 0) (t.vRead carry x k 1)
  | _ => (t.vRead carry x k 0).setWidth 64

/-- R75. A source's registers are pending. -/
def Strand.vSrcPends (t : Strand) : VSrc → Bool
  | .reg r n => t.pendsV r n
  | .uni r n => t.pendsU r n
  | _ => false

/-! ### Vector destinations -/

/-- R43. A destination code: N and the register. -/
def dstN (d : BitVec 8) : Bool := d.getLsbD 7
def dstReg (d : BitVec 8) : Nat := d.toNat % 128
/-- R41, R43. The destination is legal for n registers; `latched` says that the word may have N = 1. -/
def Strand.vDstOk (t : Strand) (d : BitVec 8) (n : Nat) (latched : Bool) : Bool :=
  if dstN d then latched && dstReg d == 0 && n == 1 else dstReg d % n == 0 && dstReg d + n ≤ t.info.vrows

/-! ### Issue of a V word -/

/-- The active mask of the word under execution (R18). -/
def State.active (s : State) : Word := s.mask 0 &&& s.mask s.vp.msk.toNat

/-- R74. Late results that the word must wait for. -/
def Strand.lateWaits (t : Strand) : Bool := t.late.any (fun x => lateDue (t.vseq + 1) x && !x.delivered)

/-- R71, R74. The strand as a V word of the next serial number finds it: results that are due have committed. -/
def Strand.vEnter (t : Strand) : Strand :=
  let t' := t.commitLate (lateDue (t.vseq + 1))
  { t' with vseq := t.vseq + 1 }

/-- R68. A V word takes the rod until V_WORD_COMPLETION. -/
def State.takeRod (s : State) (i : Instr) (active : Word) (mask : Option Nat) : State :=
  let t := s.me
  let f : Flight :=
    { instr := i, vp := s.vp, pc := s.iss.pc, widx := s.iss.wpos, gwidx := s.iss.widx, lit := s.iss.lit,
      active := active, cursor := 0, uni := s.old.uregs, fmt := s.old.fm, bvals := [], wins := [], seq := t.vseq, group := t.groups + 1, hgroup := t.hgroups,
      stop := .ran, waited := s.iss.waited, mask := mask, mark := s.nextId }
  (s.modMe (fun t => { t with flight := some f })).due (.vWordCompletion s.iss.g)

/-- R290. In a trap handler, a register that is pending on a word held behind a suspended MMA. -/
def State.heldPends (s : State) (g r n : Nat) : Bool :=
  let t := s.strand g
  let ids := (s.quarter (quarterOf g)).tiles.flatMap (fun x => if x.2.susp.isSome then x.2.heldWords.map (·.id) else [])
  t.trap.inHandler && t.pendV.any (fun x => r ≤ x.1 && x.1 < r + n && ids.contains x.2.2)

/-- The vector registers that sources name. -/
def vSrcRegs (srcs : List VSrc) : List (Nat × Nat) :=
  srcs.filterMap (fun x => match x with | .reg r n => some (r, n) | _ => none)
/-- The uniform registers that sources name. -/
def uSrcRegs (srcs : List VSrc) : List (Nat × Nat) :=
  srcs.filterMap (fun x => match x with | .uni r n => some (r, n) | _ => none)

/-- R75, R290. A word whose registers are pending waits; in a handler, one that could only wait for ever faults. -/
def State.pendHold (s : State) (srcs : List VSrc) (dst : List (Nat × Nat)) : State :=
  let regs := vSrcRegs srcs ++ dst
  if regs.any (fun r => s.heldPends s.iss.g r.1 r.2) then s.trap { cause := .illegalOperand }
  else s.holdData (regs.flatMap (fun r => s.old.idsV r.1 r.2) ++ (uSrcRegs srcs).flatMap (fun r => s.old.idsU r.1 r.2))

/-- The common course of a V word that runs without a stop: its own check and its registers' (R41 to R44), the rod
(R68), the scoreboard (R75) and late results (R74). The continuation gets the strand as the word reads it. -/
def State.vWord (s : State) (ok : Bool) (srcs : List VSrc) (dst : Option (Nat × Nat)) (k : Strand → State → State) :
    State :=
  let t := s.old
  if !ok || srcs.any (fun x => !t.vSrcOk x) then s.enc .illegalOperand
  else if !t.rodFree then s.hold .rod
  else if srcs.any t.vSrcPends || (match dst with | some (r, n) => t.pendsV r n | none => false) then s.pendHold srcs dst.toList
  else if t.lateWaits then s.hold .lateResult
  else k (t.commitLate (lateDue (t.vseq + 1))) (s.modMe Strand.vEnter)

/-- R160. A word's draws advance the counter. DESIGN CHOICE (log 139): beside a write of a key register in the same group, which
zeroes the counter (R125), the zero stands; no rule says which of the two writes does. -/
def State.setRngCtr (s : State) (c : DWord) : State := if s.iss.keyed then s else s.modMe (fun t => { t with rngCtr := c })

/-- R138. Charge n slots of a word: its class and its operand accesses. -/
def State.vCharge (s : State) (cls n : Nat) (acc : List (Nat × Nat)) : State :=
  let op := (acc.map (·.1)).foldl (· + ·) 0
  let mf := (acc.map (·.2)).foldl (· + ·) 0
  ((s.raw cls n).raw 5 (n * op)).raw 6 (n * mf)

/-- Accesses of a destination of n registers (R138). -/
def dstAccesses (d : BitVec 8) (n : Nat) : Nat × Nat :=
  if dstN d then (0, 0) else (opFileOf (dstReg d) n, mainFileOf (dstReg d) n)

/-- Live slots outside a mask (R69). -/
def Strand.inactive (t : Strand) (active : Word) : List Nat := slotsOf (t.info.live &&& ~~~active)

end Sys2Proof.Machine
end

