-- ==== Sys2Proof/Machine/Alu.lean ====
section
/-!
DEFINITION. Integer results at width w (R127, R129, R130, R141, R142, R146): what the uniform and the vector words
compute alike.
-/

namespace Sys2Proof.Machine

/-- A result function of two operands at any width. -/
abbrev Alu2 := (w : Nat) → BitVec w → BitVec w → BitVec w
/-- A result function of one operand at any width. -/
abbrev Alu1 := (w : Nat) → BitVec w → BitVec w

def aluAdd : Alu2 := fun _ a b => a + b
def aluSub : Alu2 := fun _ a b => a - b
def aluMul : Alu2 := fun _ a b => a * b
def aluMulhI : Alu2 := fun w a b => BitVec.ofInt w (a.toInt * b.toInt / 2 ^ w)
def aluMulhN : Alu2 := fun w a b => BitVec.ofNat w (a.toNat * b.toNat / 2 ^ w)
def aluAnd : Alu2 := fun _ a b => a &&& b
def aluOr : Alu2 := fun _ a b => a ||| b
def aluXor : Alu2 := fun _ a b => a ^^^ b
def aluAndn : Alu2 := fun _ a b => a &&& ~~~b
/-- The shifts read b as an unsigned count; a count of w or more shifts everything out. -/
def aluShl : Alu2 := fun w a b => if w ≤ b.toNat then 0 else a <<< b.toNat
def aluShr : Alu2 := fun w a b => if w ≤ b.toNat then 0 else a >>> b.toNat
def aluSar : Alu2 := fun w a b => if w ≤ b.toNat then (if a.msb then BitVec.allOnes w else 0) else a.sshiftRight b.toNat
def aluMinI : Alu2 := fun _ a b => if b.slt a then b else a
def aluMinN : Alu2 := fun _ a b => if b < a then b else a
def aluMaxI : Alu2 := fun _ a b => if a.slt b then b else a
def aluMaxN : Alu2 := fun _ a b => if a < b then b else a
def aluSltI : Alu2 := fun _ a b => if a.slt b then 1 else 0
def aluSltN : Alu2 := fun _ a b => if a < b then 1 else 0
def aluSeq : Alu2 := fun _ a b => if a = b then 1 else 0

def aluClz : Alu1 := fun w a => BitVec.ofNat w (if a = 0 then w else w - 1 - Nat.log2 a.toNat)
def aluPopc : Alu1 := fun w a => BitVec.ofNat w (popCount a)
def aluBrev : Alu1 := fun _ a => a.reverse
def aluSext8 : Alu1 := fun w a => (a.setWidth 8).signExtend w
def aluSext16 : Alu1 := fun w a => (a.setWidth 16).signExtend w
def aluNeg : Alu1 := fun _ a => 0 - a
def aluAbs : Alu1 := fun _ a => if a.msb then 0 - a else a
def aluMov : Alu1 := fun _ a => a

/-- R130. The position and the effective length of a field control word. -/
def fieldPos (c : Word) : Nat := bitsOf c.toNat 4 0
def fieldLen (c : Word) : Nat := min (bitsOf c.toNat 13 8) (32 - fieldPos c)
/-- R130. Extract a field, with the sign when SX is set. -/
def bitExtract (a c : Word) : Word :=
  let l := fieldLen c
  let f := a.toNat / 2 ^ fieldPos c % 2 ^ l
  if l = 0 then 0 else if c.getLsbD 16 then BitVec.ofInt 32 (signedOf l f) else BitVec.ofNat 32 f
/-- R130. Insert the low bits of a into a field of d. -/
def bitInsert (d a c : Word) : Word :=
  let m := BitVec.ofNat 32 ((2 ^ fieldLen c - 1) * 2 ^ fieldPos c)
  (d &&& ~~~m) ||| ((a <<< fieldPos c) &&& m)

/-- R52, R144. An integer condition on two registers. -/
def intCond (signed : Bool) (cond : Nat) (a b : Word) : Bool :=
  let lt := if signed then a.slt b else a < b
  match cond with
  | 0 => a == b
  | 1 => a != b
  | 2 => lt
  | 3 => lt || a == b
  | 4 => !(lt || a == b)
  | _ => !lt

end Sys2Proof.Machine
end

