-- ==== Sys2Proof/Machine/SpadSteps.lean ====
section
/-!
DEFINITION. The indivisible steps at scratchpad banks: loads, stores, atomics, full/empty steps (R169, R173, R174,
R180 to R184) and byte barriers (R312, R313), and the operations of R53.
-/

namespace Sys2Proof.Machine

/-- R53, R181. The operation of an atomic word on an old value and the value in. -/
def atomOp (op : Nat) (old v : Word) : Word :=
  match op with
  | 0 => old + v
  | 1 => aluMinI 32 old v
  | 2 => aluMaxI 32 old v
  | 3 => aluMinN 32 old v
  | 4 => aluMaxN 32 old v
  | 5 => old &&& v
  | 6 => old ||| v
  | 7 => old ^^^ v
  | 8 => v
  | 9 => BitVec.ofNat 32 (f32.add rne old.toNat v.toNat).1
  | 10 => (minMax false old v).1
  | _ => (minMax true old v).1

/-! ### Byte barriers (R312) -/

/-- The fields of a byte barrier. -/
structure ByteBar where
  expect : Nat
  arrived : Nat
  reload : Nat
  phase : Bool
  ovf : Bool
  deriving DecidableEq, Repr

def CoreSt.byteBar (c : CoreSt) (o : Nat) : ByteBar :=
  let v := leNat (c.readSp o 16)
  { expect := bitsOf v 31 0, arrived := bitsOf v 63 32, reload := bitsOf v 95 64, phase := bitsOf v 96 96 == 1,
    ovf := bitsOf v 127 127 == 1 }

def CoreSt.setByteBar (c : CoreSt) (o : Nat) (b : ByteBar) : CoreSt :=
  c.writeSp o (natLe 16 (b.expect + b.arrived * 2 ^ 32 + b.reload * 2 ^ 64 + (if b.phase then 2 ^ 96 else 0)
    + (if b.ovf then 2 ^ 127 else 0)))

/-- Settle. Its first round uses EXPECT and every later one RELOAD, so the later rounds are a division. -/
def ByteBar.settle (b : ByteBar) : ByteBar :=
  if b.expect = 0 ∨ b.arrived < b.expect then b
  else
    let left := b.arrived - b.expect
    let more := if b.reload = 0 then 0 else left / b.reload
    { b with arrived := left - more * b.reload, expect := b.reload,
             phase := if more % 2 = 0 then !b.phase else b.phase }

/-- An addition of a barrier step saturates and sets OVF. -/
def satAdd32 (a v : Nat) : Nat × Bool := if 2 ^ 32 ≤ a + v then (2 ^ 32 - 1, true) else (a + v, false)

/-- R313. A barrier step by its function code: 0 init, 1 expect, 2 arrive or credit. Others change nothing. -/
def ByteBar.step (b : ByteBar) (fn : Nat) (v : Word) : ByteBar :=
  match fn with
  | 0 => { expect := v.toNat, arrived := 0, reload := v.toNat, phase := false, ovf := false }
  | 1 => let r := satAdd32 b.expect v.toNat; ({ b with expect := r.1, ovf := b.ovf || r.2 } : ByteBar).settle
  | 2 => let r := satAdd32 b.arrived v.toNat; ({ b with arrived := r.1, ovf := b.ovf || r.2 } : ByteBar).settle
  | _ => b

/-- R313. What BBTEST returns. -/
def ByteBar.test (b : ByteBar) : Word :=
  BitVec.ofNat 32 ((if b.phase then 1 else 0) + 2 * (if b.arrived < b.expect then min (b.expect - b.arrived) 0x7FFFFFFF else 0))

/-! ### Steps -/

/-- One step at the banks from core offset `o`: the core after it and the bytes it returns, or `none` when a full/empty
step finds the bit in the wrong state. -/
def CoreSt.spStep (c : CoreSt) (o : Nat) : SpOp → Option (CoreSt × List Byte)
  | .load n => some (c, c.readSp o n)
  | .store d => some (c.writeSp o d, [])
  | .atom op v =>
    let old := c.readSp o 4
    some (c.writeSp o (bytesOfWord (atomOp op (wordOfBytes old) v)), old)
  | .cas cmp new =>
    let old := c.readSp o cmp.length
    some (if old = cmp then c.writeSp o new else c, old)
  | .ldfe => if c.full o then some (c.setFull o false, c.readSp o 4) else none
  | .stef v => if c.full o then none else some ((c.writeSp o (bytesOfWord v)).setFull o true, [])
  | .feSet b => some (c.setFull o b, [])
  | .feGet => some (c, bytesOfWord (if c.full o then 1 else 0))
  | .bb 4 _ => some (c, bytesOfWord (c.byteBar o).test)
  | .bb fn v => some (c.setByteBar o ((c.byteBar o).step fn v), [])

/-- R174, R313. Strands whose awaited bit or phase now stands: the event that wakes them is due. -/
def State.wakeSpad (s : State) (core o : Nat) (op : SpOp) : State :=
  let c := s.core core
  s.strands.foldl (fun s x => x.2.waitList.foldl (fun s w =>
    match w, op with
    | .fullEmpty c' o' b, .ldfe | .fullEmpty c' o' b, .stef _ | .fullEmpty c' o' b, .feSet _ =>
      if c' = core ∧ o' = o ∧ c.full o = b then s.dueOnce (.fullEmptyWake x.1) else s
    | .byteBarrier c' o' p, .bb _ _ =>
      if c' = core ∧ o' = o ∧ (c.byteBar o).phase = p then s.dueOnce (.byteBarrierWake x.1) else s
    | _, _ => s) s) s

/-- R238, R314. A barrier step that flips the phase is a release of its core, or of the die when another core's agent made
it; the scope stands for those who observe the phase. BBINIT is relaxed. -/
def CoreSt.markFlip (c0 c : CoreSt) (o : Nat) (op : SpOp) (far : Bool) : CoreSt :=
  match op with
  | .bb 0 _ => { c with bbFar := c.bbFar.filter (· != o) }
  | .bb _ _ =>
    if (c0.byteBar o).phase = (c.byteBar o).phase then c
    else { c with bbFar := (if far then [o] else []) ++ c.bbFar.filter (· != o) }
  | _ => c

/-- R169. Perform a step at a core's banks; `far` says that an agent of another core makes it. -/
def State.spPerform (s : State) (core o : Nat) (op : SpOp) (far : Bool := false) : Option (State × List Byte) :=
  ((s.core core).spStep o op).map (fun r =>
    ((s.setCore core ((s.core core).markFlip r.1 o op far)).wakeSpad core o op, r.2))

/-! ### Remote messages (R171) -/

/-- Messages of a strand that have not been performed at a core other than `core`. -/
def State.remoteElsewhere (s : State) (g core : Nat) : Bool :=
  s.cores.any (fun x => x.1 != core && x.2.remote.any (fun m => m.work.g == g))
/-- R186. An access of the strand at a core may go now: its messages to other cores have been performed. -/
def State.spadOrder (s : State) (g core : Nat) : Bool := !s.remoteElsewhere g core

/-- Send a message to a core, charged as scratchpad and remote message. -/
def State.sendRemote (s : State) (g core k off : Nat) (op : SpOp) (dest : SpDest) : State :=
  let w := s.workOf g
  let s := s.land w [(9, 1, uDom (dieOfCore core))]
  (s.modCore core (fun c => { c with remote := c.remote ++ [{ work := w, k := k, off := off, op := op, dest := dest }] })).due
    (.remoteMessage core)

/-- R171. A core takes no more messages. -/
def State.remoteFull (s : State) (core : Nat) : Bool := 64 ≤ (s.core core).remote.length

end Sys2Proof.Machine
end

