-- ==== Sys2Proof/Machine/Mem.lean ====
section
/-!
DEFINITION. Global data below the words: the L1 (R207, R227, R228), the store queue and the SFRQ (R202 to R206, R210), the
combining buffer (R211 to R213), outstanding loads (R208, R216, R222), the hold buffer (R257, R258), granules (R250, R254
to R256, R260), and the waits of releases and acquires (R206, R234).
-/

namespace Sys2Proof.Machine

/-! ### Ranges -/

/-- Two ranges of physical addresses share a byte. -/
def paMeet (p : PAddr) (n : Nat) (q : PAddr) (m : Nat) : Bool := p.host == q.host && rangesMeet p.addr n q.addr m

/-- The incarnation that did the work is still the strand in its slot. -/
def State.liveWork (s : State) (w : Work) : Bool := (s.strand w.g).resident && (s.strand w.g).inc == w.inc

/-! ### L1 (R207, R227) -/

/-- Lines of an L1. -/
def l1Lines : Nat := 4096

/-- Put a line first in the L1 of a core. -/
def State.l1Put (s : State) (core : Nat) (l : L1Line) : State :=
  s.modCore core (fun c => { c with l1 := (l :: c.l1.filter (fun x => x.pa != l.pa)).take l1Lines })
/-- R227. Discard a line from the L1 of a core. -/
def State.l1Drop (s : State) (core : Nat) (p : PAddr) : State :=
  s.modCore core (fun c => { c with l1 := c.l1.filter (fun x => x.pa != p.line) })
/-- R234. Discard every line of a context from the L1 of a core. -/
def State.l1DropCtx (s : State) (core ctx : Nat) : State :=
  s.modCore core (fun c => { c with l1 := c.l1.filter (fun x => x.ctx != ctx) })
/-- R227. A translated store updates a line that is present. -/
def State.l1Store (s : State) (core : Nat) (p : PAddr) (d : List Byte) : State :=
  s.modCore core (fun c => { c with l1 := c.l1.map (fun x =>
    if x.pa = p.line then
      { x with data := x.data.take (p.addr % 64) ++ d ++ x.data.drop (p.addr % 64 + d.length) }
    else x) })

/-! ### What a core's loads see -/

/-- The byte that an entry stores at an address, once it is translated. -/
def SqEntry.byteAt (e : SqEntry) (p : PAddr) : Option Byte :=
  match e.pa with
  | none => none
  | some q => if q.host = p.host ∧ q.addr ≤ p.addr then e.data[p.addr - q.addr]? else none

/-- R227. The newest translated store of the core to a byte. -/
def CoreSt.sqByte (c : CoreSt) (p : PAddr) : Option Byte := c.sq.reverse.findSome? (fun e => e.byteAt p)
/-- R244. The strand's held byte. -/
def Strand.heldByte (t : Strand) (p : PAddr) : Option Byte :=
  t.aset.lines.findSome? (fun l => if l.line = p.addr / 64 ∧ l.host = p.host then Assoc.find? l.bytes (p.addr % 64) else none)

/-- n bytes as loads of a core see them above a base: translated stores of the core stand before it. -/
def State.coreBytes (s : State) (core : Nat) (p : PAddr) (base : List Byte) : List Byte :=
  base.zipIdx.map (fun x => ((s.core core).sqByte (p.plus x.2)).getD x.1)
/-- The bytes at the home slice, beneath the core's translated stores. -/
def State.homeBytes (s : State) (core : Nat) (p : PAddr) (n : Nat) : List Byte := s.coreBytes core p (s.memBytes p n)
/-- The strand's held bytes stand before all (R257). -/
def State.ownBytes (s : State) (g : Nat) (p : PAddr) (base : List Byte) : List Byte :=
  base.zipIdx.map (fun x => ((s.strand g).heldByte (p.plus x.2)).getD x.1)

/-! ### Loads (R208, R216, R222, R228) -/

/-- DESIGN CHOICE (log 140): the core's translated stores stand before the bytes of a load that is performed at the home slice
(R228) too, as R227 says of every load of the core.
Read the bytes of a load: from the L1, or from the home slice with the L1 filled. A VLDPK fills no L1 (R273); the
line is replaced there, so that no later load of the core reads an older write (R226). -/
def State.readLoad (s : State) (r : LoadReq) : State × List Byte :=
  let core := coreOf r.work.g
  if r.raw then (s.l1Drop core r.pa, s.homeBytes core r.pa r.n)
  else
    let hit := if r.home then none else (s.core core).l1.find? (fun x => x.pa == r.pa.line)
    let data := match hit with | some l => l.data | none => s.homeBytes core r.pa.line 64
    let s := s.l1Put core { pa := r.pa.line, ctx := r.work.ctx, data := data }
    let b := s.coreBytes core r.pa ((data.drop (r.pa.addr % 64)).take r.n)
    (s, if s.liveWork r.work then s.ownBytes r.work.g r.pa b else b)

/-- Bind the loads that meet a test, oldest first. -/
def State.bindWhere (s : State) (p : LoadReq → Bool) : State :=
  s.loads.foldl (fun s r =>
    if r.data.isNone && !r.remote && p r then
      let x := s.readLoad r
      { x.1 with loads := updWhere (fun y => y.id == r.id) (fun y => { y with data := some x.2 }) x.1.loads }
    else s) s

/-- R222. The strand's outstanding loads of overlapping bytes return what stands before a later write of the strand. -/
def State.bindOverlap (s : State) (g : Nat) (p : PAddr) (n : Nat) : State :=
  s.bindWhere (fun r => r.work.g == g && paMeet r.pa r.n p n)

/-- R222, R225, R226. A load returns its bytes; an earlier load of the strand of an overlapping byte, and the lower slots of
its word, have returned before it. -/
def State.bindLoad (s : State) (r : LoadReq) : State :=
  s.bindWhere (fun x => x.id ≤ r.id && x.work.g == r.work.g
    && (paMeet x.pa x.n r.pa r.n || (x.word != 0 && x.word == r.word && x.work == r.work)))

/-- R225. The loads that a V word of the strand has made return their bytes. -/
def State.bindWord (s : State) (g seq : Nat) : State :=
  s.bindWhere (fun x => x.word == seq + 1 && x.work == s.workOf g)

/-- R208. Charge a load's L1 accesses and its trip to the home slice. -/
def State.chargeLoad (s : State) (r : LoadReq) : State :=
  let x := if r.trip then s.lineAccess r.work (dieOf r.work.g) r.pa false false else (s, [])
  let s := if r.trip then x.1.countEv (coreOf r.work.g) 0x04 r.work.ctx 1 else x.1
  s.land r.work ((if r.l1 = 0 then [] else [(10, r.l1, qDom r.work.q)]) ++ x.2)

/-- R75, R216. Start a load: its destination registers are pending, and its completion is on its way; that of a remote
scratchpad load comes with the reply. -/
def State.startLoad (s : State) (r : LoadReq) : State :=
  let r := { r with id := s.nextId }
  let m := r.n / 4
  let s := s.modStrand r.work.g (fun t =>
    if r.uni then { t with pendU := t.pendU ++ (List.range m).map (fun i => (r.reg + i, r.id)) }
    else { t with pendV := t.pendV ++ (List.range m).map (fun i => (r.reg + i, r.slot, r.id)) })
  let s := ({ s with loads := s.loads ++ [r] } : State).takeId
  if r.remote then s else s.due (.globalLoadCompletion r.id)

/-- R82. A strand Parked for a page, a granule or a reply goes on, unless its V word still stands for one; its next group waits
again if need be. -/
def Strand.unpark (t : Strand) : Strand :=
  if t.wait ≠ .group || t.flight.any (fun f => f.stop == .pageWait || f.stop == .granWait) then t
  else
    match t.state with
    | .parked | .held | .halted => { t.become .ready with wait := .nothing }
    | _ => t

/-! ### The combining buffer (R211 to R213) -/

/-- Land the translated stores of a core to a line, oldest first, up to a serial number: the bytes reach the home slice
and each entry of R210 is charged once. The core's L1 has them in the same order (R226, R227). -/
def State.landLine (s : State) (core : Nat) (line : PAddr) (upTo : Nat) : State :=
  let go (e : SqEntry) : Bool := e.id ≤ upTo && (match e.pa with | some p => p.line == line | none => false)
  let es := (s.core core).sq.filter go
  let keys := (es.map (fun e => (e.work, e.window))).eraseDups
  let s := keys.foldl (fun s k =>
    let bytes := (es.filter (fun e => e.work == k.1 && e.window == k.2)).flatMap (fun e =>
      match e.pa with | some p => (List.range e.data.length).map (fun i => p.addr % 64 + i) | none => [])
    s.chargeLine k.1 (dieOfCore core) line true (bytes.eraseDups.length == 64)) s
  let s := es.foldl (fun s e => match e.pa with | some p => (s.memWrite p e.data).l1Store core p e.data | none => s) s
  s.modCore core (fun c => { c with sq := c.sq.filter (fun e => !go e) })

/-- R211. One value of an entry is applied at its home slice, as one atomic step. The core's own earlier stores to the
line are there before it, and the line leaves the core's L1 (R227). -/
def State.flushValue (s : State) (core : Nat) (e : CbEntry) (v : Nat × Word) : State :=
  let s := s.landLine core e.pa s.nextId
  let p := e.pa.plus (4 * v.1)
  (s.memWrite p (bytesOfWord (atomOp e.op (wordOfBytes (s.memBytes p 4)) v.2))).l1Drop core e.pa

/-- R211. The values of an entry are applied in ascending word order; then it is charged and free. -/
def State.flushEntry (s : State) (core : Nat) (e : CbEntry) : List (Nat × Word) → State
  | [] => (s.chargeLine e.work (dieOfCore core) e.pa true false).modCore core (fun c =>
      { c with cb := c.cb.filter (fun x => x.id != e.id) })
  | v :: l => (s.flushValue core e v).flushEntry core e l

/-- R211, R242. One step of a flush under way: the lowest value that is left is applied. -/
def State.flushStep (s : State) (core id : Nat) : State :=
  match (s.core core).cb.find? (fun e => e.id == id) with
  | none => s
  | some e =>
    match e.vals with
    | [] | [_] => s.flushEntry core e e.vals
    | v :: l =>
      ((s.flushValue core e v).modCore core (fun c =>
        { c with cb := updWhere (fun x => x.id == id) (fun x => { x with vals := l }) c.cb })).dueFirst (.combiningFlushApplied core id)

/-- The entries of a core that meet a test are flushed to the end. -/
def State.flushNow (s : State) (core : Nat) (p : CbEntry → Bool) : State :=
  ((s.core core).cb.filter p).foldl (fun s e => s.flushEntry core e e.vals) s

/-- The entries of a context for a line are flushed to the end. -/
def State.flushLine (s : State) (core ctx : Nat) (p : PAddr) : State :=
  s.flushNow core (fun e => e.work.ctx == ctx && e.pa == p.line)

/-- R212. The entries that meet a test are flushed, and what follows waits until the flushes have been applied: the
answer says that it must. -/
def State.flushFirst (s : State) (core : Nat) (p : CbEntry → Bool) : State × Bool :=
  (s.flushCb core p, (s.core core).cb.any p)

/-- R212. An access of a context touches a line: its entries for the line are flushed first. -/
def State.lineBusy (s : State) (core ctx : Nat) (p : PAddr) : State × Bool :=
  s.flushFirst core (fun e => e.work.ctx == ctx && e.pa == p.line)

/-- R211. A relaxed reduction finds an entry that it can merge into, or a free one: entries that stand in its way are
flushed first, and the answer says that it waits. -/
def State.combineRoom (s : State) (w : Work) (p : PAddr) (op : Nat) : State × Bool :=
  let c := s.core (coreOf w.g)
  let mine (e : CbEntry) : Bool := e.work.ctx == w.ctx && e.pa == p.line
  let r := s.flushFirst (coreOf w.g) (fun e => mine e && (e.op != op || e.flushing))
  if r.2 then r
  else if c.cb.any mine || c.cb.length < 128 then (s, false)
  else (s.flushCb (coreOf w.g) (fun e => c.cb.head?.any (fun o => o.id == e.id)), true)

/-- R211. A relaxed reduction merges into the combining buffer, which has room for it. -/
def State.combine (s : State) (w : Work) (p : PAddr) (op : Nat) (v : Word) : State :=
  let core := coreOf w.g
  let wi := p.addr % 64 / 4
  match (s.core core).cb.find? (fun e => e.work.ctx == w.ctx && e.pa == p.line) with
  | some e =>
    let nv := match e.vals.find? wi with | some o => atomOp op o v | none => v
    s.modCore core (fun c => { c with cb := updWhere (fun x => x.id == e.id) (fun x => { x with vals := x.vals.insert wi nv }) c.cb })
  | none =>
    (s.modCore core (fun c => { c with cb := c.cb ++
      [{ id := s.nextId, work := w, pa := p.line, op := op, vals := [(wi, v)], flushing := false }] })).takeId

/-! ### Atomic steps at the home slice (R219 to R221) -/

/-- One atomic step: earlier stores of the core to the line have landed, earlier loads of the strand have returned, and
the line leaves the core's L1 (R227). `f` gives the new bytes from the old. -/
def State.homeAtomic (s : State) (g : Nat) (p : PAddr) (n : Nat) (f : List Byte → List Byte) : State × List Byte :=
  let core := coreOf g
  let ctx := (s.strand g).info.ctx
  let s := ((s.flushLine core ctx p).landLine core p.line s.nextId).bindOverlap g p n
  let old := s.memBytes p n
  ((s.memWrite p (f old)).l1Drop core p, old)

/-! ### The hold buffer (R257, R258, R260) -/

/-- R260. The overflow that one more hold-buffer line would be. -/
def State.holdRoom (s : State) (g : Nat) : Option Nat :=
  let t := s.strand g
  if 256 ≤ t.aset.lines.length + t.aset.deferred.length then some 4
  else if 1024 ≤ s.holdLinesUsed (coreOf g) && (s.lineOwner g).isNone then some 5
  else none

/-- R267, R383. Room for one more line: when the core's buffer is full, a halted task's line is claimed and written out,
at the charge of the task that takes it. -/
def State.makeLineRoom (s : State) (g : Nat) : State :=
  if s.holdLinesUsed (coreOf g) < 1024 then s
  else
    match s.lineOwner g with
    | none => s
    | some h =>
      let t := s.strand h
      let a := s.frameAddr h (0x15800 + 64 * t.spilt.lines)
      let bytes : List Byte := match t.aset.lines[t.spilt.lines]? with
        | some l => (List.range 64).map (fun i => Sp.get 0 l.bytes i)
        | none => []   -- a deferred entry's line, whose layout is not given
      let s := (s.saveAccess (s.workOf g) (dieOf g) a true).memWrite { host := false, addr := a } bytes
      s.modStrand h (fun t => { t with spilt := { t.spilt with lines := t.spilt.lines + 1 } })

/-- The task holds a line for an address. -/
def Strand.hasLine (t : Strand) (p : PAddr) : Bool := t.aset.lines.any (fun l => l.line == p.addr / 64 && l.host == p.host)

/-- Change the task's line of an address, which it takes if it has none. -/
def Strand.modLine (t : Strand) (p : PAddr) (f : HeldLine → HeldLine) : Strand :=
  let t := if t.hasLine p then t
    else { t with aset := { t.aset with lines := t.aset.lines ++ [{ line := p.addr / 64, host := p.host, key := p.key, bytes := [] }] } }
  let mine (l : HeldLine) : Bool := l.line == p.addr / 64 && l.host == p.host
  { t with aset := { t.aset with lines := updWhere mine f t.aset.lines } }

/-- Put bytes into the task's line of an address: they are valid. -/
def Strand.holdBytes (t : Strand) (p : PAddr) (d : List Byte) : Strand :=
  t.modLine p (fun l => { l with bytes := d.zipIdx.foldl (fun (m : Assoc Byte) x => m.insert (p.addr % 64 + x.2) x.1) l.bytes })

/-- R257. The line that an atomic step fetched, and its fetch: its bytes are not valid ones, which EXIT would write (R265). -/
def Strand.fetchedLine (t : Strand) (p : PAddr) : Option (List Byte) :=
  (t.aset.lines.find? (fun l => l.line == p.addr / 64 && l.host == p.host && !l.fetched.isEmpty)).map (·.fetched)
def Strand.fetchLine_ (t : Strand) (p : PAddr) (bytes : List Byte) : Strand := t.modLine p (fun l => { l with fetched := bytes })

/-- R258. A held store; an overflow rolls the task back and the store takes no effect. -/
def State.holdStore (s : State) (g : Nat) (p : PAddr) (d : List Byte) : State × Bool :=
  let room := if (s.strand g).hasLine p then none else s.holdRoom g
  match room with
  | some reason => (s.markRollback g reason true, false)
  | none =>
    let s := s.bindOverlap g p d.length
    let s := if (s.strand g).hasLine p then s else s.makeLineRoom g
    ((s.modStrand g (fun t => t.holdBytes p d)).land (s.workOf g) [(10, 1, qDom (quarterOf g))], true)

/-- R257. An atomic step on a held granule: the line is fetched at the first, and the step is made on it, beneath the task's held
bytes. -/
def State.heldAtomic (s : State) (g : Nat) (p : PAddr) (n : Nat) (f : List Byte → List Byte) : State × Option (List Byte) :=
  let core := coreOf g
  let room := if (s.strand g).hasLine p then none else s.holdRoom g
  match room with
  | some reason => (s.markRollback g reason true, none)
  | none =>
    let s := if (s.strand g).hasLine p then s else s.makeLineRoom g
    let s := s.bindOverlap g p n
    let s := if ((s.strand g).fetchedLine p).isSome then s
      else (s.modStrand g (fun t => t.fetchLine_ p (s.homeBytes core p.line 64))).chargeLine (s.workOf g) (dieOf g) p.line false false
    let whole := s.ownBytes g p.line (((s.strand g).fetchedLine p).getD [])
    let old := (whole.drop (p.addr % 64)).take n
    (s.modStrand g (fun t => t.holdBytes p (f old)), some old)

/-! ### Granules (R254 to R256, R260) -/

/-- What an acquisition gives. -/
inductive Acquired where
  | held                    -- the granule is on the hold list
  | waits (listed : Bool)   -- the home has not replied, or has put the request on its wait list
  | violation               -- memory type 01 (R251)
  | overflow                -- a 65th granule: the task is rolled back
  deriving DecidableEq, Repr

/-- R260. The granules that a strand has asked for and does not hold yet: each grant puts one more on its hold list. -/
def State.granulesDue (s : State) (g : Nat) : Nat :=
  let isGrant (e : Event) : Bool := match e with | .granuleGrant g' _ _ => g' == g | _ => false
  (s.pending.filter isGrant).length + s.slices.foldl (fun n x =>
    n + (x.2.reqs.filter (fun e => e.1.work.g == g)).length + (x.2.waitList.filter (fun e => e.task.work.g == g)).length) 0

/-- R254, R255, R260. The strand acquires the granule of an address at place p in a set. -/
def State.acquire (s : State) (g : Nat) (d : BitVec 128) (p : PAddr) : State × Acquired :=
  let t := s.strand g
  let x := granuleAt d p
  if p.host then (s, .violation)
  else if x ∈ t.aset.holds then (s, .held)
  else
    let h := s.slice x.home
    if h.waitList.any (fun e => e.task.work.g == g && e.gran == x) then (s, .waits true)
    else if h.reqs.any (fun e => e.1.work.g == g && e.2 == x) || s.pending.any (fun e => e == .granuleGrant g x.base x.glog) then
      (s, .waits false)
    else if t.setBound ∧ 64 ≤ t.aset.holds.length + s.granulesDue g then (s.markRollback g 3 true, .overflow)
    else
      let s := s.granuleMessage (s.workOf g) (dieOf g) x.home true
      ((s.modSlice x.home (fun h => { h with reqs := h.reqs ++ [(s.ageOf g, x)] })).due (.granuleRequest x.home), .waits false)

/-! ### The store queue (R202, R203, R210) -/

/-- R203. The store queue holds a store of the strand that is not translated, with a serial below a bound. -/
def State.queuedStore (s : State) (g below : Nat) : Bool :=
  (s.core (coreOf g)).sq.any (fun e => e.work.g == g && e.pa.isNone && e.id < below)
/-- A VST of the strand has slots that have not acted. -/
def Strand.vstOut (t : Strand) : Bool :=
  t.flight.any (fun f => f.stop != .ran && (match f.instr with | .vst _ _ _ _ => true | _ => false))
/-- R203, R206. The strand has a store that is not translated: in the store queue, or still to be made by a VST. -/
def State.untranslated (s : State) (g : Nat) : Bool := s.queuedStore g s.nextId || (s.strand g).vstOut

/-- R202. An untranslated store of the strand overlaps an access, by virtual address. -/
def State.storeBefore (s : State) (g va n : Nat) : Bool :=
  (s.core (coreOf g)).sq.any (fun e => e.work.g == g && e.pa.isNone && rangesMeet e.va.toNat e.data.length va n)

/-- R203. A store of a group 16 or more groups back is still untranslated, or still to be made by its VST. -/
def State.skidBlocked (s : State) (g : Nat) : Bool :=
  let t := s.strand g
  (s.core (coreOf g)).sq.any (fun e => e.work.g == g && e.pa.isNone && 16 ≤ t.skid e.group e.hgroup e.fromHandler)
    || (t.vstOut && t.flight.any (fun f => 16 ≤ t.skid f.group f.hgroup f.fromHandler))

/-- R210. Two slots' stores that share an entry: the word and window, and the line. -/
def SqEntry.joins (e f : SqEntry) : Bool := e.work == f.work && e.window == f.window && e.va.toNat / 64 == f.va.toNat / 64
/-- R210, R412. The store finds an entry: the 256, less those retired, are not all taken, or one is its own. -/
def State.sqRoom (s : State) (e : SqEntry) : Bool :=
  let q := (s.core (coreOf e.work.g)).sq
  q.any (fun f => f.joins e) || ((q.map (fun f => (f.work, f.window, f.va.toNat / 64))).eraseDups).length
    < 256 - s.retiredOf (.storeQueue (coreOf e.work.g))

/-- Enqueue a store; its translation is due. -/
def State.enqueueStore (s : State) (e : SqEntry) : State :=
  let s := s.modCore (coreOf e.work.g) (fun c => { c with sq := c.sq ++ [{ e with id := s.nextId }] })
  s.takeId.dueOnce (.storeQueueTranslation e.work.g)

/-- R222, R227. A translated store of a place: the strand's overlapping loads return, and the L1's line is updated. -/
def State.storeVisible (s : State) (w : Work) (p : PAddr) (d : List Byte) : State :=
  (s.bindOverlap w.g p d.length).l1Store (coreOf w.g) p d

/-- R203, R205, R412. The 64 places of the SFRQ, less those retired, are taken. -/
def State.sfrqFull (s : State) (core : Nat) : Bool :=
  64 - s.retiredOf (.sfrq core) ≤ ((s.core core).sfrq.filter (·.isSome)).length

/-- R203, R204. Append a record to the SFRQ, in its first free place; `none` when it is full. -/
def State.sfrqPut (s : State) (core : Nat) (r : SfrqRec) : Option (State × Nat) :=
  let l := (s.core core).sfrq
  if s.sfrqFull core then none
  else
  match l.findIdx? (·.isNone) with
  | some i => some (s.modCore core (fun c => { c with sfrq := c.sfrq.set i (some r) }), i)
  | none => if l.length < 64 then some (s.modCore core (fun c => { c with sfrq := c.sfrq ++ [some r] }), l.length) else none

/-- R203. A store that cannot be translated is recorded and its strand is marked; a full SFRQ leaves it waiting. -/
def State.storeFault (s : State) (core : Nat) (e : SqEntry) (reason : Nat) : State :=
  if !s.liveWork e.work then s.modCore core (fun c => { c with sq := c.sq.filter (fun x => x.id != e.id) })
  else
    match s.sfrqPut core { va := e.va, data := e.data, pc := e.pc, slot := e.slot, size := e.data.length, reason := reason,
                           widx := e.widx, kind := if e.ust then 1 else 0, work := e.work, group := e.group, hgroup := e.hgroup,
                           fromHandler := e.fromHandler } with
    | none => s
    | some (s, i) =>
      let s := s.modCore core (fun c => { c with sq := c.sq.filter (fun x => x.id != e.id) })
      let s := s.countEv core 0x0A e.work.ctx 1
      (s.raise e.work.g { cause := .storeFault, reason := reason, kind := 4, va := some e.va.toNat, size := e.data.length,
                          slot := e.slot, sfrq := some i } none ((s.strand e.work.g).mark e.fromHandler))

/-- R202, R203, R258. Translate the strand's oldest untranslated store, with the slots that share its entry. -/
def State.translateStore (s : State) (g : Nat) : State :=
  let core := coreOf g
  match (s.core core).sq.find? (fun e => e.work.g == g && e.pa.isNone) with
  | none => s
  | some e =>
    if s.sfrqFull core then s
    else
      match s.translateFor (.store core e.id) e.work core e.va.toNat .store with
      | (s, .miss) => s
      | (s, .host _) => s
      | (s, .fail r) =>
        let s := s.storeFault core e r
        if s.queuedStore g s.nextId then s.dueOnce (.storeQueueTranslation g) else s
      | (s, .ok p) =>
        let r := s.lineBusy core e.work.ctx p
        if r.2 then r.1
        else
        let s :=
          if s.liveWork e.work && (s.strand g).setBound then
            let s := s.modCore core (fun c => { c with sq := c.sq.filter (fun x => x.id != e.id) })
            (s.holdStore g p e.data).1
          else
            let mine (x : SqEntry) : Bool := x.joins e && x.pa.isNone
            let at_ (x : SqEntry) : PAddr := { p with addr := p.addr + x.va.toNat - e.va.toNat }
            let es := (s.core core).sq.filter mine
            let s := es.foldl (fun s x => s.storeVisible x.work (at_ x) x.data) s
            let s := s.modCore core (fun c => { c with sq := updWhere mine (fun x => { x with pa := some (at_ x) }) c.sq })
            s.due (.storeArrivesHome core e.id)
        if s.queuedStore g s.nextId then s.dueOnce (.storeQueueTranslation g) else s

/-! ### Releases and acquires (R206, R234) -/

/-- Outstanding loads of the strand with a serial below a bound. -/
def State.loadsBefore (s : State) (g below : Nat) : Bool :=
  s.loads.any (fun r => r.work.g == g && s.liveWork r.work && r.id < below)
/-- The strand has accesses that have not returned: outstanding loads, or slots of a V word that have not acted. -/
def State.loadsOut (s : State) (g : Nat) : Bool := s.loadsBefore g s.nextId || (s.strand g).vmemOut
/-- The strand's remote messages that are not performed, or stores not acknowledged. -/
def State.remotesOut (s : State) (g : Nat) : Bool :=
  0 < (s.strand g).unacked || s.cores.any (fun x => x.2.remote.any (fun m => m.work.g == g))

/-- R234 item 3. The translated entries of the strand's context in its core's store queue. -/
def State.translatedIds (s : State) (g : Nat) : List Nat :=
  ((s.core (coreOf g)).sq.filter (fun e => e.work.ctx == (s.strand g).info.ctx && e.pa.isSome)).map (·.id)

/-- R234. The waits of a release at a scope are over, for the loads with a serial below a bound; `ids` are the entries
of item 3. -/
def State.released (s : State) (g scope below : Nat) (ids : List Nat) : Bool :=
  let core := coreOf g
  scope == 0 ||
    (!s.loadsBefore g below && !s.remotesOut g
      && (scope < 2 || (s.core core).sq.all (fun e => !ids.contains e.id))
      && (s.core core).cb.all (fun e => e.work.ctx != (s.strand g).info.ctx))

/-- R212, R234. Flush the combining entries of the strand's context. -/
def State.flushCtx (s : State) (g : Nat) : State := s.flushCb (coreOf g) (fun e => e.work.ctx == (s.strand g).info.ctx)

/-- R206, R212, R234. The wait of a U, M or C word for a release: every earlier store is translated, the context's
combining entries are flushed, and the entries of item 3 are those of the clock at which the wait of R206 ended. The
answer says whether the release may take effect. -/
def State.releaseStep (s : State) (g scope : Nat) : State × Bool :=
  if s.untranslated g then (s, false)
  else
    let s := if scope = 0 then s else s.flushCtx g
    let ids := (s.strand g).relIds.getD (s.translatedIds g)
    if s.released g scope s.nextId ids && (scope == 0 || !(s.strand g).vmemOut) then (s, true)
    else (s.modStrand g (fun t => { t with relIds := some ids }), false)

/-- R234, R235. The same wait for a V word on the rod: what stands before it has a serial below its mark. -/
def State.releaseWord (s : State) (g : Nat) (f : Flight) (scope : Nat) : State × Bool :=
  if s.queuedStore g f.mark then (s, false)
  else
    let s := if scope = 0 then s else s.flushCtx g
    let ids := f.relIds.getD (s.translatedIds g)
    if s.released g scope f.mark ids then (s, true)
    else (s.modStrand g (fun t => { t with flight := t.flight.map (fun f => { f with relIds := some ids }) }), false)

/-- R234. The start of an acquire at a scope: L1 lines are discarded, and later memory words wait for its loads. -/
def State.beginAcquire (s : State) (g scope : Nat) : State :=
  let s := s.modStrand g (fun t => { t with acquiring := some scope })
  if 2 ≤ scope then s.l1DropCtx (coreOf g) (s.strand g).info.ctx else s

/-- R234. An acquire that has every value is complete: lines that came in meanwhile are discarded too. A word that has been
stopped at a slot begins its acquire again when it is re-issued (R235). -/
def State.settleAcquire (s : State) (g : Nat) : State :=
  let t := s.strand g
  match t.acquiring with
  | none => s
  | some scope =>
    if s.loadsBefore g s.nextId || t.sent || t.usent.isSome || t.flight.any (fun f => f.began && f.stop.goesOn) then s
    else
      let s := s.modStrand g (fun t => { t with acquiring := none })
      if 2 ≤ scope then s.l1DropCtx (coreOf g) (s.strand g).info.ctx else s

/-- R206, R234. The course of a U, M or C word that releases at a scope. -/
def State.afterRelease (s : State) (scope : Nat) (k : State → State) : State :=
  let g := s.iss.g
  if s.iss.go then k s
  else
    match s.releaseStep g scope with
    | (s', true) => k s'
    | (s', false) => s'.hold (if s'.untranslated g then .stores else .release)

end Sys2Proof.Machine
end

