-- ==== Sys2Proof/Machine/Tiles.lean ====
section
/-!
DEFINITION. The matrix unit of a quarter below the words: layouts (R281 to R283), the load pipes (R280, R284, R287), the
M queue and tile order (R277), the unit's states (R278), and words held behind a suspended MMA or a halted strand
(R288, R289, R295).
-/

namespace Sys2Proof.Machine

/-! ### Formats and layouts -/

/-- R285. K of a format code, the bits of its container, whether it has block scales, and its weight class. -/
def mmaK (fn : Nat) : Nat := match fn with | 0 | 1 => 64 | 2 | 4 | 6 => 128 | _ => 256
def mmaBits (fn : Nat) : Nat := match fn with | 0 | 1 => 16 | 2 | 4 | 6 => 8 | _ => 4
def mmaMx (fn : Nat) : Bool := fn == 4 || fn == 5
def mmaClass (fn : Nat) : Nat := match fn with | 0 | 1 => 16 | 2 | 4 | 6 => 17 | _ => 18
/-- Bytes of 32 consecutive elements (R282). -/
def mmaBlock (fn : Nat) : Nat := 4 * mmaBits fn

/-- A layout word (R281). -/
structure Layout where
  va : Nat
  stride : Nat
  fmt : Nat
  tr : Bool
  swz : Bool
  span : Nat
  scoff : Int
  deriving DecidableEq, Repr

def layoutOf (l : BitVec 128) : Layout :=
  let f := bitsOf l.toNat
  { va := f 63 0, stride := f 95 64, fmt := f 98 96, tr := f 99 99 == 1, swz := f 100 100 == 1, span := f 103 101,
    scoff := signedOf 24 (f 127 104) }

/-- R282. The stored rows run along k. -/
def Layout.alongK (l : Layout) (isA : Bool) : Bool := l.tr != isA
/-- R282. Stored rows, and the bytes in one. -/
def Layout.rows (l : Layout) (fn : Nat) (isA : Bool) : Nat := if l.alongK isA then 64 else mmaK fn
def Layout.rowBytes (l : Layout) (fn : Nat) (isA : Bool) : Nat := (if l.alongK isA then mmaK fn else 64) * mmaBits fn / 8

/-- R283. The checks of a layout at issue. -/
def Layout.ok (l : Layout) (fn : Nat) (isA : Bool) (fms : Words) : Bool :=
  let w := fmWidth (fms.get l.fmt)
  let fmtOk : Bool :=
    match fn with
    | 2 | 4 => fmUsable fms l.fmt && 5 ≤ w && w ≤ 8
    | 3 | 5 => fmUsable fms l.fmt && 2 ≤ w && w ≤ 4
    | _ => l.fmt == 0
  l.va % 16 == 0 && l.stride % 16 == 0 && l.rowBytes fn isA ≤ l.stride && (!mmaMx fn || l.stride % mmaBlock fn == 0) && fmtOk
    && (if mmaMx fn then l.alongK isA else l.scoff == 0) && (l.swz || l.span == 0)

/-- R98, R106. The value of an element code in an operand. -/
def mmaValue (fn : Nat) (fms : Words) (l : Layout) (c : Nat) : FVal :=
  match fn with
  | 0 => bf16.decode c
  | 1 => f16.decode c
  | 6 => let v := signedOf 8 c; .fin (v < 0) v.natAbs 0
  | _ => narrowDecode (fms.get l.fmt) c

/-- R282, R107. Element x of a stored row. -/
def rowElem (fn : Nat) (row : List Byte) (x : Nat) : Nat :=
  match mmaBits fn with
  | 16 => leNat ((row.drop (2 * x)).take 2)
  | 8 => (row.getD x 0).toNat
  | _ => (row.getD (x / 2) 0).toNat / 16 ^ (x % 2) % 16

/-! ### The load pipes (R280, R284, R287) -/

/-- A unit that a load pipe reads at once: its virtual address and size, for element bytes SWZ and SPAN of their layout,
and the operand (R240, R282). The first unit of an MX unit names the others and the scale byte, which are read with it (R246). -/
structure PipeUnit where
  va : Nat
  n : Nat
  elem : Option (Bool × Nat)
  opnd : Nat
  lead : Nat := 0            -- how many units of its MX unit follow it
  inside : Bool := false     -- it follows in its MX unit
  scale : Option Nat := none -- where the scale byte of the MX unit that it begins lies
  deriving DecidableEq, Repr

/-- R282. Where the scale byte of block b of stored row r lies. -/
def Layout.scaleVa (l : Layout) (fn r b : Nat) : Nat :=
  ((((l.va : Int) + l.scoff * 16 + (r * l.stride / mmaBlock fn : Nat)) % 2 ^ 64).toNat + b) % 2 ^ 64

/-- R240, R246, R282. The units of the elements of stored row r. -/
def Layout.rowUnits (l : Layout) (fn : Nat) (isA : Bool) (r : Nat) : List PipeUnit :=
  let k := if mmaMx fn then mmaBlock fn / 4 else 1
  (List.range (l.rowBytes fn isA / 4)).map (fun u =>
    { va := (l.va + r * l.stride + 4 * u) % 2 ^ 64, n := 4, elem := some (l.swz, l.span), opnd := if isA then 0 else 1,
      lead := if u % k = 0 then k - 1 else 0, inside := u % k != 0,
      scale := if mmaMx fn && u % k == 0 then some (l.scaleVa fn r (u / k)) else none })

/-- R282. The scale bytes of stored row r. -/
def Layout.scaleUnits (l : Layout) (fn : Nat) (isA : Bool) (r : Nat) : List PipeUnit :=
  (List.range (mmaK fn / 32)).map (fun b =>
    { va := l.scaleVa fn r b, n := 1, elem := none, opnd := if isA then 2 else 3 })

/-- R279, R287. What staging reads, in order: B, its scales, and A when TR = 1. -/
def stageUnits (a : MmaArgs) : List PipeUnit :=
  let la := layoutOf a.la
  let lb := layoutOf a.lb
  (List.range (lb.rows a.fmt false)).flatMap (lb.rowUnits a.fmt false)
    ++ (if mmaMx a.fmt then (List.range 64).flatMap (lb.scaleUnits a.fmt false) else [])
    ++ (if la.tr then (List.range (la.rows a.fmt true)).flatMap (la.rowUnits a.fmt true) else [])

/-- R287. What selected row i of A reads when it is not staged. -/
def rowUnitsOf (a : MmaArgs) (i : Nat) : List PipeUnit :=
  let la := layoutOf a.la
  if la.tr then [] else la.rowUnits a.fmt true i ++ (if mmaMx a.fmt then la.scaleUnits a.fmt true i else [])

/-- What a unit gives: its bytes with the global line or none, a wait for a walk, or the stop of the MMA. -/
inductive PipeRes where
  | ok (bytes : List Byte) (line : Option PAddr)
  | wait
  | stop (x : PipeStop)
  deriving DecidableEq, Repr

/-- R284, R287. One unit is checked, translated and read for an entry's strand. DESIGN CHOICE (log 148): a unit in a segment of
another core is read at that core's banks in the same step, and the table of R286 charges no remote message for it. -/
def State.pipeUnit (s : State) (e : MEntry) (u : PipeUnit) : State × PipeRes :=
  let core := coreOf e.work.g
  let t : Strand := { info := e.info }
  let stop (page : Bool) (c : Cause) (va r : Nat) : PipeRes :=
    .stop { page := page, info := { cause := c, reason := r, kind := 5, va := some va, opnd := u.opnd } }
  if !canonical u.va then (s, stop false .loadFault u.va 1)
  else
    match t.window u.va with
    | some x =>
      if t.winSize < x + u.n then (s, stop false .spadRange x 0)
      else
        let pl := t.winPlace x
        let c := s.core pl.1
        let tag := (c.tag pl.2).toNat
        let good : Bool := match u.elem with | some (true, sp) => tag == 8 + sp | _ => tag / 8 == 0
        if !good then (s, stop false .swizzleMismatch u.va 0)
        else
          let o := match u.elem with | some (true, sp) => swizzle (16 * 2 ^ sp) pl.2 | _ => pl.2
          (s, .ok (c.readSp o u.n) none)
    | none =>
      match s.translateFor (.mma e.id) e.work core u.va .load with
      | (s, .fail r) => (s, stop false .loadFault u.va r)
      | (s, .miss) => (s, .wait)
      | (s, .host _) => (s, stop true .loadFault u.va 5)
      | (s, .ok p) =>
        if (match u.elem with | some (b, _) => b | none => false) then (s, stop false .swizzleMismatch u.va 0)
        else (s, .ok (s.homeBytes core p u.n) (some p.line))

/-- R286. Charge a unit that has been read: each global line once, and scratchpad bytes by fours. -/
def State.landUnit (s : State) (e : MEntry) (n : Nat) (line : Option PAddr) : State :=
  match line with
  | some p =>
    if p ∈ e.got.lines then s
    else
      let r := s.lineAccess e.work (dieOf e.work.g) p false false
      r.1.land e.work r.2
  | none =>
    let k := (e.got.spad + n + 3) / 4 - (e.got.spad + 3) / 4
    if k = 0 then s else s.land e.work [(8, k, qDom e.work.q)]

/-- The entry after a unit has been read. -/
def MEntry.took (e : MEntry) (bytes : List Byte) (line : Option PAddr) : MEntry :=
  let x := e.got
  let lines := match line with | some p => if p ∈ x.lines then x.lines else p :: x.lines | none => x.lines
  let spad := match line with | some _ => x.spad | none => x.spad + bytes.length
  { e with pos := e.pos + 1, got := { x with bytes := x.bytes ++ bytes, lines := lines, spad := spad } }

/-- The scale byte of the MX unit that a unit begins, as a unit of its own. -/
def PipeUnit.scaleUnit (u : PipeUnit) : Option PipeUnit :=
  u.scale.map (fun va => { va := va, n := 1, elem := none, opnd := u.opnd + 2 })

/-- R246. Some of these units must wait for their translation. -/
def State.anyWaits (s : State) (e : MEntry) : List PipeUnit → State × Bool
  | [] => (s, false)
  | u :: l =>
    match s.pipeUnit e u with
    | (s, .wait) => (s, true)
    | (s, _) => s.anyWaits e l

/-- R246. The MX unit that a unit begins, its scale byte with it, must wait: it is read whole or not yet. -/
def State.blockWaits (s : State) (e : MEntry) (u : PipeUnit) (l : List PipeUnit) : State × Bool :=
  if u.lead = 0 then (s, false) else s.anyWaits e (u :: l.take u.lead ++ u.scaleUnit.toList)

/-- R246. The scale byte of the MX unit that a unit begins is read with it, where it can be. -/
def State.takeScale (s : State) (e : MEntry) (u : PipeUnit) : MEntry :=
  match u.scaleUnit with
  | none => e
  | some x =>
    match (s.pipeUnit e x).2 with
    | .ok b _ => { e with got := { e.got with scales := (x.va, b.headD 0) :: e.got.scales } }
    | _ => e

/-- R246. The bytes of a unit: a scale byte is the one that was read with its elements. -/
def MEntry.valueOf (e : MEntry) (u : PipeUnit) (b : List Byte) : List Byte :=
  if u.opnd < 2 then b
  else match e.got.scales.find? (fun x => x.1 == u.va) with | some x => [x.2] | none => b

/-- R240, R246, R287. An entry's pipes read up to n of the units that are left, in order, until one must wait or stops it; an
MX unit counts as one. -/
def State.readUnits (s : State) (e : MEntry) : List PipeUnit → Nat → State × MEntry
  | [], _ => (s, e)
  | _, 0 => (s, e)
  | u :: l, n + 1 =>
    match s.blockWaits e u l with
    | (s, true) => (s, e)
    | (s, false) =>
      match s.pipeUnit e u with
      | (s, .wait) => (s, e)
      | (s, .stop x) => (s, { e with fail := some x })
      | (s, .ok b p) =>
        (s.landUnit e u.n p).readUnits ((s.takeScale e u).took (e.valueOf u b) p) l
          (if l.head?.any (fun x => x.inside) then n + 1 else n)

/-- R240. One step of an entry's pipes: they read as many units as they choose, so that another access can fall between any
two. -/
def State.pipeStep (s : State) (e : MEntry) (units : List PipeUnit) : State × MEntry :=
  let rest := units.drop e.pos
  if rest.isEmpty then (s, e) else s.stepFree.readUnits e rest (1 + Config.pick s.free % rest.length)

/-- R282. The rows of n bytes from a place in what was read. -/
def rowsFrom (bytes : List Byte) (off n rows : Nat) : List (List Byte) :=
  (List.range rows).map (fun r => (bytes.drop (off + r * n)).take n)

/-- R279. What the bytes of a whole staging are. -/
def stagingOf (a : MmaArgs) (bytes : List Byte) : Staging :=
  let la := layoutOf a.la
  let lb := layoutOf a.lb
  let nb := lb.rows a.fmt false * lb.rowBytes a.fmt false
  let ns := if mmaMx a.fmt then 64 else 0
  { b := rowsFrom bytes 0 (lb.rowBytes a.fmt false) (lb.rows a.fmt false),
    scales := rowsFrom bytes nb (mmaK a.fmt / 32) ns,
    a := rowsFrom bytes (nb + ns * (mmaK a.fmt / 32)) (la.rowBytes a.fmt true) (if la.tr then la.rows a.fmt true else 0) }

/-! ### Rows (R115, R285) -/

/-- The values of row i of A along k. -/
def aValues (a : MmaArgs) (st : Staging) (rowBytes : List Byte) (i : Nat) : List FVal :=
  let la := layoutOf a.la
  (List.range (mmaK a.fmt)).map (fun k =>
    mmaValue a.fmt a.fms la (if la.tr then rowElem a.fmt (st.a.getD k []) i else rowElem a.fmt rowBytes k))
/-- The values of column j of B along k. -/
def bValues (a : MmaArgs) (st : Staging) (j : Nat) : List FVal :=
  let lb := layoutOf a.lb
  (List.range (mmaK a.fmt)).map (fun k =>
    mmaValue a.fmt a.fms lb (if lb.tr then rowElem a.fmt (st.b.getD j []) k else rowElem a.fmt (st.b.getD k []) j))

/-- R115. One element: the K-blocks in ascending order, each added with one rounding. -/
def mmaElem (a : MmaArgs) (st : Staging) (aScales : List Byte) (j : Nat) (acc : Word) : List FVal → List FVal → Nat → Nat → Word
  | _, _, _, 0 => acc
  | av, bv, kb, n + 1 =>
    let p := blockSum (List.zipWith mulX (av.take 32) (bv.take 32))
    let sc (x : Layout) (c : Byte) : FVal := scaleValue a.fms (a.fms.get x.fmt) c.toNat
    let p :=
      if mmaMx a.fmt then
        mulX (mulX p (sc (layoutOf a.la) (aScales.getD kb 0))) (sc (layoutOf a.lb) ((st.scales.getD j []).getD kb 0))
      else p
    mmaElem a st aScales j (accumulate acc p) (av.drop 32) (bv.drop 32) (kb + 1) n

/-- R285. Row i of the tile after the row has committed. -/
def mmaRow (a : MmaArgs) (st : Staging) (rowBytes aScales : List Byte) (i : Nat) (data : Words) : Words :=
  let av := aValues a st rowBytes i
  (List.range 64).foldl (fun (d : Words) j =>
    d.set (64 * i + j) (mmaElem a st aScales j (d.get (64 * i + j)) av (bValues a st j) 0 (mmaK a.fmt / 32))) data

/-! ### The queue (R277, R278) -/

def MKind.isMma : MKind → Bool
  | .mma _ => true
  | _ => false
def QuarterSt.tileSt (q : QuarterSt) (p : Nat) : TileSt := (q.tiles.find? p).getD {}
def QuarterSt.setTile (q : QuarterSt) (p : Nat) (x : TileSt) : QuarterSt := { q with tiles := q.tiles.insert p x }
def State.modTile (s : State) (q p : Nat) (f : TileSt → TileSt) : State := s.modQuarter q (fun x => x.setTile p (f (x.tileSt p)))

/-- The number by which the work's strand names a physical tile. -/
def State.tileName (s : State) (w : Work) (p : Nat) : Nat := ((s.strand w.g).info.tiles.idxOf? p).getD 0
/-- The rows of an M word are selected by the slots of its mask (R276). -/
def rowSelected (sel : Word) (i : Nat) : Bool := sel.getLsbD (i % 32)

/-- The entry is the oldest of its tile in the queue. -/
def QuarterSt.first (q : QuarterSt) (e : MEntry) : Bool :=
  match q.mq.find? (fun m => m.tile == e.tile) with
  | some m => m.id == e.id
  | none => false
/-- The oldest accepted MMA that has not started. -/
def QuarterSt.nextMma (q : QuarterSt) : Option MEntry := q.mq.find? (fun m => m.kind.isMma && !m.running)
/-- R278. It is ready to start. -/
def QuarterSt.ready (q : QuarterSt) : Option MEntry :=
  match q.nextMma with
  | some e => if q.first e && e.staged.isSome then some e else none
  | none => none
def QuarterSt.current (q : QuarterSt) : Option MEntry := q.mq.find? (·.running)

/-- Resources of a core have come back: the dispatcher acts (R381). -/
def State.coreReturned (s : State) (core : Nat) : State :=
  match s.partOfCore core with
  | some p => s.dueOnce (.dispatchPlacement p)
  | none => s

/-- R261 step 3, R275, R396. A tile whose oldest word is no longer of the ended work that it was left to: it holds zeros for
the next work's words, or returns to the pool where no strand owns it. -/
def State.sweptTile (s : State) (mq : List MEntry) (y : Nat × TileSt) : Option (Nat × TileSt) :=
  match y.2.stale with
  | none => some y
  | some w =>
    match mq.find? (fun e => e.tile == y.1) with
    | some e =>
      if e.work = w then some y
      else some (y.1, { y.2 with data := [], rp := 0, stale := if s.liveWork e.work then none else some e.work })
    | none => if y.2.owner.isSome then some (y.1, { y.2 with data := [], rp := 0, stale := none }) else none

/-- The tiles of a quarter that ended work has left. -/
def State.sweepTiles (s : State) (q : Nat) : State :=
  let x := s.quarter q
  if x.tiles.all (fun y => y.2.stale.isNone) then s
  else
    let tiles := x.tiles.filterMap (s.sweptTile x.mq)
    let s := s.setQuarter q { x with tiles := tiles }
    if tiles.length < x.tiles.length then s.coreReturned (coreOfQuarter q) else s

/-- The words that a tile holds re-enter the queue when nothing keeps them out (R289, R295). -/
def State.readmit (s : State) (q : Nat) : State :=
  (s.quarter q).tiles.foldl (fun (s : State) x =>
    let t := (s.quarter q).tileSt x.1
    let halted : Bool := match t.owner with | some g => (s.strand g).state == .halted | none => true
    if t.susp.isSome || halted then s
    else
      let room := 4 - (s.quarter q).mq.length
      s.modQuarter q (fun y => { y.setTile x.1 { t with heldWords := t.heldWords.drop room } with mq := y.mq ++ t.heldWords.take room })) s

/-- R287. An MMA that a byte stops is suspended once it runs, or once it is the oldest word of its tile. -/
def QuarterSt.stops (q : QuarterSt) : Option (MEntry × PipeStop) :=
  (q.mq.find? (fun e => e.fail.isSome && (e.running || q.first e))).bind (fun e => e.fail.map (fun x => (e, x)))

/-- What the quarter can do next is due: staging of the first two MMAs (R279), the start of the oldest, the next row of
the one that runs, the suspension of one that stops, and the ports of tiles whose oldest word uses its port. -/
def State.kickM (s : State) (q : Nat) : State :=
  let s := (s.sweepTiles q).readmit q
  let x := s.quarter q
  let s := (((x.mq.filter (fun e => e.kind.isMma)).take 2).filter (fun e => e.staged.isNone && e.fail.isNone)).foldl
    (fun (s : State) e => s.dueOnce (.mmaStagingComplete q e.id)) s
  let s := if x.ready.isSome && x.current.isNone then s.dueOnce (.mmaStart q) else s
  let s := if x.current.any (fun e => e.fail.isNone) then s.dueOnce (.mmaRowCommit q) else s
  let s := if x.stops.isSome then s.dueOnce (.mmaSuspension q) else s
  x.mq.foldl (fun (s : State) e => if x.first e && !e.kind.isMma then s.dueOnce (.tilePortComplete q e.tile) else s) s

/-- Ask the governor for the unit's next boundary. -/
def State.governM (s : State) (q : Nat) : State := s.dueOnce (.governorStepBoundary (dieOfCore (coreOfQuarter q)))

/-- R356, R357. The clocks that a unit runs from one boundary to the next, four clocks of 700 MHz, in parts of 700. -/
def State.boundary (s : State) (q : Nat) : Nat := 4 * Config.clockMHz.getD (s.opOf (s.quarter q).lastWork.ctx) 700

/-- R278. The unit's MMA has left the array: with none ready it is Stopping. -/
def State.endRun (s : State) (q : Nat) : State :=
  let x := s.quarter q
  if x.unit ≠ .running || x.current.isSome || x.ready.isSome then s
  else
    (s.stepFree.setQuarter q { x with unit := .stopping, stopAt := s.clock, stopDone := 0,
                                      stopRun := Config.stepPhase s.free % s.boundary q }).governM q

/-- Take an entry out of the queue; an exit-pending block that it read may return (R167). -/
def State.dropM (s : State) (q id : Nat) : State :=
  let segs := ((s.quarter q).mq.filter (fun e => e.id == id)).flatMap (fun e => e.info.segs)
  (s.modQuarter q (fun x => { x with mq := x.mq.filter (fun e => e.id != id) })).blocksMayReturn segs

/-- Nothing of the operands is staged. -/
def MEntry.unstaged (e : MEntry) : MEntry := { e with staged := none, pos := 0, got := {}, fail := none }

/-- R288. An MMA is suspended at a row: it leaves the array and the queue, and the later words of its tile stay with the
tile. The strand of work that has ended gets nothing. -/
def State.suspendM (s : State) (q : Nat) (e : MEntry) (row : Nat) (stop : PipeStop) : State :=
  if !s.liveWork e.work then ((s.dropM q e.id).kickM q).endRun q
  else
    let later := ((s.quarter q).mq.dropWhile (fun m => m.id != e.id)).filter (fun m => m.tile == e.tile && m.id != e.id)
    let byte : TrapInfo := { stop.info with tile := s.tileName e.work e.tile }
    let trap : Option TrapInfo := if stop.page then none else some byte
    let e' := { e.unstaged with running := false, row := row }
    let s := s.modQuarter q (fun x => { x with mq := x.mq.filter (fun m => m.id != e.id && !later.any (fun l => l.id == m.id)) })
    let s := s.modTile q e.tile (fun t =>
      { t with rp := row, susp := some { entry := e', trap := trap, byte := byte, reported := false }, heldWords := later ++ t.heldWords })
    let s := match trap with
      | some i => s.raise e.work.g i none e.handlerWork
      | none => s
    (s.kickM q).endRun q

/-- R289. A suspended MMA re-enters the queue from its row progress; at 64 it is complete. -/
def State.reenter (s : State) (q p : Nat) : State :=
  let t := (s.quarter q).tileSt p
  match t.susp with
  | none => s
  | some m =>
    let t' := { t with susp := none }
    if 64 ≤ t.rp then (s.modTile q p (fun _ => { t' with rp := 0 })).kickM q
    else (s.modTile q p (fun _ => { t' with heldWords := { m.entry with row := t.rp } :: t.heldWords })).kickM q

/-- R289. Every MMA of a strand whose suspension its traps have reported re-enters. -/
def State.reenterReported (s : State) (g : Nat) : State :=
  let q := quarterOf g
  (s.strand g).info.tiles.foldl (fun (s : State) p =>
    match ((s.quarter q).tileSt p).susp with
    | some m => if m.reported then s.reenter q p else s
    | none => s) s

/-- R288. The MMAs of a quarter that meet a test and wait for a host page try again. -/
def State.reenterPages (s : State) (q : Nat) (p : MEntry → Bool) : State :=
  (s.quarter q).tiles.foldl (fun (s : State) x =>
    match x.2.susp with
    | some m => if m.trap.isNone && p m.entry then s.reenter q x.1 else s
    | none => s) s

/-- R287. A host page that an MMA of a quarter awaits has been refused: its suspension becomes a fault, which its strand
traps with. -/
def State.refuseMma (s : State) (q id : Nat) : State :=
  let x := s.quarter q
  let fault (e : MEntry) : MEntry := { e with fail := e.fail.map (fun y => { y with page := false }) }
  let s := s.setQuarter q { x with mq := updWhere (fun e => e.id == id) fault x.mq }
  match List.find? (fun t => t.2.susp.any (fun m => m.entry.id == id && m.trap.isNone)) x.tiles with
  | some (p, { susp := some m, .. }) =>
    (s.modTile q p (fun t => { t with susp := some { m with trap := some m.byte } })).raise m.entry.work.g m.byte none
      m.entry.handlerWork
  | _ => s

/-- R287. The host page that an MMA of a quarter awaits has come: it re-enters, or reads on where it is still queued. -/
def State.pageForMma (s : State) (q id : Nat) : State :=
  let clear (e : MEntry) : MEntry := { e with fail := e.fail.filter (fun y => !y.page) }
  let s := s.modQuarter q (fun x => { x with mq := updWhere (fun e => e.id == id) clear x.mq })
  (s.reenterPages q (fun e => e.id == id)).kickM q

/-- The quarter that has an MMA among its entries. -/
def State.quarterOfMma (s : State) (id : Nat) : Option Nat :=
  (List.find? (fun x => x.2.mq.any (fun e => e.id == id)
    || x.2.tiles.any (fun t => t.2.susp.any (fun m => m.entry.id == id))) s.quarters).map (·.1)

/-- R290. The strand has M words that are not complete. -/
def State.mBusy (s : State) (g : Nat) : Bool :=
  let x := s.quarter (quarterOf g)
  x.mq.any (fun e => e.work == s.workOf g)
    || x.tiles.any (fun t => t.2.owner == some g && (t.2.susp.isSome || !t.2.heldWords.isEmpty))

/-- R289. A handler that ends the strand discards its suspended MMAs and the words held behind them. -/
def State.discardSuspended (s : State) (g : Nat) : State :=
  s.modQuarter (quarterOf g) (fun x => { x with tiles := x.tiles.map (fun (t : Nat × TileSt) =>
    (t.1, if t.2.owner = some g ∧ t.2.susp.isSome then { t.2 with susp := none, heldWords := [] } else t.2)) })

/-- R295. The queued words of a halted strand leave the queue and stay with their tiles; what runs goes on. -/
def State.haltM (s : State) (g : Nat) : State :=
  let q := quarterOf g
  let mine (e : MEntry) : Bool := e.work == s.workOf g && !e.running
  let es := (s.quarter q).mq.filter mine
  let s := s.modQuarter q (fun x => { x with mq := x.mq.filter (fun e => !mine e) })
  let s := es.reverse.foldl (fun (s : State) e => s.modTile q e.tile (fun t => { t with heldWords := e.unstaged :: t.heldWords })) s
  s.kickM q

end Sys2Proof.Machine
end

