-- ==== Sys2Proof/Machine/VecMem.lean ====
section
/-!
DEFINITION. The vector memory words of majors 0x50 to 0x5D (R177 to R185, R214 to R223, R273): their forms, the pass over
the slots, and where it stops (R195, R196, R202, R206, R256). A word that has stopped on the rod goes on from its cursor
when what it waits for has come.
-/

namespace Sys2Proof.Machine

/-! ### Forms -/

/-- What a memory word does at a slot. -/
inductive MemOp where
  | ld | ldpk | st
  | pref (sc : Bool)
  | atom (op : Nat) | red (op : Nat) | cas
  | lds | sts | atoms (op : Nat) | cass | ldfe | stef
  | fe (full : Bool) | feGet
  deriving DecidableEq, Repr

/-- The fields of a memory word. `wide` is the greatest legal width code of D; `rel` and `acq` are its ordering. -/
structure MemForm where
  op : MemOp
  d : BitVec 8 := 0
  a : BitVec 8
  b : BitVec 8 := 0
  off : BitVec 8 := 0
  wide : Nat := 0
  ordered : Bool := true             -- RM and ZM carry scope and ordering; else they must be zero
  scope : Nat := 0
  rel : Bool := false
  acq : Bool := false
  bad : Option Cause := none         -- an unassigned function code (R53)

/-- R53. The fields of an atomic's function code. -/
def fnForm (op : MemOp) (d a : BitVec 8) (s : BitVec 3) (r : BitVec 1) (p : BitVec 4) : MemForm :=
  { op := op, d := d, a := a, ordered := false, scope := s.toNat, rel := r == 1,
    acq := r == 1,
    bad := if decide (12 ≤ p.toNat) || (p == 8 && (match op with | .red _ => true | _ => false)) then some .illegalOpcode
           else if s = 7 then some .illegalOperand else none }

/-- The form of a memory word under its prefix. -/
def memForm (i : Instr) (p : VPfx) : Option MemForm :=
  let sc := p.rm.toNat
  match i with
  | .vld _ d a o => some { op := .ld, d := d, a := a, off := o, wide := 3, scope := sc, acq := p.zm }
  | .vst _ d a o => some { op := .st, d := d, a := a, off := o, wide := 3, scope := sc, rel := p.zm }
  | .vlds _ d a o => some { op := .lds, d := d, a := a, off := o, wide := 3, scope := sc, acq := p.zm }
  | .vsts _ d a o => some { op := .sts, d := d, a := a, off := o, wide := 3, scope := sc, rel := p.zm }
  | .vldpk _ d a o => some { op := .ldpk, d := d, a := a, off := o, wide := 3, ordered := false }
  | .vpref _ l a o => some { op := .pref (l == 1), a := a, off := o, ordered := false }
  | .vatom _ d a s r q => some (fnForm (.atom q.toNat) d a s r q)
  | .vred _ d a s r q => some (fnForm (.red q.toNat) d a s r q)
  | .vatoms _ d a s r q => some (fnForm (.atoms q.toNat) d a s r q)
  | .vcas _ d a b => some { op := .cas, d := d, a := a, b := b, wide := 1, scope := sc, rel := p.zm, acq := p.zm }
  | .vcass _ d a b => some { op := .cass, d := d, a := a, b := b, scope := sc, rel := p.zm, acq := p.zm }
  | .vldfe _ d a o => some { op := .ldfe, d := d, a := a, off := o, scope := if sc = 0 then 1 else sc }
  | .vstef _ d a o => some { op := .stef, d := d, a := a, off := o, scope := if sc = 0 then 1 else sc }
  | .vspfeEmpty _ a => some { op := .fe false, a := a, ordered := false }
  | .vspfeFull _ a => some { op := .fe true, a := a, ordered := false }
  | .vspfeGet _ d a => some { op := .feGet, d := d, a := a, ordered := false }
  | _ => none

/-- The word addresses scratchpad by window offset (R177). -/
def MemOp.spad : MemOp → Bool
  | .lds | .sts | .atoms _ | .cass | .ldfe | .stef | .fe _ | .feGet => true
  | _ => false
/-- The word names a register in D. -/
def MemOp.usesD : MemOp → Bool
  | .pref _ | .fe _ => false
  | _ => true
def MemOp.readsD : MemOp → Bool
  | .st | .atom _ | .red _ | .cas | .sts | .atoms _ | .cass | .stef => true
  | _ => false
def MemOp.writesD : MemOp → Bool
  | .ld | .ldpk | .atom _ | .cas | .lds | .atoms _ | .cass | .ldfe | .feGet => true
  | _ => false
def MemOp.usesB : MemOp → Bool
  | .cas | .cass => true
  | _ => false
/-- R389. The access kind that a trap records. -/
def MemOp.kind : MemOp → Nat
  | .ld | .ldpk | .lds | .ldfe | .pref _ | .feGet => 1
  | .atom _ | .cas | .atoms _ | .cass => 2
  | .red _ => 3
  | .st | .sts | .stef | .fe _ => 4
def MemOp.access : MemOp → Access
  | .st => .store
  | .atom _ | .red _ | .cas => .atomic
  | _ => .load
/-- A full/empty word that waits: a switch point (R80, R183). -/
def MemOp.waits : MemOp → Bool
  | .ldfe | .stef => true
  | _ => false

/-- The address operand as a source: a register or a pair, of a vector or uniform code (R177, R214). -/
def MemForm.addr (f : MemForm) : Option VSrc :=
  let c := f.a.toNat
  if f.op.spad then
    if c < 0x80 then some (.reg c 1) else if 0xC0 ≤ c then some (.uni (c - 0xC0) 1) else none
  else if c % 2 ≠ 0 then none
  else if c ≤ 0x7E then some (.reg c 2) else if 0xC0 ≤ c then some (.uni (c - 0xC0) 2) else none

/-- Registers of D, and of B: both have the width of D (R221). -/
def bSrc (lit : Word) (f : MemForm) (p : VPfx) : Option VSrc :=
  if !f.op.usesB then some (.const 0)
  else match vSrcOf lit f.b p.wb with | some .cy => none | x => x

/-! ### Where the pass stands -/

/-- How a slot ended. -/
inductive SlotEnd where
  | ok
  | stop (w : FlightStop)
  | fault (i : TrapInfo)
  deriving DecidableEq, Repr

def State.modFlight (s : State) (g : Nat) (h : Flight → Flight) : State :=
  s.modStrand g (fun t => { t with flight := t.flight.map h })

/-- R348. The issue-time charges of a slot of the word that runs. -/
def State.slotCharge (s : State) (l : List (Nat × Nat)) : State :=
  { s with iss := { s.iss with raw := s.iss.raw ++ l.filter (fun x => x.2 != 0) } }

/-- R348, R354. Slots of a strand's word that run in its group's issue add to the group's charge. Those that a stall of the
rod puts off make one charge event when they run, which enters DEF as the group's does. -/
def State.withSlots (s : State) (g : Nat) (run : State → State) : State :=
  if s.iss.snap.isSome && s.iss.g == g then run s
  else
    let iss := s.iss
    let w := s.workOf g
    let s := run { s with iss := { g := g } }
    let raw := s.iss.raw
    let b := rawBeads (s.opOf w.ctx) raw
    let s := ({ s with iss := iss } : State).countEv (coreOf g) 0x02 w.ctx s.iss.slots
    if raw.isEmpty then s
    else (s.chargeEvent w (qDom w.q) b).modQuarter w.q (fun x =>
      { x with defs := x.defs.insert w.ctx ((x.defs.find? w.ctx).getD 0 - b) })

/-- R138, R180 to R184. A slot's operand accesses and scratchpad units. -/
def slotWeights (f : MemForm) (n : Nat) (b : VSrc) : List (Nat × Nat) :=
  let m := n / 4
  let r := dstReg f.d
  let times := (if f.op.readsD then 1 else 0) + (if f.op.writesD then 1 else 0)
  let a := match f.addr with | some x => x.accesses | none => (0, 0)
  [(5, a.1 + b.accesses.1 + times * opFileOf r m), (6, a.2 + b.accesses.2 + times * mainFileOf r m)]
    ++ (if f.op.spad then [(8, m)] else [])

/-- Data registers of a slot, as bytes: D of n / 4 registers. -/
def Strand.dBytes (t : Strand) (d : BitVec 8) (n k : Nat) : List Byte :=
  bytesOfWords ((List.range (n / 4)).map (fun i => t.vreg (dstReg d + i) k))
/-- The B operand of a slot, as bytes. -/
def Flight.bBytes (f : Flight) (n k : Nat) : List Byte :=
  bytesOfWords ((List.range (n / 4)).map (fun i => f.bvals.get (2 * k + i)))

/-! ### Scratchpad slots (R169 to R171, R177, R180 to R184, R189) -/

/-- R71, R169. A local result comes at distance 3; a result of a window access is scoreboarded (R189). Past a switch point
a result commits at once (R80). -/
def State.deliver (s : State) (g : Nat) (f : Flight) (d : BitVec 8) (k : Nat) (b : List Byte) (window done : Bool) : State :=
  if f.settled then
    (wordsOf b).zipIdx.foldl (fun s x => s.modStrand g (fun t => t.writeV (dstReg d + x.2) k x.1)) s
  else if window then
    s.startLoad { id := 0, work := s.workOf g, uni := false, reg := dstReg d, slot := k, pa := { host := false, addr := 0 },
                  n := b.length, data := some b, home := false, l1 := 0, trip := false, miss := false }
  else
    (wordsOf b).zipIdx.foldl (fun s x =>
      let s := s.modStrand g (fun t => t.lateV { reg := dstReg d + x.2, slot := k, val := x.1, flags := 0, seq := f.seq,
                                                 sfu := false, delivered := done })
      if done then s else s.due (.scratchpadResultDelivery g k)) s

/-- The step that a slot makes at the banks. -/
def spadOp (t : Strand) (f : Flight) (m : MemForm) (n k : Nat) : SpOp :=
  let d := t.dBytes m.d n k
  match m.op with
  | .ld | .ldpk | .lds | .pref _ => .load n
  | .st | .sts => .store d
  | .atom op | .red op | .atoms op => .atom op (wordOfBytes d)
  | .cas | .cass => .cas (f.bBytes n k) d
  | .ldfe => .ldfe
  | .stef => .stef (f.bvals.get (2 * k))
  | .fe b => .feSet b
  | .feGet => .feGet

/-- The slot's step has been made, with the bytes it returned. -/
def State.spadDone (s : State) (g : Nat) (f : Flight) (m : MemForm) (k : Nat) (b : List Byte) (window remote : Bool) : State :=
  let s := if m.op.writesD then s.deliver g f m.d k b window remote else s
  if m.op = .ldfe then s.beginAcquire g m.scope else s

/-- A slot at window offset x. The lower slots' loads of the word have returned before it acts (R225). A result of another
core's banks comes with the reply; a VSTEF waits for its step alone (R183), and no store waits for its acknowledgement. -/
def State.spadSlot (s : State) (g : Nat) (f : Flight) (m : MemForm) (n k x : Nat) (window : Bool) : State × SlotEnd :=
  let t := s.strand g
  let pl := t.winPlace x
  let op := spadOp t f m n k
  let returns := m.op.writesD
  if m.op.waits && t.setBound && !t.aset.holds.isEmpty then (s, .fault { cause := .setViolation, detail := 7, slot := k })
  else if !s.spadOrder g pl.1 && !t.sent then (s, .stop .remote)
  else
  let s := if window then s.bindWord g f.seq else s
  if pl.1 = coreOf g then
    match s.spPerform pl.1 pl.2 op with
    | some r => (r.1.spadDone g f m k r.2 window false, .ok)
    | none => (s.enterWait g (.fullEmpty pl.1 pl.2 (m.op == .ldfe)), .stop .fullEmpty)
  else if t.sent then
    match t.reply8 with
    | none => (s, .stop .remote)
    | some b =>
      let s := s.setStrand g { t with sent := false, reply8 := none }
      (s.spadDone g f m k b window true, .ok)
  else if s.remoteFull pl.1 then (s, .stop .remote)
  else if returns || m.op == .stef then
    ((s.sendRemote g pl.1 k pl.2 op (if returns then .slot else .step)).modStrand g (fun t => { t with sent := true }), .stop .remote)
  else
    ((s.sendRemote g pl.1 k pl.2 op .none).modStrand g (fun t => { t with unacked := t.unacked + 1 }), .ok)

/-- R177. The checks of a window offset. -/
def spadCheck (t : Strand) (m : MemForm) (n k x : Nat) : Option TrapInfo :=
  if x % n ≠ 0 then some { cause := .align, kind := m.op.kind, va := some x, size := n, slot := k }
  else if t.winSize < x + n then some { cause := .spadRange, kind := m.op.kind, va := some x, size := n, slot := k }
  else none

/-! ### Translation at a slot (R194 to R196) -/

/-- What the translation of a slot gives. -/
inductive SlotPlace where
  | at (p : PAddr)
  | fail (reason : Nat)
  | stop (w : FlightStop)
  deriving DecidableEq, Repr

/-- R195, R196. Translate a slot's address; a miss stalls the rod, a host page that is not present stops the word. -/
def State.slotPlace (s : State) (g va : Nat) (k : Access) : State × SlotPlace :=
  match s.translateFor (.rod g) (s.workOf g) (coreOf g) va k with
  | (s, .ok p) => (s, .at p)
  | (s, .fail r) => (s, .fail r)
  | (s, .miss) => (s, .stop .walk)
  | (s, .host page) =>
    (s, .stop (if (s.die (dieOf g)).pri.any (fun x => x.ctx == (s.strand g).info.ctx && x.page == page) then .pageWait else .walk))

/-! ### Global slots (R215 to R221) -/

/-- R199. The cause of a translation failure. -/
def failCause (m : MemForm) (reason : Nat) : Cause :=
  match m.op with
  | .st => .storeFault
  | .atom _ | .red _ | .cas => if reason = 3 then .storeFault else .loadFault
  | _ => .loadFault

/-- R254, R256, R260. Acquire the granule of a slot's address before its access. -/
def State.slotGranule (s : State) (g va : Nat) (p : PAddr) (k : Nat) : State × SlotEnd :=
  match (s.strand g).inSet va with
  | none => (s, .ok)
  | some (_, d) =>
    match s.acquire g d p with
    | (s, .held) => (s, .ok)
    | (s, .waits listed) =>
      (s.modFlight g (fun f => { f with granule := some (granuleAt d p) }), .stop (if listed then .granWait else .granReq))
    | (s, .violation) => (s, .fault { cause := .setViolation, detail := 5, va := some va, slot := k })
    | (s, .overflow) => (s.modFlight g (fun f => { f with granule := none }), .stop .granWait)

/-- R208. Whether the slot's access is a new L1 access of its window, and whether it misses. -/
def State.l1Access (s : State) (g : Nat) (f : Flight) (p : PAddr) (k : Nat) (home : Bool) : State × Bool × Bool :=
  match List.find? (fun w => w.1 == k / 8 && w.2.1 == p.addr / 64 && w.2.2.1 == p.host) f.wins with
  | some w => (s, false, w.2.2.2)
  | none =>
    let miss := home || !(s.core (coreOf g)).l1.any (fun l => l.pa == p.line)
    (s.modFlight g (fun f => { f with wins := f.wins ++ [(k / 8, p.addr / 64, p.host, miss)] }), true, miss)

/-- R216, R273. A load of a slot. -/
def State.loadSlot (s : State) (g : Nat) (f : Flight) (m : MemForm) (p : PAddr) (n k : Nat) : State :=
  let raw := m.op == .ldpk
  let home := raw || 2 ≤ m.scope
  let r := s.l1Access g f p k home
  r.1.startLoad { id := 0, work := s.workOf g, uni := false, reg := dstReg m.d, slot := k, pa := p, n := n, data := none,
                  home := home, l1 := if r.2.1 then 1 else 0, trip := r.2.1 && r.2.2, miss := r.2.2, raw := raw, word := f.seq + 1 }

/-- R218. A prefetch of a slot's line. -/
def State.prefSlot (s : State) (g : Nat) (f : Flight) (p : PAddr) (k : Nat) (sc : Bool) : State :=
  let r := s.l1Access g f p k sc
  let w := s.workOf g
  if !r.2.1 then r.1
  else
    let s := r.1.land w [(10, 1, qDom w.q)]
    if !r.2.2 then s
    else
      let s := s.chargeLine w (dieOf g) p false false
      if sc then s
      else s.l1Put (coreOf g) { pa := p.line, ctx := w.ctx, data := s.homeBytes (coreOf g) p.line 64 }

/-- The bytes that an atomic step leaves. -/
def atomBytes (t : Strand) (f : Flight) (m : MemForm) (n k : Nat) (old : List Byte) : List Byte :=
  let d := t.dBytes m.d n k
  match m.op with
  | .atom op | .red op => bytesOfWord (atomOp op (wordOfBytes old) (wordOfBytes d))
  | .cas => if old = f.bBytes n k then d else old
  | _ => old

/-- R219 to R221, R213, R257. An atomic of a slot: in the hold buffer for a granule held by a task with one, else at the
home slice. -/
def State.atomSlot (s : State) (g : Nat) (f : Flight) (m : MemForm) (va : Nat) (p : PAddr) (n k : Nat) : State × SlotEnd :=
  let t := s.strand g
  let w := s.workOf g
  let fn := atomBytes t f m n k
  let give (s : State) (b : List Byte) : State :=
    if m.op.writesD then
      s.startLoad { id := 0, work := w, uni := false, reg := dstReg m.d, slot := k, pa := p, n := n, data := some b,
                    home := false, l1 := 0, trip := false, miss := true }
    else s
  if t.setBound && (t.inSet va).isSome then
    match s.heldAtomic g p n fn with
    | (s, some old) => (give s old, .ok)
    | (s, none) => (s, .stop .granWait)
  else
    match m.op, m.rel || (t.setBearing && (t.inSet va).isSome) with
    | .red op, false =>
      (match s.combineRoom w p op with
       | (s, true) => (s, .stop .stores)
       | (s, false) => ((s.bindOverlap g p n).combine w p op (t.vreg (dstReg m.d) k), .ok))
    | _, _ =>
      let r := s.homeAtomic g p n fn
      (give (r.1.chargeLine w (dieOf g) p true false) r.2, .ok)

/-- R217, R202, R258. A store of a slot. -/
def State.storeSlot (s : State) (g : Nat) (f : Flight) (m : MemForm) (va n k : Nat) : State × SlotEnd :=
  let t := s.strand g
  let d := t.dBytes m.d n k
  let e : SqEntry :=
    { id := 0, work := s.workOf g, va := BitVec.ofNat 64 va, data := d, slot := k, ust := false, pc := f.pc, widx := f.widx,
      group := f.group, hgroup := f.hgroup, window := (f.group * 4 + k / 8) * 2, pa := none, fromHandler := f.fromHandler }
  if t.setBearing && (t.inSet va).isSome then
    if s.storeBefore g va n then (s, .stop .stores)
    else
    match s.slotPlace g va .store with
    | (s, .stop w) => (s, .stop w)
    | (s, .fail r) => (s, .fault { cause := .storeFault, reason := r, kind := 4, va := some va, size := n, slot := k })
    | (s, .at p) =>
      match s.slotGranule g va p k with
      | (s, .ok) =>
        if t.setBound then
          match s.holdStore g p d with
          | (s, true) => (s, .ok)
          | (s, false) => (s, .stop .granWait)
        else if !s.sqRoom e then (s, .stop .stores)
        else if (s.lineBusy (coreOf g) e.work.ctx p).2 then ((s.lineBusy (coreOf g) e.work.ctx p).1, .stop .stores)
        else
          let id := s.nextId
          let s := ((s.storeVisible e.work p d).modCore (coreOf g) (fun c => { c with sq := c.sq ++ [{ e with id := id, pa := some p }] })).takeId
          (s.due (.storeArrivesHome (coreOf g) id), .ok)
      | r => r
  else if !s.sqRoom e then (s, .stop .stores)
  else (s.enqueueStore e, .ok)

/-- R215. A slot's virtual address. -/
def globalVa (t : Strand) (f : Flight) (m : MemForm) (n k : Nat) : Nat :=
  let off : DWord := (m.off.signExtend 64) * BitVec.ofNat 64 n
  match m.addr with
  | some (.reg r _) => (dword (t.vreg r k) (t.vreg (r + 1) k) + off).toNat
  | some (.uni r _) => (dword (f.uni.get r) (f.uni.get (r + 1)) + off + BitVec.ofNat 64 (k * n)).toNat
  | _ => 0

/-- R177. A slot's window offset; a full/empty word reads the register as it stood at its issue. -/
def spadOff (t : Strand) (f : Flight) (m : MemForm) (n k : Nat) : Nat :=
  let off : Word := (m.off.signExtend 32) * BitVec.ofNat 32 n
  match m.addr with
  | some (.reg r _) => ((if m.op.waits then f.bvals.get (2 * k + 1) else t.vreg r k) + off).toNat
  | some (.uni r _) => (f.uni.get r + off + BitVec.ofNat 32 (k * n)).toNat
  | _ => 0

/-- A slot of a global word (R189, R202, R215, R259). -/
def State.globalSlot (s : State) (g : Nat) (f : Flight) (m : MemForm) (n k : Nat) : State × SlotEnd :=
  let t := s.strand g
  let va := globalVa t f m n k
  let pref := match m.op with | .pref _ => true | _ => false
  let atomic := m.op.access == .atomic
  if !canonical va then
    if pref then (s, .ok)
    else (s, .fault { cause := failCause m 1, reason := 1, kind := m.op.kind, va := some va, size := n, slot := k })
  else if va % n ≠ 0 then
    if pref then (s, .ok) else (s, .fault { cause := .align, kind := m.op.kind, va := some va, size := n, slot := k })
  else
    match t.window va with
    | some x =>
      if pref then (s, .ok)
      else if t.winSize < x + n then
        (s, .fault { cause := .spadRange, kind := m.op.kind, va := some x, size := n, slot := k })
      else
        match s.spadSlot g f m n k x true with
        | (s, .ok) => (s.slotCharge [(8, n / 4)], .ok)
        | r => r
    | none =>
      if atomic && t.setBound && (t.inSet va).isNone then
        (s, .fault { cause := .setViolation, detail := 6, kind := m.op.kind, va := some va, size := n, slot := k })
      else if m.op = .st then s.storeSlot g f m va n k
      else if !pref && s.storeBefore g va n then (s, .stop .stores)
      else
        match s.slotPlace g va m.op.access, m.op with
        | (s, .stop w), _ => (s, .stop w)
        | (s, .fail _), .pref _ => (s, .ok)
        | (s, .fail r), _ =>
          (s, .fault { cause := failCause m r, reason := r, kind := m.op.kind, va := some va, size := n, slot := k })
        | (s, .at p), .pref sc => (s.prefSlot g f p k sc, .ok)
        | (s, .at p), op =>
          match (if t.setBearing && op != .ldpk then s.slotGranule g va p k else (s, .ok)) with
          | (s, .ok) =>
            (match op, s.lineBusy (coreOf g) t.info.ctx p with
             | .red _, _ => s.atomSlot g f m va p n k
             | _, (s, true) => (s, .stop .stores)
             | .ld, (s, false) | .ldpk, (s, false) => (s.loadSlot g f m p n k, .ok)
             | _, (s, false) => s.atomSlot g f m va p n k)
          | r => r

/-- One slot of a memory word. A VSTEF step is a release (R183). -/
def State.memSlot (s : State) (g : Nat) (f : Flight) (m : MemForm) (n k : Nat) : State × SlotEnd :=
  if m.op.spad then
    let t := s.strand g
    let x := spadOff t f m n k
    match spadCheck t m n k x with
    | some i => (s, .fault i)
    | none =>
      if m.op = .stef && !t.sent then
        match s.releaseWord g f m.scope with
        | (s, true) => (s.modFlight g (fun f => { f with relIds := none })).spadSlot g f m n k x false
        | (s, false) => (s, .stop .release)
      else s.spadSlot g f m n k x false
  else s.globalSlot g f m n k

/-! ### The pass -/

/-- A word stops at a slot: the cursor is set, and a strand that waits for a page or a wait list parks (R196, R256). -/
def State.stopFlight (s : State) (g k : Nat) (w : FlightStop) : State :=
  let s := s.modFlight g (fun f => { f with cursor := k, stop := w })
  if (w = .pageWait ∨ w = .granWait) ∧ (s.strand g).state = .ready then
    s.modStrand g (fun t => { t with state := .parked, wait := .group })
  else s

/-- The pass over the slots that are left, lowest first. -/
def State.runSlots (s : State) (g : Nat) (m : MemForm) (n : Nat) (wts : List (Nat × Nat)) : List Nat → State
  | [] => (s.modFlight g (fun f => { f with cursor := 32, stop := .ran })).due (.vWordCompletion g)
  | k :: ks =>
    match (s.strand g).flight with
    | none => s
    | some f =>
      match s.memSlot g f m n k with
      | (s, .ok) =>
        let s := s.slotCharge wts
        let s := { s with iss := { s.iss with slots := s.iss.slots + 1 } }
        (s.modFlight g (fun f => { f with cursor := k + 1 })).runSlots g m n wts ks
      | (s, .stop w) => s.stopFlight g k w
      | (s, .fault i) =>
        (s.stopFlight g k .faulted).raiseSlot g { i with slot := k }

/-- R206, R213, R234, R235. The release waits of a V word; a VRED flushes every entry of its context first at any scope. -/
def State.flightRelease (s : State) (g : Nat) (f : Flight) (m : MemForm) : State × Bool :=
  match m.op with
  | .red _ =>
    let r := s.flushFirst (coreOf g) (fun e => e.work.ctx == (s.strand g).info.ctx)
    let x := r.1.releaseWord g f m.scope
    (x.1, x.2 && !r.2)
  | _ => s.releaseWord g f m.scope

/-- R235. Run a word on the rod from its cursor: a release first waits, an acquire first discards, at each issue of the
word. A word whose strand has a trap to take waits for its return. -/
def State.runFlight (s : State) (g : Nat) : State :=
  let t := s.strand g
  match t.flight with
  | none => s
  | some f =>
    match memForm f.instr f.vp with
    | none => s
    | some m =>
      if !f.stop.goesOn then s
      else if !f.waited && m.rel && t.takeable.isSome then s
      else
        let r := if f.waited || !m.rel then (s, true) else s.flightRelease g f m
        let n := 4 * wcount f.vp.wd
        let ks := (slotsOf f.active).filter (fun k => f.cursor ≤ k)
        match r with
        | (s, false) => s.stopFlight g (ks.headD 32) .release
        | (s, true) =>
          let s := s.modFlight g (fun f => { f with waited := true, began := m.acq })
          let s := if m.acq && !f.began then s.beginAcquire g m.scope else s
          let b := (bSrc f.lit m f.vp).getD (.const 0)
          s.withSlots g (fun s => s.runSlots g m n (slotWeights m n b) ks)

/-- R134, R222. A slot of the strand's V word on the rod that has not acted touches n bytes from an address. -/
def State.rodTouches (s : State) (g va n : Nat) : Bool :=
  let t := s.strand g
  match t.flight with
  | none => false
  | some f =>
    match memForm f.instr f.vp with
    | none => false
    | some m =>
      let w := 4 * wcount f.vp.wd
      f.stop != .ran && !m.op.spad
        && (slotsOf f.active).any (fun k => f.cursor ≤ k && rangesMeet (globalVa t f m w k) w va n)

/-- R254, R257. A slot of the strand's V word on the rod that has not acted has a granule to acquire, or may have: its address
lies in a set. -/
def Strand.rodAcquires (t : Strand) : Bool :=
  match t.flight with
  | none => false
  | some f =>
    match memForm f.instr f.vp with
    | none => false
    | some m =>
      let w := 4 * wcount f.vp.wd
      t.setBearing && f.stop != .ran && !m.op.spad && (match m.op with | .pref _ | .ldpk => false | _ => true)
        && (slotsOf f.active).any (fun k => f.cursor ≤ k && (t.inSet (globalVa t f m w k)).isSome)

/-- R234, R257. A memory word of the strand waits for an acquire that is not complete: that of an ordered word, or a granule's. -/
def State.awaitsAcquire (s : State) : Bool := s.waits (s.old.acquiring.isSome || s.old.rodAcquires)

/-- R361. The clocks of the quad that a strand lies in run. -/
def State.clocksRun (s : State) (t : Strand) : Bool := (s.part t.info.part).chg.isNone

/-- Words of the strands that meet a test are looked at again, where their clocks run. -/
def State.retryFlights (s : State) (p : Nat → Bool) : State :=
  s.strands.foldl (fun s x =>
    match x.2.flight with
    | some f => if p x.1 && f.stop.goesOn && s.clocksRun x.2 then s.runFlight x.1 else s
    | none => s) s
def State.retryCore (s : State) (core : Nat) : State := s.retryFlights (fun g => coreOf g == core)
def State.retryDie (s : State) (die : Nat) : State := s.retryFlights (fun g => dieOf g == die)

/-! ### Issue -/

/-- R178, R214, R223. The checks of a memory word's operands. -/
def State.memOk (s : State) (m : MemForm) : Bool :=
  let p := s.vp
  let t := s.old
  let n := wcount p.wd
  p.wa == 0 && p.c == 0 && p.wd.toNat ≤ m.wide && (if m.op = .cas then p.wb == p.wd else p.wb == 0)
    && (if m.ordered then p.rm != 7 else p.rm == 0 && !p.zm)
    && (match m.addr with | some a => t.vSrcOk a | none => false)
    && (match bSrc s.iss.lit m p with | some b => t.vSrcOk b | none => false)
    && (!m.op.usesD || t.vDstOk m.d n false)

/-- The registers that a memory word waits for (R75). -/
def Strand.memPends (t : Strand) (m : MemForm) (b : VSrc) (n : Nat) : Bool :=
  (match m.op with | .pref _ => false | _ => true)
    && ((match m.addr with | some a => t.vSrcPends a | none => false) || t.vSrcPends b
        || (m.op.usesD && t.pendsV (dstReg m.d) n))

/-- The values that a memory word reads at its issue beside the registers it reads slot by slot. -/
def Strand.memVals (t : Strand) (m : MemForm) (b : VSrc) (n : Nat) (ks : List Nat) : Words :=
  ks.foldl (fun (w : Words) k =>
    if m.op.usesB then (List.range n).foldl (fun (w : Words) i => Words.set w (2 * k + i) (t.vRead 0 b k i)) w
    else if m.op.waits then
      let a := match m.addr with | some x => t.vRead 0 x k 0 | none => 0
      Words.set (Words.set w (2 * k) (t.vreg (dstReg m.d) k)) (2 * k + 1) a
    else w) []

/-- The course of a vector memory word. DESIGN CHOICE (log 117): a VLDFE or VSTEF with an all-zero active mask is a switch point
still, and its issue zeroes the latches (R80), though R70 has such a word write none. -/
def State.memWord (s : State) (i : Instr) : State :=
  match memForm i s.vp with
  | none => s.enc .illegalOpcode
  | some m =>
    let t := s.old
    let n := wcount s.vp.wd
    let b := (bSrc s.iss.lit m s.vp).getD (.const 0)
    match m.bad with
    | some c => s.enc c
    | none =>
      if !s.memOk m then s.enc .illegalOperand
      else if !t.rodFree then s.hold .rod
      else if t.memPends m b n then
        s.pendHold (m.addr.toList ++ [b]) (if m.op.usesD then [(dstReg m.d, n)] else [])
      else if t.lateWaits then s.hold .lateResult
      else
        if s.awaitsAcquire then s.hold .release
        else
          let act := s.active
          let enter := t.commitLate (lateDue (t.vseq + 1))
          let vals := enter.memVals m b n (slotsOf act)
          let s := s.modMe Strand.vEnter
          let s := if m.op.waits then s.modMe Strand.switchPoint else s
          let me := s.me
          let f : Flight :=
            { instr := i, vp := s.vp, pc := s.iss.pc, widx := s.iss.wpos, gwidx := s.iss.widx, lit := s.iss.lit,
              active := act, cursor := 0, uni := t.uregs, fmt := t.fm, bvals := vals, wins := [], seq := me.vseq,
              group := me.groups + 1, hgroup := me.hgroups, stop := .stores, waited := s.iss.waited, mask := none, mark := s.nextId,
              fromHandler := me.trap.inHandler }
          let s := s.modMe (fun t => { t with flight := some f })
          if act = 0 then ((s.modFlight s.iss.g (fun f => { f with stop := .ran })).due (.vWordCompletion s.iss.g)).done
          else (s.runFlight s.iss.g).done

/-! ### The words -/

def execVld (c : Bool) (d a o : BitVec 8) (s : State) : Host.Outcome State Fault Refusal := .next (s.memWord (.vld c d a o))
def execVst (c : Bool) (d a o : BitVec 8) (s : State) : Host.Outcome State Fault Refusal := .next (s.memWord (.vst c d a o))
def execVlds (c : Bool) (d a o : BitVec 8) (s : State) : Host.Outcome State Fault Refusal := .next (s.memWord (.vlds c d a o))
def execVsts (c : Bool) (d a o : BitVec 8) (s : State) : Host.Outcome State Fault Refusal := .next (s.memWord (.vsts c d a o))
def execVatom (c : Bool) (d a : BitVec 8) (sc : BitVec 3) (r : BitVec 1) (p : BitVec 4) (s : State) :
    Host.Outcome State Fault Refusal := .next (s.memWord (.vatom c d a sc r p))
def execVred (c : Bool) (d a : BitVec 8) (sc : BitVec 3) (r : BitVec 1) (p : BitVec 4) (s : State) :
    Host.Outcome State Fault Refusal := .next (s.memWord (.vred c d a sc r p))
def execVatoms (c : Bool) (d a : BitVec 8) (sc : BitVec 3) (r : BitVec 1) (p : BitVec 4) (s : State) :
    Host.Outcome State Fault Refusal := .next (s.memWord (.vatoms c d a sc r p))
def execVcas (c : Bool) (d a b : BitVec 8) (s : State) : Host.Outcome State Fault Refusal := .next (s.memWord (.vcas c d a b))
def execVcass (c : Bool) (d a b : BitVec 8) (s : State) : Host.Outcome State Fault Refusal := .next (s.memWord (.vcass c d a b))
def execVldfe (c : Bool) (d a o : BitVec 8) (s : State) : Host.Outcome State Fault Refusal := .next (s.memWord (.vldfe c d a o))
def execVstef (c : Bool) (d a o : BitVec 8) (s : State) : Host.Outcome State Fault Refusal := .next (s.memWord (.vstef c d a o))
def execVpref (c : Bool) (l : BitVec 1) (a o : BitVec 8) (s : State) : Host.Outcome State Fault Refusal :=
  .next (s.memWord (.vpref c l a o))
def execVldpk (c : Bool) (d a o : BitVec 8) (s : State) : Host.Outcome State Fault Refusal := .next (s.memWord (.vldpk c d a o))
def execVspfeEmpty (c : Bool) (a : BitVec 8) (s : State) : Host.Outcome State Fault Refusal := .next (s.memWord (.vspfeEmpty c a))
def execVspfeFull (c : Bool) (a : BitVec 8) (s : State) : Host.Outcome State Fault Refusal := .next (s.memWord (.vspfeFull c a))
def execVspfeGet (c : Bool) (d a : BitVec 8) (s : State) : Host.Outcome State Fault Refusal := .next (s.memWord (.vspfeGet c d a))

end Sys2Proof.Machine
end

