-- ==== Sys2Proof/Machine/MemEvents.lean ====
section
/-!
DEFINITION. The events of loads, results, the store queue, walks, host translations, the combining buffer, the shared
cache and remote scratchpad messages (chapters 03, 07 to 09).
-/

namespace Sys2Proof.Machine

/-! ### Results and loads -/

/-- R216, R208, R222. A load returns: its bytes enter its registers, and they are no longer pending. -/
def State.completeLoad (s : State) (id : Nat) : State :=
  match s.loads.find? (fun r => r.id == id) with
  | none => s
  | some r0 =>
    let s := s.bindLoad r0
    match s.loads.find? (fun r => r.id == id) with
    | none => s
    | some r =>
      let s := { s with loads := s.loads.filter (fun x => x.id != id) }
      let s := s.chargeLoad r
      if !s.liveWork r.work then s
      else
        let ws := wordsOf (r.data.getD [])
        s.modStrand r.work.g (fun t =>
          let t := ws.zipIdx.foldl (fun (t : Strand) x =>
            if r.uni then t.setU (r.reg + x.2) x.1 else t.writeV (r.reg + x.2) r.slot x.1) t
          { t with pendU := t.pendU.filter (fun x => x.2 != id), pendV := t.pendV.filter (fun x => x.2.2 != id) })

/-- GLOBAL_LOAD_COMPLETION. -/
def execGlobalLoadCompletion (id : Nat) (s : State) : Host.Outcome State Fault Refusal :=
  .next (match s.loads.find? (fun r => r.id == id) with
    | none => s
    | some r => (s.completeLoad id).retryCore (coreOf r.work.g))

/-- R73, R68. V_WORD_COMPLETION: the rod is free and older buffered results commit. -/
def execVWordCompletion (g : Nat) (s : State) : Host.Outcome State Fault Refusal :=
  .next (s.modStrand g (fun t =>
    match t.flight with
    | some f => if f.stop == .ran then (t.commitBuf (fun b => b.seq < f.seq)).freeRod else t
    | none => t))

/-- The first late result that meets a test is delivered, with its flags (R74, R111). -/
def Strand.deliverLate (t : Strand) (p : Late → Bool) : Strand :=
  match takeFirst (fun x => p x && !x.delivered) t.late with
  | none => t
  | some (x, _) =>
    let t := t.orSf x.flags
    { t with late := updWhere (fun y => y == x) (fun y => { y with delivered := true }) t.late }

/-- SPECIAL_FUNCTION_DELIVERY (R154). -/
def execSpecialFunctionDelivery (g k : Nat) (s : State) : Host.Outcome State Fault Refusal :=
  .next (s.modStrand g (fun t => t.deliverLate (fun x => x.sfu && x.slot == k)))

/-- SCRATCHPAD_RESULT_DELIVERY (R169). -/
def execScratchpadResultDelivery (g k : Nat) (s : State) : Host.Outcome State Fault Refusal :=
  .next (s.modStrand g (fun t => t.deliverLate (fun x => !x.sfu && x.slot == k)))

/-- YIELD_WINDOW_EXPIRY (R90). -/
def execYieldWindowExpiry (g : Nat) (s : State) : Host.Outcome State Fault Refusal :=
  .next (s.modStrand g (fun t => { t with yielding := false }))

/-- ISSUE_STARVATION_PROMOTION (R77). -/
def execIssueStarvationPromotion (g : Nat) (s : State) : Host.Outcome State Fault Refusal :=
  .next (s.modStrand g (fun t => if t.resident then { t with promoted := true } else t))

/-! ### The store queue and the combining buffer -/

/-- STORE_QUEUE_TRANSLATION (R202). -/
def execStoreQueueTranslation (g : Nat) (s : State) : Host.Outcome State Fault Refusal :=
  .next ((s.translateStore g).retryCore (coreOf g))

/-- STORE_ARRIVES_HOME (R210). -/
def execStoreArrivesHome (core id : Nat) (s : State) : Host.Outcome State Fault Refusal :=
  .next (match ((s.core core).sq.find? (fun e => e.id == id)).bind (·.pa) with
    | none => s
    | some p =>
      let last := ((s.core core).sq.filter (fun e => e.pa.any (fun q => q.line == p.line)
        && (s.core core).sq.any (fun f => f.id == id && f.joins e))).foldl (fun n e => max n e.id) id
      ((s.landLine core p.line last).retryCore core).flushCpls)

/-- COMBINING_ENTRY_TIMEOUT (R212). -/
def execCombiningEntryTimeout (core id : Nat) (s : State) : Host.Outcome State Fault Refusal :=
  .next (s.flushCb core (fun e => e.id == id))

/-- COMBINING_FLUSH_APPLIED (R211): one value of the entry is applied; what waits for the flush looks again. -/
def execCombiningFlushApplied (core id : Nat) (s : State) : Host.Outcome State Fault Refusal :=
  .next (((s.flushStep core id).retryStores core).retryCore core).flushCpls

/-! ### The shared cache (R438) -/

/-- R209, R438. A dirty line is written back: HBM4E to the context that last wrote it. Without
that context it is unattributed; DESIGN CHOICE (log 122): at the weight of OP7. -/
def State.writeBack (s : State) (line : Nat) (l : ScLine) : State :=
  let die := homeDie { host := false, addr := line * 64 }
  if !l.dirty then s
  else if (s.ctxs.find? l.writer.ctx).isSome then (s.needStack die true).land l.writer [(13, 1, uDom die)]
  else
    let w : Int := Config.weight 7 13
    let s := s.needStack die true
    { s with unattributed := s.unattributed.insert (uDom die) ((s.unattributed.find? (uDom die)).getD 0 + w) }

/-- SHARED_CACHE_WRITEBACK: the slice replaces a line. -/
def execSharedCacheWriteback (line : Nat) (s : State) : Host.Outcome State Fault Refusal :=
  .next (match s.scache.find? line with
    | none => s
    | some l => let s := s.writeBack line l; { s with scache := s.scache.erase line })

/-- R438. Write back the dirty lines that meet a test; they stay, clean. -/
def State.cleanLines (s : State) (p : Nat → Bool) : State :=
  s.scache.foldl (fun s x =>
    if p x.1 && x.2.dirty then
      let s := s.writeBack x.1 x.2
      { s with scache := s.scache.insert x.1 { x.2 with dirty := false } }
    else s) s

/-- SHARED_CACHE_FLUSH. -/
def execSharedCacheFlush (die : Nat) (s : State) : Host.Outcome State Fault Refusal :=
  .next (s.cleanLines (fun line => homeDie { host := false, addr := line * 64 } == die))

/-! ### Walks (R192 to R194) -/

/-- The virtual address at which a word stands. -/
def Strand.flightVa (t : Strand) : Option Nat :=
  match t.flight with
  | none => none
  | some f => (memForm f.instr f.vp).map (fun m => globalVa t f m (4 * wcount f.vp.wd) f.cursor)

/-- Engines of a die that may wait for a translation look again. -/
def State.retryEngines (s : State) (die : Nat) : State :=
  let s := s.cores.foldl (fun s c =>
    if dieOfCore c.1 = die then
      c.2.creq.foldl (fun s r => s.dueOnce (if r.started then .copyChunkComplete c.1 r.id else .copyRequestStart c.1 r.id)) s
    else s) s
  s.quarters.foldl (fun s q => if dieOfCore (coreOfQuarter q.1) = die then s.kickM q.1 else s) s

/-- Everyone on a die who may wait for a translation looks again: the words on the rods, the stores and the engines. A
group finds what has come when it is presented. -/
def State.retryWaiters (s : State) (die : Nat) : State :=
  let s := s.cores.foldl (fun s c => if dieOfCore c.1 = die then s.retryStores c.1 else s) s
  (s.retryEngines die).retryDie die

/-- PAGE_WALK_START: of 64 walkers a free one takes the oldest queued miss; the walk is counted as it starts (R425). -/
def execPageWalkStart (die : Nat) (s : State) : Host.Outcome State Fault Refusal :=
  let d := s.die die
  .next (if 64 ≤ (d.walks.filter (·.walking)).length then s
    else match d.walks.find? (fun w => !w.walking) with
      | none => s
      | some w =>
        let full : Bool := decide (256 ≤ (d.walks.filter (fun x => !x.walking)).length)
        let s := (s.setDie die { d with walks := updWhere (fun x => x.id == w.id) (fun x => { x with walking := true }) d.walks }).due
          (.pageWalkComplete die w.id)
        let s := s.countEv (512 + die) 0x23 w.work.ctx 1
        if full then s.retryWaiters die else s)

/-- PAGE_WALK_COMPLETE. -/
def execPageWalkComplete (die id : Nat) (s : State) : Host.Outcome State Fault Refusal :=
  .next (match (s.die die).walks.find? (fun w => w.id == id && w.walking) with
    | none => s
    | some w =>
      let r := s.walk w.ctx (w.vpn * 65536)
      let s := s.chargeWalk w.work die r.2
      let s := match r.1 with
        | .error reason =>
          (s.modDie die (fun d => { d with walks := d.walks.filter (fun x => x.id != id) })).failAsks die w.ctx false w.vpn reason
        | .ok e =>
          let served (x : WalkReq) : Bool := x.id == id || (!x.walking && e.hits x.ctx (x.vpn * 65536))
          (s.modDie die (fun d => { d with walks := d.walks.filter (fun x => !served x),
                                           asks := d.asks.filter (fun a => a.host || !e.hits a.ctx (a.page * 65536)) })).fillTlbs
            (coreOf w.work.g) e
      let s := if (s.die die).walks.any (fun x => !x.walking) then s.dueOnce (.pageWalkStart die) else s
      s.retryWaiters die)

/-! ### Host translations (R196) -/

/-- R196. The words that waited for a host page: a V word is re-issued from its slot, and a parked group goes on. -/
def Strand.pageCame (t : Strand) (rod : Bool) : Strand :=
  let came (f : Flight) : Flight := if f.stop = .pageWait then { f with stop := .reissue } else f
  Strand.unpark (if rod then { t with flight := t.flight.map came } else t)

/-- R196. A host page of a context has been answered on a die: those who wait for it go on. -/
def State.pageArrived (s : State) (die ctx page : Nat) : State :=
  let mine (a : AskItem) : Bool := a.host && a.ctx == ctx && a.page == page
  let asks := (s.die die).asks.filter mine
  let s := s.modDie die (fun d => { d with asks := d.asks.filter (fun a => !mine a) })
  let s := asks.foldl (fun s a =>
    match a.who with
    | .rod g => s.modStrand g (fun t => t.pageCame true)
    | .group g => s.modStrand g (fun t => t.pageCame false)
    | .mma id => (match s.quarterOfMma id with | some q => s.pageForMma q id | none => s)
    | .launch _ => s.dueOnce (.launchCommandCheck ctx)
    | _ => s) s
  let s := s.ifaces.foldl (fun s i => if pasidKey i.2.pasid = ctx then s.kickIface i.1 else s) s
  s.flushCpls.retryWaiters die

/-- ATS_TRANSLATION_COMPLETION: a translation enters the die's TLB; a page that is not present is asked for by PRI, 64
at a time. -/
def execAtsTranslationCompletion (die id : Nat) (present : Bool) (hpa : Nat) (s : State) : Host.Outcome State Fault Refusal :=
  let d := s.die die
  .next (match d.atsReqs.find? (fun x => x.id == id) with
    | none => s
    | some r =>
      let rest := d.atsReqs.filter (fun x => x.id != id)
      if present then
        (s.setDie die { d with atsReqs := rest, ats := d.ats ++ [{ ctx := r.ctx, page := r.page, hpa := hpa }] }).pageArrived die
          r.ctx r.page
      else if 64 ≤ d.pri.length then s.send (.ats die id r.ctx r.page)
      else ((s.setDie die { d with atsReqs := rest, pri := d.pri ++ [r] }).send (.pri die id r.ctx r.page)).retryDie die)

/-- R196, R215. A page that a V word waits for is refused: it faults at its slot; a prefetch drops the slot and goes on
from the next. -/
def State.refuseSlot (s : State) (g : Nat) : State :=
  let t := s.strand g
  match t.flight with
  | none => s
  | some f =>
    if f.stop != .pageWait then s
    else
      match memForm f.instr f.vp, t.flightVa with
      | some m, some va =>
        (match m.op with
         | .pref _ => s.modStrand g (fun t => Strand.unpark { t with flight := some { f with cursor := f.cursor + 1, stop := .reissue } })
         | _ =>
           (s.modStrand g (fun t => Strand.unpark { t with flight := some { f with stop := .faulted } })).raiseSlot g
             { cause := failCause m 5, reason := 5, kind := m.op.kind, va := some va, size := 4 * wcount f.vp.wd,
               slot := f.cursor })
      | _, _ => s

/-- R196, R287. A page is refused: V words that wait for it fault at their slot, and MMAs fault where they are suspended;
groups, stores and copies find the failure when they look again. -/
def State.pageRefused (s : State) (die : Nat) (r : HostReq) : State :=
  let asks := (s.die die).asks.filter (fun a => a.host && a.ctx == r.ctx && a.page == r.page)
  let s := s.failAsks die r.ctx true r.page 5
  let s := asks.foldl (fun s a =>
    let taken := ((s.takeAnswer die a).map (·.1)).getD s
    match a.who with
    | .rod g => taken.refuseSlot g
    | .group g => s.modStrand g (fun t => t.pageCame false)
    | .mma id => (match s.quarterOfMma id with | some q => (taken.refuseMma q id).kickM q | none => taken)
    | .launch _ => s.dueOnce (.launchCommandCheck r.ctx)
    | _ => s) s
  let s := if die = 0 then s.ringRefused r.ctx r.page else s
  s.retryWaiters die

/-- PRI_RESPONSE. -/
def execPriResponse (die id : Nat) (granted : Bool) (hpa : Nat) (s : State) : Host.Outcome State Fault Refusal :=
  let d := s.die die
  .next (match d.pri.find? (fun x => x.id == id) with
    | none => s
    | some r =>
      let rest := d.pri.filter (fun x => x.id != id)
      if granted then
        (s.setDie die { d with pri := rest, ats := d.ats ++ [{ ctx := r.ctx, page := r.page, hpa := hpa }] }).pageArrived die
          r.ctx r.page
      else (s.setDie die { d with pri := rest }).pageRefused die r)

/-- PRI_TIMEOUT: 100 ms have passed. -/
def execPriTimeout (die id : Nat) (s : State) : Host.Outcome State Fault Refusal :=
  let d := s.die die
  .next (match d.pri.find? (fun x => x.id == id) with
    | none => s
    | some r => (s.setDie die { d with pri := d.pri.filter (fun x => x.id != id) }).pageRefused die r)

/-- ATS_INVALIDATE: the answers of host addresses from `base` on are discarded. -/
def execAtsInvalidate (die ctx base len : Nat) (s : State) : Host.Outcome State Fault Refusal :=
  .next (s.modDie die (fun d =>
    { d with ats := d.ats.filter (fun x => !(x.ctx == ctx && rangesMeet (x.page * 65536) 65536 base len)) }))

/-! ### Remote messages and full/empty waits (R171, R174) -/

/-- A word on the rod that waited in the scratchpad goes on. -/
def State.goOn (s : State) (g : Nat) : State :=
  (s.modFlight g (fun f => if f.stop = .fullEmpty then { f with stop := .remote } else f)).runFlight g

/-- R171. The reply of a message has its bytes, or its acknowledgement is on its way. A reply goes to slot k or, with k = 32,
to the word of another pipe; 33 is an acknowledgement. A VSTEF goes on as soon as its step is made. -/
def State.replyTo (s : State) (m : RemoteMsg) (b : List Byte) : State :=
  if !s.liveWork m.work then s
  else
    match m.dest with
    | .none => s.due (.remoteReply m.work.g 33)
    | .step =>
      let s := s.modStrand m.work.g (fun t => { t with reply8 := some [], unacked := t.unacked + 1 })
      (s.due (.remoteReply m.work.g 33)).goOn m.work.g
    | .uni n =>
      let t := s.strand m.work.g
      if t.usent = some n then (s.setStrand m.work.g { t with ureply := some b }).due (.remoteReply m.work.g m.k)
      else if t.trap.leftSent.any (fun x => x.1 == n) then
        s.setStrand m.work.g { t with trap := { t.trap with leftReply := some b } }
      else s
    | .load id =>
      ({ s with loads := updWhere (fun r => r.id == id) (fun r => { r with data := some b }) s.loads } : State).due
        (.globalLoadCompletion id)
    | .slot => (s.modStrand m.work.g (fun t => { t with reply8 := some b })).due (.remoteReply m.work.g m.k)

/-- REMOTE_MESSAGE: the oldest message to a core is performed at its banks; a VLDFE or VSTEF step that finds its bit in the
wrong state leaves its strand Waiting at its slot (R183). -/
def execRemoteMessage (core : Nat) (s : State) : Host.Outcome State Fault Refusal :=
  .next (match (s.core core).remote with
    | [] => s
    | m :: rest =>
      let s := s.modCore core (fun c => { c with remote := rest })
      let s := if rest.isEmpty then s else s.dueOnce (.remoteMessage core)
      match s.spPerform core m.off m.op true with
      | none =>
        if !s.liveWork m.work then s
        else
          ((s.modStrand m.work.g (fun t => { t with sent := false })).modFlight m.work.g (fun f => { f with stop := .fullEmpty })).enterWait
            m.work.g (.fullEmpty core m.off (m.op == .ldfe))
      | some (s, b) => s.replyTo m b)

/-- REMOTE_REPLY: the slot or the word that waits for the reply goes on; a store's acknowledgement is counted. -/
def execRemoteReply (g k : Nat) (s : State) : Host.Outcome State Fault Refusal :=
  let t := s.strand g
  let mine : Bool := match t.flight with | some f => f.stop == .remote && f.cursor == k && t.reply8.isSome | none => false
  .next (if mine then (s.goOn g).retryDie (dieOf g)
    else if k ≠ 33 then s
    else (s.modStrand g (fun t => { t with unacked := t.unacked - 1 })).retryDie (dieOf g))

/-- FULL_EMPTY_WAKE: the strand goes on if the bit stands as it awaits (R174). -/
def execFullEmptyWake (g : Nat) (s : State) : Host.Outcome State Fault Refusal :=
  let t := (s.strand g).bring (fun w => match w with | .fullEmpty _ _ _ => true | _ => false)
  .next (match t.wait with
    | .fullEmpty core off b =>
      if t.state = .waiting ∧ (s.core core).full off = b then (s.setStrand g t.wakeUp).goOn g else s
    | _ => s)

end Sys2Proof.Machine
end

