-- ==== Sys2Proof/Machine/Control.lean ====
section
/-!
DEFINITION. The uniform memory words (R132 to R134), the return stack (R87, R88), the system registers (R124 to R126), the
control words but EXIT (R85 to R95), the mask words (R96) and the trap-record words (R394).
-/

namespace Sys2Proof.Machine

/-! ### Uniform memory words -/

/-- What a uniform access comes to before it takes effect. -/
inductive UPlace where
  | at (p : PAddr)
  | hold (h : Hold)
  | trap (i : TrapInfo)
  deriving DecidableEq, Repr

/-- R132, R133, R254. The place of a uniform access to global memory, after the strand's earlier accesses to its bytes that
have not been made (R134, R222); a set-bearing task acquires the granule. -/
def State.uPlace (s : State) (va n : Nat) (k : Access) (cause : Nat → TrapInfo) : State × UPlace :=
  let g := s.iss.g
  let t := s.strand g
  if !canonical va then (s, .trap (cause 1))
  else if s.waits (s.rodTouches g va n) then (s, .hold .stores)
  else
    match s.translateFor (.group g) (s.workOf g) (coreOf g) va k with
    | (s, .miss) => (s, .hold .walk)
    | (s, .fail r) => (s, .trap (cause r))
    | (s, .host _) => (s, .hold .pageWait)
    | (s, .ok p) =>
      let r := s.lineBusy (coreOf g) t.info.ctx p
      if s.waits (s.storeBefore g va n) then (s, .hold .stores)
      else if s.waits r.2 then (r.1, .hold .stores)
      else
        match t.inSet va with
        | none => (s, .at p)
        | some (_, d) =>
          if !t.setBearing then (s, .at p)
          else
            match s.acquire g d p with
            | (s, .held) => (s, .at p)
            | (s, .waits _) => (s, .hold .granule)
            | (s, .violation) => (s, .trap { cause := .setViolation, detail := 5, va := some va })
            | (s, .overflow) => (s, .hold .granule)

/-- R132. The address of a uniform access. -/
def State.uAddr (s : State) (ra : Nat) (o : BitVec 8) (n : Nat) : Nat :=
  (s.u2 ra + (o.signExtend 64) * BitVec.ofNat 64 n).toNat

/-- R172, R186. A uniform access at a core's banks waits for the strand's earlier accesses: a V memory word with slots that
have not acted, and messages to other cores. -/
def State.bankWaits (s : State) (core : Nat) : Bool := s.waits (s.old.vmemOut || !s.spadOrder s.iss.g core)

/-- R133, R171, R172. A uniform access in the window whose result the group awaits: its step at the banks; a remote one
awaits its reply, but for a store. -/
def State.uWindow (s : State) (x n : Nat) (store : Option (List Byte)) (k : State → List Byte → State) : State :=
  let g := s.iss.g
  let t := s.strand g
  let kind := if store.isSome then 4 else 1
  if t.winSize < x + n then s.trap { cause := .spadRange, kind := kind, va := some x, size := n }
  else
    let pl := t.winPlace x
    let op : SpOp := match store with | some d => .store d | none => .load n
    let s := s.raw 8 (n / 4)
    if t.usent.isNone && s.bankWaits pl.1 then s.hold .release
    else if pl.1 = coreOf g then
      match s.spPerform pl.1 pl.2 op with
      | some r => k r.1 r.2
      | none => s.hold .release
    else if store.isSome then
      if s.remoteFull pl.1 then s.hold .release
      else k ((s.sendRemote g pl.1 32 pl.2 op .none).modStrand g (fun t => { t with unacked := t.unacked + 1 })) []
    else if t.usent.isSome then
      match t.ureply with
      | none => s.hold .release
      | some b => k (s.modStrand g (fun t => { t with usent := none, ureply := none })) b
    else if s.remoteFull pl.1 then s.hold .release
    else
      (((s.sendRemote g pl.1 32 pl.2 op (.uni s.nextId)).modStrand g (fun t => { t with usent := some s.nextId })).takeId).hold .release

/-- R75, R133, R171. A load from the window into uniform registers, which are pending until it returns. -/
def State.uWindowLoad (s : State) (x n rd : Nat) : State :=
  let g := s.iss.g
  let t := s.strand g
  if t.winSize < x + n then s.trap { cause := .spadRange, kind := 1, va := some x, size := n }
  else
    let pl := t.winPlace x
    let s := s.raw 8 (n / 4)
    let r : LoadReq := { id := 0, work := s.workOf g, uni := true, reg := rd, slot := 0, pa := { host := false, addr := 0 }, n := n,
                         data := none, home := false, l1 := 0, trip := false, miss := false }
    if s.bankWaits pl.1 then s.hold .release
    else if pl.1 = coreOf g then
      match s.spPerform pl.1 pl.2 (.load n) with
      | some (s, b) => (s.startLoad { r with data := some b }).done
      | none => s.hold .release
    else if s.remoteFull pl.1 then s.hold .release
    else ((s.sendRemote g pl.1 33 pl.2 (.load n) (.load s.nextId)).startLoad { r with remote := true }).done

/-- The load of a uniform word from global memory: its destination is pending until it returns. -/
def State.uLoad (s : State) (rd n : Nat) (p : PAddr) : State :=
  let g := s.iss.g
  let miss := !(s.core (coreOf g)).l1.any (fun l => l.pa == p.line)
  s.startLoad { id := 0, work := s.workOf g, uni := true, reg := rd, slot := 0, pa := p, n := n, data := none, home := false,
                l1 := 1, trip := miss, miss := miss }

/-- ULD (R132, R133). -/
def execUld (_c : Bool) (d a o : BitVec 8) (s : State) : Host.Outcome State Fault Refusal :=
  let p := s.up
  let rd := ureg p.xd d
  let ra := ureg p.xa a
  let n := 4 * wcount p.w
  .next (s.uWord (p.imm == 0 && p.xb == 0) [(rd, n / 4), (ra, 2)] (fun s =>
    if s.awaitsAcquire then s.hold .release
    else
      let va := s.uAddr ra o n
      let bad (r : Nat) : TrapInfo := { cause := .loadFault, reason := r, kind := 1, va := some va, size := n }
      if !canonical va then s.trap (bad 1)
      else if va % n ≠ 0 then s.trap { cause := .align, kind := 1, va := some va, size := n }
      else
        match s.me.window va with
        | some x => s.uWindowLoad x n rd
        | none =>
          match s.uPlace va n .load bad with
          | (s, .trap i) => s.trap i
          | (s, .hold h) => s.hold h
          | (s, .at p) => (s.uLoad rd n p).done))

/-- The store queue entry of a uniform word. -/
def State.uEntry (s : State) (va : Nat) (d : List Byte) : SqEntry :=
  let t := s.me
  { id := 0, work := s.myWork, va := BitVec.ofNat 64 va, data := d, slot := 0, ust := true, pc := s.iss.pc, widx := s.iss.wpos,
    group := t.groups + 1, hgroup := t.hgroups, window := (t.groups + 1) * 8 + 1, pa := none, fromHandler := t.trap.inHandler }

/-- A uniform store that is already translated: into the hold buffer of a task that has one, else the store queue. -/
def State.storePlaced (s : State) (va : Nat) (p : PAddr) (d : List Byte) : State :=
  let g := s.iss.g
  let e := s.uEntry va d
  if (s.strand g).setBound then
    match s.holdStore g p d with
    | (s, true) => s.done
    | (s, false) => s.hold .granule
  else if !s.sqRoom e then s.hold .storeQueueFull
  else
    let id := s.nextId
    let s := ((s.storeVisible e.work p d).modCore (coreOf g) (fun c => { c with sq := c.sq ++ [{ e with id := id, pa := some p }] })).takeId
    (s.due (.storeArrivesHome (coreOf g) id)).done

/-- UST (R132, R133, R202). -/
def execUst (_c : Bool) (d a o : BitVec 8) (s : State) : Host.Outcome State Fault Refusal :=
  let p := s.up
  let rd := ureg p.xd d
  let ra := ureg p.xa a
  let n := 4 * wcount p.w
  .next (s.uWord (p.imm == 0 && p.xb == 0) [(rd, n / 4), (ra, 2)] (fun s =>
    if s.awaitsAcquire then s.hold .release
    else
      let va := s.uAddr ra o n
      let bad (r : Nat) : TrapInfo := { cause := .storeFault, reason := r, kind := 4, va := some va, size := n }
      let data := bytesOfWords ((List.range (n / 4)).map (fun i => s.u (rd + i)))
      if !canonical va then s.trap (bad 1)
      else if va % n ≠ 0 then s.trap { cause := .align, kind := 4, va := some va, size := n }
      else
        match s.me.window va with
        | some x => s.uWindow x n (some data) (fun s _ => s.done)
        | none =>
          if s.me.setBearing && (s.me.inSet va).isSome then
            match s.uPlace va n .store bad with
            | (s, .trap i) => s.trap i
            | (s, .hold h) => s.hold h
            | (s, .at p) => s.storePlaced va p data
          else
            let e := s.uEntry va data
            if s.waits (s.rodTouches s.iss.g va n) then s.hold .stores
            else if !s.sqRoom e then s.hold .storeQueueFull
            else (s.enqueueStore e).done))

/-! ### The return stack (R87, R88) -/

/-- What a return-stack step comes to. -/
inductive RsRes where
  | ok (s : State) (v : DWord)
  | stop (s : State)

/-- R87. The trap of a spill or refill that fails. -/
def spillTrap (va reason kind : Nat) : TrapInfo :=
  { cause := .rsSpillFault, reason := reason, kind := kind, va := some va, size := 8 }

/-- R87. StoreSpill: eight bytes stored precisely at the spill pointer, charged as a uniform store. -/
def State.storeSpill (s : State) (va : Nat) (v : DWord) : RsRes :=
  if va % 8 ≠ 0 then .stop (s.trap (spillTrap va 0 4))
  else if s.awaitsAcquire then .stop (s.hold .release)
  else
    match s.me.window va with
    | some x =>
      let s := (s.raw 1 1).uWindow x 8 (some (natLe 8 v.toNat)) (fun s _ => s.done)
      (match s.iss.res with
       | .done => .ok s v
       | .trap _ => .stop (s.trap (spillTrap va 0 4))
       | _ => .stop s)
    | none =>
      match s.uPlace va 8 .store (fun r => spillTrap va r 4) with
      | (s, .trap i) => .stop (s.trap i)
      | (s, .hold h) => .stop (s.hold h)
      | (s, .at p) =>
        let s := (s.storePlaced va p (natLe 8 v.toNat)).raw 1 1
        (match s.iss.res with | .done => .ok s v | _ => .stop s)

/-- R87. LoadSpill: eight bytes read precisely, charged as a uniform load. -/
def State.loadSpill (s : State) (va : Nat) : RsRes :=
  if va % 8 ≠ 0 then .stop (s.trap (spillTrap va 0 1))
  else if s.awaitsAcquire then .stop (s.hold .release)
  else
    match s.me.window va with
    | some x =>
      let s := (s.raw 1 1).uWindow x 8 none (fun s b => (s.modMe (fun t => { t with ureply := some b })).done)
      (match s.iss.res with
       | .done => .ok (s.modMe (fun t => { t with ureply := none })) (BitVec.ofNat 64 (leNat (s.me.ureply.getD [])))
       | .trap _ => .stop (s.trap (spillTrap va 0 1))
       | _ => .stop s)
    | none =>
      match s.uPlace va 8 .load (fun r => spillTrap va r 1) with
      | (s, .trap i) => .stop (s.trap i)
      | (s, .hold h) => .stop (s.hold h)
      | (s, .at p) =>
        let g := s.iss.g
        let miss := !(s.core (coreOf g)).l1.any (fun l => l.pa == p.line)
        let r : LoadReq := { id := s.nextId, work := s.workOf g, uni := true, reg := 0, slot := 0, pa := p, n := 8, data := none,
                             home := false, l1 := 1, trip := miss, miss := miss }
        let s := s.bindOverlap g p 8
        let x := s.readLoad r
        .ok ((x.1.chargeLoad r).raw 1 1) (BitVec.ofNat 64 (leNat x.2))

/-- R87. PushReturn. DESIGN CHOICE (log 118): the trap at a full RSDEPTH, where there is no access, records no address, kind or
size. -/
def State.pushReturn (s : State) (a : DWord) : RsRes :=
  let t := s.me
  let push (s : State) : RsRes :=
    .ok (s.modMe (fun t => { t with rstk := a :: t.rstk, rsDepth := t.rsDepth + 1 })) a
  if t.rsDepth = 0xFFFFFFFF#32 then .stop (s.trap { cause := .rsSpillFault })
  else if t.rstk.length < 8 then push s
  else
    match s.storeSpill t.rsp.toNat (t.rstk.getLastD 0) with
    | .stop s => .stop s
    | .ok s _ => push (s.modMe (fun t => { t with rstk := t.rstk.dropLast, rsp := t.rsp + 8 }))

/-- R87. PopReturn. -/
def State.popReturn (s : State) : RsRes :=
  let t := s.me
  if t.rsDepth = 0 then .stop (s.trap { cause := .illegalPc })
  else
    match t.rstk with
    | a :: l => .ok (s.modMe (fun t => { t with rstk := l, rsDepth := t.rsDepth - 1 })) a
    | [] =>
      match s.loadSpill (t.rsp - 8).toNat with
      | .stop s => .stop s
      | .ok s v => .ok (s.modMe (fun t => { t with rsp := t.rsp - 8, rsDepth := t.rsDepth - 1 })) v

/-- R88. Spill every held entry, oldest first. The spills made before one that must wait stand, and are charged as they
are made; `n` is the length of the issue-time charges before the first. -/
def State.spillAll (s : State) (n : Nat) : List DWord → RsRes
  | [] => .ok s 0
  | a :: l =>
    match s.storeSpill s.me.rsp.toNat a with
    | .stop s' =>
      (match s'.iss.res with
       | .held _ => .stop (s'.land s.myWork ((s.iss.raw.drop n).map (fun x => (x.1, x.2, qDom s.myQuarter))))
       | _ => .stop s')
    | .ok s _ => (s.modMe (fun t => { t with rstk := t.rstk.dropLast, rsp := t.rsp + 8 })).spillAll n l

/-- R88. A write of RSP_LO, RSP_HI or RSDEPTH. -/
def State.writeStackReg (s : State) (r : Nat) (v : Word) : State :=
  match s.spillAll s.iss.raw.length s.me.rstk.reverse with
  | .stop s => s
  | .ok s _ =>
    (s.modMe (fun t =>
      match r with
      | 0x0A => { t with rsp := dword v (hiWord t.rsp) }
      | 0x0B => { t with rsp := dword (loWord t.rsp) v }
      | _ => { t with rsDepth := v })).done

/-- RETURN_STACK_REGISTER_WRITE. -/
def execReturnStackRegisterWrite (r : BitVec 8) (v : BitVec 32) (s : State) : Host.Outcome State Fault Refusal :=
  .next (if r.toNat < 0x0A ∨ 0x0C < r.toNat then s.enc .priv else s.writeStackReg r.toNat v)

/-! ### System registers (R124 to R126) -/

/-- R125. A write of a generator key register zeroes the counter. -/
def State.writeRngKey (s : State) (r : Nat) (v : Word) : State :=
  let s := s.modMe (fun t =>
    { t with rngKey := if r = 0x18 then dword v (hiWord t.rngKey) else dword (loWord t.rngKey) v, rngCtr := 0 })
  ({ s with iss := { s.iss with keyed := true } } : State).done

/-- RNGKEY_WRITE. -/
def execRngkeyWrite (r : BitVec 8) (v : BitVec 32) (s : State) : Host.Outcome State Fault Refusal :=
  .next (if r = 0x18 ∨ r = 0x19 then s.writeRngKey r.toNat v else s.enc .priv)

/-- R124. The value of a system register; `none` for an unassigned number. -/
def State.sysReg (s : State) (n : Nat) : Option Word :=
  let t := s.old
  let i := t.info
  let w (n : Nat) : Option Word := some (BitVec.ofNat 32 n)
  let hasSpad := i.spLog != 0
  match n with
  | 0x00 => w (i.strandId % 256)
  | 0x01 => w i.cohort
  | 0x02 => w i.cx
  | 0x03 => w i.cy
  | 0x04 => w i.cz
  | 0x05 => w (i.nstrand % 512)
  | 0x06 => some i.live
  | 0x07 => w (s.pkg.num % 1024 * 2 ^ 16 + gslot s.iss.g)
  | 0x08 => some t.sf
  | 0x09 => some t.sfarm
  | 0x0A => some (loWord t.rsp)
  | 0x0B => some (hiWord t.rsp)
  | 0x0C => some t.rsDepth
  | 0x18 => some (loWord t.rngKey)
  | 0x19 => some (hiWord t.rngKey)
  | 0x1A => w (if hasSpad then i.spBase else 0)
  | 0x1B => w i.spLog
  | 0x1C => some (if hasSpad then loWord i.winBase else 0)
  | 0x1D => some (if hasSpad then hiWord i.winBase else 0)
  | 0x30 => w (i.part % 64 * 2 ^ 12 + i.ctx % 4096)
  | 0x31 =>
    let p := s.part i.part
    w ((if p.chg.isSome then 2 ^ 6 else 0) + p.maxop % 8 * 2 ^ 3 + p.op % 8)
  | n => if 0x10 ≤ n ∧ n ≤ 0x17 then some (t.fm.get (n - 0x10)) else none

/-- R126. A word that names SF waits for the rod and for pending special functions. -/
def State.whenSettled (s : State) (k : State → State) : State :=
  if s.waits (!s.old.rodFree) then s.hold .rod else if s.waits (!s.old.flagsSettled) then s.hold .lateResult else k s

/-- R125, R126. Read a system register. -/
def State.readSys (s : State) (n rd : Nat) : State :=
  match s.sysReg n with
  | none => s.enc .illegalOperand
  | some v => if n = 0x08 then s.whenSettled (fun s => (s.setU rd s.old.sf).done) else (s.setU rd v).done

/-- R124. System registers that a program may write. -/
def sysWritable (n : Nat) : Bool :=
  n == 0x08 || n == 0x09 || (0x0A ≤ n && n ≤ 0x0C) || (0x10 ≤ n && n ≤ 0x17) || n == 0x18 || n == 0x19

/-- R125. Write a system register, with the field rules of its own. -/
def State.writeSys (s : State) (n : Nat) (v : Word) : State :=
  if n = 0x08 then
    s.whenSettled (fun s => if v.toNat ≥ 2 ^ 6 then s.trap { cause := .illegalOperand } else (s.setSf v).done)
  else if n = 0x09 then
    if v &&& ~~~0x20#32 ≠ 0 then s.trap { cause := .illegalOperand } else (s.modMe (fun t => { t with sfarm := v })).done
  else if 0x0A ≤ n ∧ n ≤ 0x0C then s.writeStackReg n v
  else if 0x10 ≤ n ∧ n ≤ 0x17 then
    if v = 0 || fmValid v then (s.modMe (fun t => { t with fm := t.fm.set (n - 0x10) v })).done
    else s.trap { cause := .illegalOperand }
  else if n = 0x18 ∨ n = 0x19 then s.writeRngKey n v
  else s.enc .priv

/-- USR. -/
def execUsr (_c : Bool) (d a : BitVec 8) (s : State) : Host.Outcome State Fault Refusal :=
  .next (s.uWord (s.sysReg a.toNat).isSome [(d.toNat, 1)] (fun s => s.readSys a.toNat d.toNat))

/-- USW. -/
def execUsw (_c : Bool) (d a : BitVec 8) (s : State) : Host.Outcome State Fault Refusal :=
  .next (s.uWord true [(a.toNat, 1)] (fun s => s.writeSys d.toNat (s.u a.toNat)) (!sysWritable d.toNat))

/-- SF_ACCESS. -/
def execSfAccess (op : SfOp) (s : State) : Host.Outcome State Fault Refusal :=
  .next (match op with
    | .read d => if s.uOk d.toNat 1 then s.readSys 0x08 d.toNat else s.enc .illegalOperand
    | .write v => s.writeSys 0x08 v)

/-! ### Control words (R85 to R95) -/

/-- BR (R54, R86). -/
def execBr (_c : Bool) (a : BitVec 8) (k : BitVec 3) (o : BitVec 13) (s : State) : Host.Outcome State Fault Refusal :=
  let usesA := 1 ≤ k.toNat && k.toNat ≤ 4
  .next (s.uWord (usesA || a == 0) (if usesA then [(a.toNat, 1)] else []) (fun s =>
    if s.waits (5 ≤ k.toNat && s.old.flight.any (fun f => f.mask == some 0)) then s.hold .mask
    else
      let v := s.u a.toNat
      let em := s.mask 0
      let take : Bool :=
        match k.toNat with
        | 0 => true | 1 => v == 0 | 2 => v != 0 | 3 => v.msb | 4 => !v.msb
        | 5 => em == 0 | 6 => em != 0 | _ => em == s.old.info.live
      (if take then s.goTo (targetPc s.iss.pc o.toInt) else s).done))

/-- JMP. -/
def execJmp (_c : Bool) (o : BitVec 24) (s : State) : Host.Outcome State Fault Refusal :=
  .next (s.uWord true [] (fun s => (s.goTo (targetPc s.iss.pc o.toInt)).done))

/-- LOOP. -/
def execLoop (_c : Bool) (d : BitVec 8) (i : BitVec 16) (s : State) : Host.Outcome State Fault Refusal :=
  .next (s.uWord true [(d.toNat, 1)] (fun s =>
    let v := s.u d.toNat - 1
    let s := s.setU d.toNat v
    (if v = 0 then s else s.goTo (targetPc s.iss.pc i.toInt)).done))

/-- R86, R87. Push the return address and transfer. -/
def State.callTo (s : State) (t : DWord) : State :=
  match s.pushReturn (nextPacket s.iss.pc) with
  | .stop s => s
  | .ok s _ => (s.goTo t).done

/-- CALL. -/
def execCall (_c : Bool) (o : BitVec 24) (s : State) : Host.Outcome State Fault Refusal :=
  .next (s.uWord true [] (fun s => s.callTo (targetPc s.iss.pc o.toInt)))

/-- CALLI. -/
def execCalli (_c : Bool) (a : BitVec 8) (s : State) : Host.Outcome State Fault Refusal :=
  .next (s.uWord true [(a.toNat, 2)] (fun s =>
    let t := s.u2 a.toNat
    if pcValid t then s.callTo t else s.trap { cause := .illegalPc }))

/-- BRI. -/
def execBri (_c : Bool) (a : BitVec 8) (s : State) : Host.Outcome State Fault Refusal :=
  .next (s.uWord true [(a.toNat, 2)] (fun s =>
    let t := s.u2 a.toNat
    if pcValid t then (s.goTo t).done else s.trap { cause := .illegalPc }))

/-- RET. -/
def execRet (_c : Bool) (s : State) : Host.Outcome State Fault Refusal :=
  .next (s.uWord true [] (fun s =>
    match s.popReturn with
    | .stop s => s
    | .ok s t => if pcValid t then (s.goTo t).done else s.trap { cause := .illegalPc }))

/-- YIELD (R90): a switch point, and a window in which other strands go first. -/
def execYield (_c : Bool) (s : State) : Host.Outcome State Fault Refusal :=
  .next (s.uWord true [] (fun s =>
    ((s.modMe (fun t => { t.switchPoint with yielding := true })).dueOnce (.yieldWindowExpiry s.iss.g)).done))

/-- SDRAIN (R93). -/
def execSdrain (_c : Bool) (s : State) : Host.Outcome State Fault Refusal :=
  .next (s.uWord true [] (fun s => if s.waits (s.untranslated s.iss.g) then s.hold .stores else s.done))

/-- R236. A look at the conditions of a FENCE: its release waits, and its wait for loads and atomics. -/
def State.fenceStep (s : State) (g scope kind : Nat) : State × Bool :=
  let acq := !(kind % 2 = 1 && 0 < scope) || !s.loadsOut g
  if 2 ≤ kind then
    let r := s.releaseStep g scope
    (r.1, r.2 && acq)
  else (s, acq)

/-- FENCE (R55, R236). -/
def execFence (_c : Bool) (sc : BitVec 3) (k : BitVec 2) (s : State) : Host.Outcome State Fault Refusal :=
  let scope := sc.toNat
  .next (s.uWord (sc != 7 && k != 0) [] (fun s =>
    let r := if s.iss.go then (s, true) else s.fenceStep s.iss.g scope k.toNat
    if !r.2 then r.1.hold (.fence scope k.toNat)
    else (if k.toNat % 2 = 1 ∧ 2 ≤ scope then r.1.l1DropCtx s.myCore s.myCtx else r.1).done))

/-- TRAP (R95). -/
def execTrap (_c : Bool) (d : BitVec 8) (s : State) : Host.Outcome State Fault Refusal :=
  .next (s.uWord true [] (fun s => s.trap { cause := .trapInsn, tcode := d.toNat }))

/-- TRET (R395). A trap here, or a store fault of the drain, is a double fault. -/
def execTret (_c : Bool) (s : State) : Host.Outcome State Fault Refusal :=
  .next (s.uWord true [] (fun s =>
    if s.waits (!s.old.rodFree) then s.hold .rod
    else if s.waits (s.untranslated s.iss.g) then s.hold .stores
    else if !pcValid (s.old.rec64 4) then s.trap { cause := .illegalPc }
    else
      let s := (s.leaveHandler s.iss.g).reenterReported s.iss.g
      let s := s.retryStores s.myCore
      (s.goTo s.me.pc s.me.widx).done) (!s.old.trap.inHandler))

/-! ### Mask words (R96) -/

/-- The common course of a mask word, which waits for a pending mask that it names (R145). -/
def State.maskWord (s : State) (masks : List (BitVec 3)) (regs : List (BitVec 8)) (k : State → State) : State :=
  s.uWord true (regs.map (fun r => (r.toNat, 1))) (fun s =>
    if s.waits (s.old.flight.any (fun f => masks.any (fun m => f.mask == some m.toNat))) then s.hold .mask else (k s).done)

/-- Write a mask, within LIVE (R66). -/
def State.putMask (s : State) (d : BitVec 3) (v : Word) : State := s.modMe (fun t => t.setMask d.toNat v)
/-- The lowest set bit of a mask, or all ones. -/
def lowestBit (m : Word) : Word := match slotsOf m with | [] => 0xFFFFFFFF#32 | k :: _ => BitVec.ofNat 32 k

def execMget (_c : Bool) (d : BitVec 8) (a : BitVec 3) (s : State) : Host.Outcome State Fault Refusal :=
  .next (s.maskWord [a] [d] (fun s => s.setU d.toNat (s.mask a.toNat)))
def execMset (_c : Bool) (d : BitVec 3) (a : BitVec 8) (s : State) : Host.Outcome State Fault Refusal :=
  .next (s.maskWord [d] [a] (fun s => s.putMask d (s.u a.toNat)))
def execMand (_c : Bool) (d a : BitVec 3) (s : State) : Host.Outcome State Fault Refusal :=
  .next (s.maskWord [d, a] [] (fun s => s.putMask d (s.mask d.toNat &&& s.mask a.toNat)))
def execMandn (_c : Bool) (d a : BitVec 3) (s : State) : Host.Outcome State Fault Refusal :=
  .next (s.maskWord [d, a] [] (fun s => s.putMask d (s.mask d.toNat &&& ~~~(s.mask a.toNat))))
def execMor (_c : Bool) (d a : BitVec 3) (s : State) : Host.Outcome State Fault Refusal :=
  .next (s.maskWord [d, a] [] (fun s => s.putMask d (s.mask d.toNat ||| s.mask a.toNat)))
def execMxor (_c : Bool) (d a : BitVec 3) (s : State) : Host.Outcome State Fault Refusal :=
  .next (s.maskWord [d, a] [] (fun s => s.putMask d (s.mask d.toNat ^^^ s.mask a.toNat)))
def execMlive (_c : Bool) (d : BitVec 3) (s : State) : Host.Outcome State Fault Refusal :=
  .next (s.maskWord [d] [] (fun s => s.putMask d s.old.info.live))
def execMpopc (_c : Bool) (d : BitVec 8) (a : BitVec 3) (s : State) : Host.Outcome State Fault Refusal :=
  .next (s.maskWord [a] [d] (fun s => s.setU d.toNat (BitVec.ofNat 32 (popCount (s.mask a.toNat)))))
def execMfirst (_c : Bool) (d : BitVec 8) (a : BitVec 3) (s : State) : Host.Outcome State Fault Refusal :=
  .next (s.maskWord [a] [d] (fun s => s.setU d.toNat (lowestBit (s.mask a.toNat))))
def execMput (_c : Bool) (d : BitVec 3) (a : BitVec 8) (s : State) : Host.Outcome State Fault Refusal :=
  .next (s.maskWord [d] [a] (fun s =>
    let k := (s.u a.toNat).toNat
    if k < 32 then s.putMask d (s.mask d.toNat ||| BitVec.ofNat 32 (2 ^ k)) else s))
def execMtake (_c : Bool) (d : BitVec 8) (a : BitVec 3) (s : State) : Host.Outcome State Fault Refusal :=
  .next (s.maskWord [a] [d] (fun s =>
    let m := s.mask a.toNat
    (s.setU d.toNat (lowestBit m)).putMask a (m &&& (m - 1))))

/-! ### Trap-record words (R388, R394) -/

/-- R388. Reserved bits of a writable word of the trap record; `none` for a word that holds a read-only field. -/
def recordRsv (n : Nat) : Option Word :=
  if n = 4 ∨ n = 5 ∨ n = 7 ∨ n = 8 ∨ n = 9 ∨ n = 32 ∨ 64 ≤ n then some 0
  else if n = 6 then some 0xFFFFE000#32
  else if n = 10 then some 0x80808080#32
  else none

/-- TRD. -/
def execTrd (_c : Bool) (d a : BitVec 8) (s : State) : Host.Outcome State Fault Refusal :=
  .next (s.uWord true [(d.toNat, 1)] (fun s => (s.setU d.toNat (s.old.trap.record.get a.toNat)).done) (!s.old.trap.inHandler))

/-- TWR. It acts on the copy that the core holds, which goes to the frame later (R394). -/
def execTwr (_c : Bool) (d a : BitVec 8) (s : State) : Host.Outcome State Fault Refusal :=
  .next (s.uWord true [(a.toNat, 1)] (fun s =>
    if s.u a.toNat &&& (recordRsv d.toNat).getD 0 ≠ 0 then s.trap { cause := .illegalOperand }
    else
      (s.modMe (fun t => { t with trap := { t.trap with record := t.trap.record.set d.toNat (s.u a.toNat) } })).done)
    (!s.old.trap.inHandler || (recordRsv d.toNat).isNone))

end Sys2Proof.Machine
end

