-- ==== Sys2Proof/Machine/Handles.lean ====
section
/-!
DEFINITION. Handles (R315 to R319): what ends one, the traps of a failed one, and the HND words.
-/

namespace Sys2Proof.Machine

/-- R316. The trap of a failure status, if it has one; `spad` says that the failing side is scratchpad. -/
def statusCause (code : Nat) (spad : Bool) : Option Cause :=
  match code with
  | 2 => some (if spad then .spadRange else .loadFault)
  | 3 => some (if spad then .spadRange else .storeFault)
  | 4 => some .illegalOperand
  | 5 => some .setViolation
  | _ => none

/-- The strand that a failure is reported to: the holder, or the exporter of an export not yet imported (R316). -/
def State.holderOf (s : State) (w : Work) (exported : Option Word) : Option Nat :=
  match exported with
  | none => if s.liveWork w then some w.g else none
  | some tok =>
    ((s.core (coreOf w.g)).exports.find? (fun e => e.token == tok)).bind (fun e =>
      if (s.strand e.exporter).resident && (s.strand e.exporter).info.work == e.work then some e.exporter else none)

/-- R315, R319. A Pending handle becomes Done with a status word. -/
def State.finishHandle (s : State) (w : Work) (h : Nat) (exported : Option Word) (status : Word) : State :=
  match exported with
  | some tok =>
    s.modCore (coreOf w.g) (fun c => { c with exports := updWhere (fun e => e.token == tok) (fun e => { e with handle := .done status }) c.exports })
  | none => if s.liveWork w then (s.modStrand w.g (fun t => t.setHandle h (.done status))).wakeHandle w.g else s

/-- R316, R410. A failed request's trap on its holder; a holder that is gone leaves an entry in the context's log. -/
def State.failHandle (s : State) (w : Work) (h : Nat) (exported : Option Word) (handlerWork : Nat) (i : TrapInfo) : State :=
  match s.holderOf w exported with
  | some g => s.raise g { i with kind := 6, handle := h } none handlerWork
  | none => s.addLog w.ctx (logBytes 3 i.cause.code 0 w.ctx (gslot w.g) s.podTime (i.va.getD 0) [])

/-- Name a Pending handle anew in the requests and collectives that complete it: those of handle h of the owner, or those
of the owner's token. The new owner is strand g'. -/
def State.renameHandle (s : State) (own : Work) (h : Nat) (tok : Option Word) (g' h' : Nat) (exported : Option Word) : State :=
  let hit (w : Work) (x : Nat) (e : Option Word) : Bool :=
    if tok.isSome then coreOf w.g == coreOf own.g && e == tok else e.isNone && w == own && x == h
  let req (r : CopyReq) : CopyReq :=
    if hit r.own r.handle r.exported then { r with own := s.workOf g', handle := h', exported := exported } else r
  let mem (m : CollMember) : CollMember :=
    if hit m.own m.handle m.exported then { m with own := s.workOf g', handle := h', exported := exported } else m
  { s with cores := s.cores.map (fun (c : Nat × CoreSt) => (c.1, { c.2 with creq := c.2.creq.map req })),
           colls := s.colls.map (fun c => { c with members := c.members.map mem }) }

/-- R307, R315. A word that makes a handle Pending waits while it is. -/
def State.whenFree (s : State) (h : Nat) (k : State → State) : State :=
  if s.me.handle h = .pending then s.hold .handlePending else k s

/-- R237, R240. Every earlier access of the strand has returned or reached its `.core` visibility point. -/
def State.afterOwn (s : State) (k : State → State) : State :=
  if s.waits (s.untranslated s.iss.g) then s.hold .stores
  else if s.waits (s.loadsOut s.iss.g || s.remotesOut s.iss.g) then s.hold .release
  else k s

/-- R77, R298. A free request entry of the core's copy engine, which every C word needs to issue. -/
def State.whenEngine (s : State) (k : State → State) : State :=
  if 32 ≤ (s.core s.myCore).creq.length then s.hold .copyEngine else k s

/-- The common course of a HND word (R298, R300). -/
def State.hndWord (s : State) (regs : List (Nat × Nat)) (k : State → State) : State :=
  s.uWord true regs (fun s => s.whenEngine k)

/-- R259. A word that a set-bearing task may not use while it holds a granule. -/
def State.unlessHolding (s : State) (k : State → State) : State :=
  if s.me.setBound && !s.me.aset.holds.isEmpty then s.trap { cause := .setViolation, detail := 7 } else k s

/-! ### The HND words (R317) -/

/-- A handle as the word reads it. -/
def State.myHandle (s : State) (h : BitVec 4) : Handle := s.old.handle h.toNat

/-- HWAIT: a switch point. -/
def execHwait (_c : Bool) (d : BitVec 8) (h : BitVec 4) (s : State) : Host.Outcome State Fault Refusal :=
  .next (s.hndWord [(d.toNat, 1)] (fun s =>
    s.unlessHolding (fun s =>
      let s := s.modMe Strand.switchPoint
      match s.myHandle h with
      | .pending => (s.enterWait s.iss.g (.handle h.toNat d.toNat)).done
      | x => ((s.setU d.toNat (handleStatus x)).modMe (fun t => t.setHandle h.toNat .empty)).done)))

def execHtest (_c : Bool) (d : BitVec 8) (h : BitVec 4) (s : State) : Host.Outcome State Fault Refusal :=
  .next (s.hndWord [(d.toNat, 1)] (fun s => (s.setU d.toNat (handleStatus (s.myHandle h))).done))

/-- R318. Cancel the Pending request of a handle; its effect comes at a chunk boundary. The handle is read as it stood before
the group (R31), so that a request of the same group is left alone. -/
def execHcancel (_c : Bool) (h : BitVec 4) (s : State) : Host.Outcome State Fault Refusal :=
  .next (s.hndWord [] (fun s =>
    if s.myHandle h ≠ .pending then s.done
    else
    let w := s.myWork
    let mine (r : CopyReq) : Bool := r.own == w && r.exported.isNone && r.handle == h.toNat && r.failed.isNone
    let cancel (r : CopyReq) : CopyReq := { r with cancel := true }
    let ids := s.cores.flatMap (fun c => (c.2.creq.filter mine).map (fun r => (c.1, r.id)))
    let s : State := { s with cores := s.cores.map (fun (c : Nat × CoreSt) => (c.1, { c.2 with creq := updWhere mine cancel c.2.creq })) }
    (ids.foldl (fun s i => s.dueOnce (.copyCancelEffect i.1 i.2)) s).done))

def execHmove (_c : Bool) (d h : BitVec 4) (s : State) : Host.Outcome State Fault Refusal :=
  .next (s.hndWord [] (fun s =>
    if d = h then s.done
    else
      s.whenFree d.toNat (fun s =>
        let x := s.myHandle h
        let s := if x = .pending then s.renameHandle s.myWork h.toNat none s.iss.g d.toNat none else s
        (s.modMe (fun t => (t.setHandle d.toNat x).setHandle h.toNat .empty)).done)))

/-- R319. -/
def execHexport (_c : Bool) (d : BitVec 8) (h : BitVec 4) (s : State) : Host.Outcome State Fault Refusal :=
  .next (s.hndWord [(d.toNat, 1)] (fun s =>
    let g := s.iss.g
    let c := s.core (coreOf g)
    if 256 ≤ c.exports.length then s.hold .exportFull
    else
      let serial := c.serial % (2 ^ 24 - 1) + 1
      let tok := BitVec.ofNat 32 (s.me.info.strandId % 256 * 2 ^ 24 + serial)
      let x := s.myHandle h
      let s := if x = .pending then s.renameHandle s.myWork h.toNat none g h.toNat (some tok) else s
      let s := s.modCore (coreOf g) (fun c => { c with serial := serial, exports := c.exports ++
        [{ token := tok, work := s.me.info.work, exporter := g, handle := x }] })
      ((s.setU d.toNat tok).modMe (fun t => t.setHandle h.toNat .empty)).done))

/-- R319. An export entry that a strand may import, with its core: one of its cohort, whose strands may stand on two cores,
or one of its own as a task. -/
def State.exportFor (s : State) (g : Nat) (tok : Word) : Option (Nat × ExportEntry) :=
  let w := (s.strand g).info.work
  s.cores.findSome? (fun c => (c.2.exports.find? (fun e => e.token == tok && e.work == w
    && (match w with | .cohort _ _ => true | .task _ => e.exporter == g))).map (fun e => (c.1, e)))

def execHimport (_c : Bool) (d : BitVec 4) (a : BitVec 8) (s : State) : Host.Outcome State Fault Refusal :=
  .next (s.hndWord [(a.toNat, 1)] (fun s =>
    s.whenFree d.toNat (fun s =>
      let g := s.iss.g
      let tok := s.u a.toNat
      match s.exportFor g tok with
      | none => (s.modMe (fun t => t.setHandle d.toNat (.done 7))).done
      | some (core, e) =>
        let s := if e.handle = .pending then s.renameHandle (s.workOf e.exporter) 0 (some tok) g d.toNat none else s
        let s := s.modCore core (fun c => { c with exports := c.exports.filter (fun x => x != e) })
        (s.modMe (fun t => t.setHandle d.toNat e.handle)).done)))

end Sys2Proof.Machine
end

