-- ==== Sys2Proof/Machine/Matrix.lean ====
section
/-!
DEFINITION. The M words (R285 to R294) and the events of the matrix units and of the slew governor (R278, R279, R356,
R357).
-/

namespace Sys2Proof.Machine

/-! ### Words -/

/-- The common course of an M word: its own encoding check with its tile and uniform registers, and the tile that a
handler may not name (R275, R290). The continuation gets the physical tile. -/
def State.mWord (s : State) (ok : Bool) (t : BitVec 2) (regs : List (Nat × Nat)) (k : Nat → State → State) : State :=
  match s.old.info.tiles[t.toNat]? with
  | none => s.enc .illegalOperand
  | some p =>
    if !ok || regs.any (fun r => !s.old.uGroupOk r.1 r.2) then s.enc .illegalOperand
    else if s.me.trap.inHandler && ((s.quarter s.myQuarter).tileSt p).susp.isSome then s.trap { cause := .illegalOperand }
    else if regs.any (fun r => s.old.pendsU r.1 r.2) then s.holdU regs
    else k p s

/-- R277. Accept a word into the queue, or behind the suspended MMA of its tile. DESIGN CHOICE (log 144): a word that the tile keeps
behind a suspended MMA holds no entry of the queue, as the suspended MMA does not (R288). -/
def State.acceptM (s : State) (p : Nat) (kind : MKind) : State :=
  let q := s.myQuarter
  let e : MEntry := { id := s.nextId, work := s.myWork, tile := p, kind := kind, staged := none, running := false, row := 0,
                      handlerWork := s.me.handlerMark, info := s.me.info }
  let t := (s.quarter q).tileSt p
  let s := s.takeId
  if t.susp.isSome || !t.heldWords.isEmpty then
    (s.modTile q p (fun t => { t with heldWords := t.heldWords ++ [e] })).kickM q
  else (s.modQuarter q (fun x => { x with mq := x.mq ++ [e] })).kickM q

/-- R277. An entry of the queue is free. -/
def State.whenQueue (s : State) (k : State → State) : State :=
  if 4 ≤ (s.quarter s.myQuarter).mq.length then s.hold .matrixUnit else k s

/-- Four uniform registers as a layout word (R281). -/
def State.u128 (s : State) (n : Nat) : BitVec 128 := BitVec.ofNat 128 ((s.u2 n).toNat + (s.u2 (n + 2)).toNat * 2 ^ 64)

/-- MMA. -/
def State.mmaWord (s : State) (t : BitVec 2) (fn a b : Nat) : State :=
  s.mWord true t [(a, 4), (b, 4)] (fun p s =>
    let args : MmaArgs := { fmt := fn, la := s.u128 a, lb := s.u128 b, fms := s.old.fm, sel := s.mask 0, r0 := 0 }
    if !(layoutOf args.la).ok fn true args.fms || !(layoutOf args.lb).ok fn false args.fms then s.trap { cause := .illegalOperand }
    else if args.sel = 0 then s.done
    else s.whenQueue (fun s => s.afterOwn (fun s =>
      let q := s.myQuarter
      if (s.quarter q).unit = .idle then
        ((s.modQuarter q (fun x => { x with request := true })).governM q).hold .matrixUnit
      else (s.acceptM p (.mma args)).done)))

/-- MMA, with FN6 the format code. -/
def execMma (_c : Bool) (t : BitVec 2) (f : BitVec 6) (a b : BitVec 8) (s : State) : Host.Outcome State Fault Refusal :=
  .next (if 6 < f.toNat then s.enc .illegalOpcode else s.mmaWord t f.toNat a.toNat b.toNat)

/-- MZERO. -/
def execMzero (_c : Bool) (t : BitVec 2) (s : State) : Host.Outcome State Fault Refusal :=
  .next (s.mWord true t [] (fun p s => s.whenQueue (fun s =>
    let sel := s.mask 0
    ((s.acceptM p (.mzero sel)).raw 21 (2 * popCount sel)).done)))

/-- R292. The registers of a column-block word are aligned and allotted. -/
def Strand.blockOk (t : Strand) (a : Nat) : Bool := a % 16 == 0 && a ≤ 112 && a + 16 ≤ t.info.vrows

/-- R292. The charge of a column-block word. -/
def State.blockCharge (s : State) (a : Nat) (sel : Word) : State :=
  let n := popCount sel
  ((s.raw 5 (n * opFileOf a 16)).raw 6 (n * mainFileOf a 16)).raw 21 (2 * n)

/-- The strand's results on their way to a range of registers (R292). -/
def Strand.lateIn (t : Strand) (r n : Nat) : Bool := t.late.any (fun x => !x.delivered && r ≤ x.reg && x.reg < r + n)

/-- MTOV: its registers are pending until the port has written them, and the results that have come for them commit first. -/
def execMtov (_c : Bool) (t : BitVec 2) (k : BitVec 3) (a : BitVec 8) (s : State) : Host.Outcome State Fault Refusal :=
  let r := a.toNat
  .next (s.mWord (s.old.blockOk r) t [] (fun p s =>
    if !s.old.rodFree then s.hold .rod
    else if s.old.pendsV r 16 then s.pendHold [] [(r, 16)]
    else if s.old.lateIn r 16 then s.hold .lateResult
    else s.whenQueue (fun s =>
      let sel := s.mask 0
      let id := s.nextId
      let s := s.modMe (fun t => (t.commitBuf (fun b => b.seq ≤ s.old.vseq)).commitLate (fun x =>
        x.delivered && x.seq ≤ s.old.vseq && r ≤ x.reg && x.reg < r + 16))
      let s := s.modMe (fun t =>
        { t with pendV := t.pendV ++ (slotsOf sel).flatMap (fun k => (List.range 16).map (fun i => (r + i, k, id))) })
      ((s.acceptM p (.mtov sel r k.toNat)).blockCharge r sel).done)))

/-- MFROMV reads its registers at issue: every earlier result, though one that is not yet at its distance stays on its way to
the main file (R74, R76). -/
def execMfromv (_c : Bool) (t : BitVec 2) (k : BitVec 3) (a : BitVec 8) (s : State) : Host.Outcome State Fault Refusal :=
  let r := a.toNat
  .next (s.mWord (s.old.blockOk r) t [] (fun p s =>
    if !s.old.rodFree then s.hold .rod
    else if s.old.pendsV r 16 then s.pendHold [] [(r, 16)]
    else if s.old.late.any (fun x => !x.delivered) then s.hold .lateResult
    else s.whenQueue (fun s =>
      let sel := s.mask 0
      let old := s.old.commitAll
      let vals := (slotsOf sel).flatMap (fun k => (List.range 16).map (fun i => (32 * i + k, old.vreg (r + i) k)))
      let s := s.modMe (fun t => t.commitBuf (fun b => b.seq ≤ s.old.vseq))
      ((s.acceptM p (.mfromv sel k.toNat vals)).blockCharge r sel).done)))

/-- R293, R313. A byte-barrier offset that a word names: its trap, if it has one. -/
def State.barrierTrap (s : State) (o : Nat) : Option TrapInfo :=
  if o % 16 ≠ 0 then some { cause := .align, va := some o, size := 16 }
  else if s.me.winSize < o + 16 then some { cause := .spadRange, va := some o, size := 16 }
  else none

/-- R298, R315. A request takes an entry, and its handle is Pending. -/
def State.newRequest (s : State) (form h : Nat) (regs : List Word) (list : Option (Nat × Nat × Nat)) : State :=
  let r : CopyReq :=
    { id := s.nextId, work := s.myWork, own := s.myWork, handle := h, exported := none, form := form, regs := regs, list := list, shape := none,
      started := false, drain := [], done := [], tagged := [], info := s.me.info, cancel := false, failed := none, status := 0,
      handlerWork := s.me.handlerMark }
  ((s.modCore s.myCore (fun c => { c with creq := c.creq ++ [r] })).modMe (fun t => t.setHandle h .pending)).takeId

/-- MDRAIN. -/
def execMdrain (_c : Bool) (t : BitVec 2) (a : BitVec 8) (add : BitVec 1) (h : BitVec 4) (s : State) :
    Host.Outcome State Fault Refusal :=
  .next (s.mWord true t [(a.toNat, 8)] (fun p s =>
    s.unlessHolding (fun s =>
      let regs := (List.range 8).map (fun i => s.u (a.toNat + i))
      let o := (s.u (a.toNat + 7)).toNat
      match if o = 0xFFFFFFFF then none else s.barrierTrap o with
      | some i => s.trap i
      | none =>
        s.whenFree h.toNat (fun s => s.whenEngine (fun s => s.whenQueue (fun s => s.afterOwn (fun s =>
          let id := s.nextId
          let s := s.newRequest (6 + add.toNat) h.toNat regs none
          ((s.acceptM p (.mdrain id)).raw 21 64).done)))))))

/-- R294. The state of a tile as MRP reads it for its strand's work; words that earlier work left on it do not count. A drain
reads its tile as soon as it is the tile's oldest word. DESIGN CHOICE (log 143): WORDS, of 4 bits, reads 15 for more than 15
words. -/
def QuarterSt.mrp (q : QuarterSt) (p : Nat) (w : Work) : Word :=
  let t := q.tileSt p
  let mine := q.mq.filter (fun e => e.tile == p && e.work == w)
  let n := mine.length + t.heldWords.length + (if t.susp.isSome then 1 else 0)
  let st := if t.susp.isSome then 2
    else match mine.head? with
      | some { kind := .mdrain _, .. } => 3
      | _ => if 0 < n then 1 else 0
  let notrap := match t.susp with | some m => m.trap.isNone | none => false
  BitVec.ofNat 32 ((if t.stale.isSome then 0 else t.rp) + st * 2 ^ 8 + min n 15 * 2 ^ 10 + (if notrap then 2 ^ 14 else 0))

/-- MRP. -/
def execMrp (_c : Bool) (t : BitVec 2) (a : BitVec 8) (s : State) : Host.Outcome State Fault Refusal :=
  .next (match s.old.info.tiles[t.toNat]? with
    | none => s.enc .illegalOperand
    | some p => s.uWord true [(a.toNat, 1)] (fun s => (s.setU a.toNat ((s.quarter s.myQuarter).mrp p s.myWork)).done))

/-! ### Events of the unit -/

/-- An entry of the queue has changed. -/
def State.putM (s : State) (q : Nat) (e : MEntry) : State :=
  s.modQuarter q (fun x => { x with mq := updWhere (fun m => m.id == e.id) (fun _ => e) x.mq })

/-- MMA_STAGING_COMPLETE: the pipes read on; the operands are in a staging buffer when every unit has been read (R279), and
a byte that cannot be read stops the MMA (R287). -/
def execMmaStagingComplete (q id : Nat) (s : State) : Host.Outcome State Fault Refusal :=
  .next (match (s.quarter q).mq.find? (fun e => e.id == id && e.staged.isNone && e.fail.isNone && !e.running) with
    | none => s
    | some e =>
      match e.kind with
      | .mma a =>
        let r := s.pipeStep e (stageUnits a)
        let s := r.1
        let e' := r.2
        if (stageUnits a).length ≤ e'.pos then
          (s.putM q { e' with staged := some (stagingOf a e'.got.bytes), pos := 0, got := {} }).kickM q
        else if e'.fail.isSome then (s.putM q e').kickM q
        else if e'.pos = e.pos then s.putM q e'
        else (s.putM q e').dueOnce (.mmaStagingComplete q id)
      | _ => s)

/-- MMA_START. -/
def execMmaStart (q : Nat) (s : State) : Host.Outcome State Fault Refusal :=
  let x := s.quarter q
  .next (match x.ready, x.current with
    | some e, none =>
      (match x.unit with
       | .running =>
         let go (m : MEntry) : MEntry := { m with running := true }
         (s.setQuarter q { x with mq := updWhere (fun m => m.id == e.id) go x.mq, lastWork := e.work }).dueOnce (.mmaRowCommit q)
       | .stopping => s.governM q
       | .idle => (s.setQuarter q { x with request := true }).governM q)
    | _, _ => s)

/-- The running MMA passes to the next row. DESIGN CHOICE (log 143): meanwhile the tile's row progress is the number of rows that
have passed. -/
def State.nextRow (s : State) (q : Nat) (e : MEntry) : State :=
  let go (m : MEntry) : MEntry := { m with row := e.row + 1, pos := 0, got := {}, fail := none }
  let s := s.modQuarter q (fun x => { x with mq := updWhere (fun m => m.id == e.id) go x.mq })
  let s := s.modTile q e.tile (fun t => { t with rp := e.row + 1 })
  if 64 ≤ e.row + 1 then s.dueOnce (.mmaComplete q) else s.dueOnce (.mmaRowCommit q)

/-- R279, R286. The clocks for which the unit stalled at a row whose A bytes it had to read. -/
def State.stallRow (s : State) (q : Nat) (e : MEntry) : State :=
  let n := Config.stallClocks s.free
  if n = 0 then s.stepFree else s.stepFree.land e.work [(19, n, qDom q)]

/-- R285, R286. A selected row whose bytes are all there commits. -/
def State.commitRow (s : State) (q : Nat) (e : MEntry) (a : MmaArgs) (st : Staging) : State :=
  let la := layoutOf a.la
  let row := e.got.bytes.take (la.rowBytes a.fmt true)
  let scales := e.got.bytes.drop (la.rowBytes a.fmt true)
  let s := if (rowUnitsOf a e.row).isEmpty then s else s.stallRow q e
  let s := (s.land e.work [(mmaClass a.fmt, mmaK a.fmt / 64, qDom q)]).countEv (coreOfQuarter q) 0x05 e.work.ctx 1
  (s.modTile q e.tile (fun t => { t with data := mmaRow a st row scales e.row t.data })).nextRow q e

/-- MMA_ROW_COMMIT: the pipes read on for the next row of the running MMA, which commits when its bytes are there, or
passes as two filler cycles (R279, R286). -/
def execMmaRowCommit (q : Nat) (s : State) : Host.Outcome State Fault Refusal :=
  .next (match (s.quarter q).current with
    | none => s
    | some e =>
      if 64 ≤ e.row then s.dueOnce (.mmaComplete q)
      else
        match e.kind, e.staged with
        | .mma a, some st =>
          if !rowSelected a.sel e.row then (s.land e.work [(19, 2, qDom q)]).nextRow q e
          else if e.fail.isSome then s.kickM q
          else
            let r := s.pipeStep e (rowUnitsOf a e.row)
            let s := r.1
            let e' := r.2
            if (rowUnitsOf a e.row).length ≤ e'.pos then s.commitRow q e' a st
            else if e'.fail.isSome then ((s.stallRow q e').putM q e').kickM q
            else if e'.pos = e.pos then s.putM q e'
            else (s.putM q e').dueOnce (.mmaRowCommit q)
        | _, _ => s)

/-- MMA_COMPLETE: the last row has committed; the row progress returns to 0. -/
def execMmaComplete (q : Nat) (s : State) : Host.Outcome State Fault Refusal :=
  .next (match (s.quarter q).current with
    | none => s
    | some e =>
      if e.row < 64 then s
      else
        let s := s.modTile q e.tile (fun t => { t with rp := 0 })
        ((s.dropM q e.id).kickM q).endRun q)

/-- MMA_SUSPENSION: the running MMA stops at its row, or the oldest MMA of a tile in staging (R287, R288). -/
def execMmaSuspension (q : Nat) (s : State) : Host.Outcome State Fault Refusal :=
  .next (match (s.quarter q).stops with
    | none => s
    | some (e, x) => s.suspendM q e e.row x)

/-- R291, R292. What the port of a tile does to its elements: MZERO and MFROMV. -/
def portWrite (kind : MKind) (d : Words) : Words :=
  match kind with
  | .mzero sel => d.filter (fun x => !rowSelected sel (x.1 / 64))
  | .mfromv _ blk vals =>
    vals.foldl (fun (d : Words) v =>
      let i := v.1 / 32
      let k := v.1 % 32
      d.set (64 * (if i < 8 then k else k + 32) + 8 * blk + i % 8) v.2) d
  | _ => d

/-- R292. MTOV writes the vector registers, which are no longer pending. -/
def Strand.portRead (t : Strand) (d : Words) (sel : Word) (reg blk id : Nat) : Strand :=
  let t := (slotsOf sel).foldl (fun (t : Strand) k =>
    (List.range 16).foldl (fun (t : Strand) i =>
      t.writeV (reg + i) k (d.get (64 * (if i < 8 then k else k + 32) + 8 * blk + i % 8))) t) t
  { t with pendV := t.pendV.filter (fun x => x.2.2 != id) }

/-- TILE_PORT_COMPLETE: the oldest word of a tile has run on the tile's port (R291 to R293). -/
def execTilePortComplete (q tile : Nat) (s : State) : Host.Outcome State Fault Refusal :=
  let x := s.quarter q
  .next (match x.mq.find? (fun e => e.tile == tile) with
    | none => s
    | some e =>
      if e.kind.isMma then s
      else
        let s := s.dropM q e.id
        let d := (x.tileSt tile).data
        let s :=
          match e.kind with
          | .mtov sel reg blk => if s.liveWork e.work then s.modStrand e.work.g (fun t => t.portRead d sel reg blk e.id) else s
          | .mdrain id =>
            let put (r : CopyReq) : CopyReq := { r with drain := (List.range 4096).map (fun i => d.get i) }
            (s.modCore (coreOfQuarter q) (fun c => { c with creq := updWhere (fun r => r.id == id) put c.creq })).dueOnce
              (.copyRequestStart (coreOfQuarter q) id)
          | k => s.modTile q tile (fun t => { t with data := portWrite k t.data })
        s.kickM q)

/-! ### The slew governor (R356, R357) -/

/-- R356. The limit on the change of the active count at a boundary. -/
def slewLimit (a : Nat) : Nat := if a < 8 then 2 else if a < 16 then 4 else if a < 32 then 8 else if a < 64 then 16 else 32

/-- Insert by the clock at which a unit entered Stopping, earlier entries first. -/
def insertStop (x : Nat × QuarterSt) : List (Nat × QuarterSt) → List (Nat × QuarterSt)
  | [] => [x]
  | y :: l => if x.2.stopAt < y.2.stopAt then x :: y :: l else y :: insertStop x l

/-- R357. Grant a unit: it is Running, and what it holds can start. -/
def State.grantM (s : State) (q : Nat) : State := (s.modQuarter q (fun x => { x with unit := .running, request := false })).kickM q

/-- R357. The fillers that a Stopping unit has run at a boundary, one in each of its own clocks, rounded up to the clock in
which it acts on the boundary. -/
def QuarterSt.fillers (x : QuarterSt) : Nat := (x.stopRun + 699) / 700

/-- R357, R361. A Stopping unit is charged the fillers it has run up to a boundary, to the context of its last MMA. One whose
clocks are stopped runs none. -/
def State.fillM (s : State) (q : Nat) : State :=
  let x := s.quarter q
  if !s.quarterRuns q then s
  else
  let s := s.setQuarter q { x with stopRun := x.stopRun + s.boundary q, stopDone := x.fillers }
  if x.fillers = x.stopDone then s else s.land x.lastWork [(19, x.fillers - x.stopDone, qDom q)]

/-- R357. Release a Stopping unit. -/
def State.releaseM (s : State) (q : Nat) : State := s.modQuarter q (fun x => { x with unit := .idle })

/-- GOVERNOR_STEP_BOUNDARY of a die. -/
def execGovernorStepBoundary (die : Nat) (s : State) : Host.Outcome State Fault Refusal :=
  let qs := s.quarters.filter (fun x => dieOfCore (coreOfQuarter x.1) == die)
  let a := (qs.filter (fun x => x.2.unit != .idle)).length
  let asks := qs.filter (fun x => x.2.unit == .idle && x.2.request)
  let stopping := qs.filter (fun x => x.2.unit == .stopping)
  let back := stopping.filter (fun x => x.2.ready.isSome)
  let gone := (stopping.filter (fun x => x.2.ready.isNone)).foldl (fun l x => insertStop x l) []
  let lim := slewLimit a
  let s := stopping.foldl (fun (s : State) x => s.fillM x.1) s
  let s := (asks.take (min lim (128 - a))).foldl (fun (s : State) x => s.grantM x.1) s
  let s := back.foldl (fun (s : State) x => (s.modQuarter x.1 (fun y => { y with unit := .running })).kickM x.1) s
  let s := (gone.take lim).foldl (fun (s : State) x => s.releaseM x.1) s
  let again := s.quarters.any (fun x =>
    dieOfCore (coreOfQuarter x.1) == die && (x.2.unit == .stopping || (x.2.unit == .idle && x.2.request)))
  .next (if again then s.dueOnce (.governorStepBoundary die) else s)

end Sys2Proof.Machine
end

