-- ==== Sys2Proof/Machine/Sync.lean ====
section
/-!
DEFINITION. The SYNC words (R327 to R330), the TASK words but COLL (R331 to R338), and the events of barriers, queues and
timelines.
-/

namespace Sys2Proof.Machine

/-! ### SYNC words -/

/-- R234. The end of an acquire that has no load of its own. -/
def State.acquireNow (s : State) (g scope : Nat) : State :=
  if 2 ≤ scope then s.l1DropCtx (coreOf g) (s.strand g).info.ctx else s

/-- R329. The checks that every SYNC word makes, in order, and the instance it names. -/
def State.syncWord (s : State) (sc : BitVec 3) (n : BitVec 5) (regs : List (Nat × Nat)) (k : Nat → BarInst → State → State) : State :=
  s.uWord (!(sc == 0 || sc == 6 || sc == 7)) regs (fun s =>
    if s.me.setBound then s.trap { cause := .setViolation, detail := 7 }
    else
      match s.barInst s.iss.g sc.toNat n.toNat with
      | none => s.trap { cause := .illegalOperand }
      | some i =>
        match s.bars.find? i with
        | none => s.trap { cause := .illegalOperand }
        | some b => k i b s)

/-- R112. A barrier word waits for the flags of earlier words, and traps when saturation is armed and due. -/
def State.flagsThen (s : State) (k : State → State) : State :=
  s.whenSettled (fun s => if s.old.satPending then s.trap { cause := .satPending } else k s)

/-- R327. The message of an arrival, a drop or a join: issue-time at `.core`, else as it lands. -/
def State.barMessage (s : State) (scope : Nat) : State :=
  if scope = 1 then s.raw 22 1 else s.land s.myWork [barrierCharge scope s.iss.g]

/-- R326. The course of an arriving word. -/
def State.arriveWord (s : State) (sc : BitVec 3) (n : BitVec 5) (regs : List (Nat × Nat)) (k : Nat → Word → State → State) : State :=
  s.syncWord sc n regs (fun i b s =>
    let g := s.iss.g
    if (b.member g).isNone then s.trap { cause := .illegalOperand }
    else s.flagsThen (fun s => s.afterRelease sc.toNat (fun s =>
      if !b.mayArrive g then s.hold .barrier
      else k i b.gen ((s.barMessage sc.toNat).barStep i g .arrive))))

/-- R325. The wait for a generation to pass. -/
def State.waitBarrier (s : State) (i scope : Nat) (gen : Word) : State :=
  let s := s.modMe Strand.switchPoint
  match s.bars.find? i with
  | none => (s.acquireNow s.iss.g scope).done
  | some b => if passed b.gen gen then (s.acquireNow s.iss.g scope).done else (s.enterWait s.iss.g (.barrier i gen)).done

def execBar (_c : Bool) (sc : BitVec 3) (n : BitVec 5) (s : State) : Host.Outcome State Fault Refusal :=
  .next (s.arriveWord sc n [] (fun i gen s => s.waitBarrier i sc.toNat gen))
def execBara (_c : Bool) (sc : BitVec 3) (n : BitVec 5) (a : BitVec 8) (s : State) : Host.Outcome State Fault Refusal :=
  .next (s.arriveWord sc n [(a.toNat, 1)] (fun _ gen s => (s.setU a.toNat gen).done))
def execBarw (_c : Bool) (sc : BitVec 3) (n : BitVec 5) (a : BitVec 8) (s : State) : Host.Outcome State Fault Refusal :=
  .next (s.syncWord sc n [(a.toNat, 1)] (fun i _ s => s.flagsThen (fun s => s.waitBarrier i sc.toNat (s.u a.toNat))))
def execBard (_c : Bool) (sc : BitVec 3) (n : BitVec 5) (s : State) : Host.Outcome State Fault Refusal :=
  .next (s.syncWord sc n [] (fun i b s =>
    let g := s.iss.g
    if (b.member g).isNone then s.trap { cause := .illegalOperand }
    else s.flagsThen (fun s => s.afterRelease sc.toNat (fun s =>
      if !b.mayArrive g then s.hold .barrier else ((s.barMessage sc.toNat).barStep i g .drop).done))))
def execBarj (_c : Bool) (sc : BitVec 3) (n : BitVec 5) (a : BitVec 8) (s : State) : Host.Outcome State Fault Refusal :=
  .next (s.syncWord sc n [(a.toNat, 1)] (fun i b s =>
    let g := s.iss.g
    let s := if b.registered g then s else s.barMessage sc.toNat
    ((s.barStep i g .join).setU a.toNat (b.doJoin g).2).done))

/-- BARRIER_STEP: the network applies a step to an instance (R325). A `.pod` instance whose launch here has ended returns when
the last strand of its gang has left it (R324). -/
def execBarrierStep (inst g : Nat) (op : BarOp) (s : State) : Host.Outcome State Fault Refusal :=
  let s := s.barStep inst g op
  let gone (b : BarInst) : Bool := (s.launch? b.launch).isNone && !b.gangLives 0
  .next { s with bars := s.bars.filter (fun x => !(x.1 == inst && gone x.2)) }

/-- BARRIER_WAKE (R327). -/
def execBarrierWake (g : Nat) (s : State) : Host.Outcome State Fault Refusal :=
  let t := (s.strand g).bring (fun w => match w with | .barrier _ _ => true | _ => false)
  .next (match t.wait with
    | .barrier i gen =>
      if t.state ≠ .waiting then s
      else
        match s.bars.find? i with
        | none => s.setStrand g t.wakeUp
        | some b => if passed b.gen gen then (s.setStrand g t.wakeUp).acquireNow g b.scope else s
    | _ => s)

/-! ### Task records and the task queue (R331, R332) -/

def recField (r : List Byte) (hi lo : Nat) : Nat := bitsOf (leNat r) hi lo
/-- R331. The record is valid. -/
def taskValid (r : List Byte) : Bool :=
  let f := recField r
  pcValid (BitVec.ofNat 64 (f 63 0)) && 1 ≤ f 68 64 && f 68 64 ≤ 16 && 1 ≤ f 73 69 && f 73 69 ≤ 16
    && (f 78 74 == 0 || (10 ≤ f 78 74 && f 78 74 ≤ 21)) && f 81 79 ≤ 4 && f 84 82 ≤ 4 && f 88 85 ≤ 8
    && f 127 89 == 0 && f 255 192 == 0
/-- The record with a nesting depth. -/
def withDepth (r : List Byte) (d : Nat) : List Byte :=
  natLe 64 (leNat r - recField r 88 85 * 2 ^ 85 + d * 2 ^ 85)

def State.taskQueueFull (s : State) (ctx : Nat) : Bool := (s.ctx ctx).taskCap ≤ ((s.ctx ctx).tasks.filter (fun x => !x.running)).length
/-- R332. Add a record to the context's task queue; the dispatcher acts. -/
def State.enqueueTask (s : State) (ctx : Nat) (r : List Byte) : State :=
  let s := (s.modCtx ctx (fun c => { c with tasks := c.tasks ++ [{ id := s.nextId, bytes := r, order := s.nextId }] })).takeId
  s.dueOnce (.dispatchPlacement (s.ctx ctx).part)

/-! ### Queues (R335 to R337) -/

/-- The fields of a queue header. -/
structure QHead where
  ringOff : Nat
  lcap : Nat
  esz : Nat
  free : Nat
  filled : Nat
  tail : Nat
  head : Nat
  rsvOk : Bool
  deriving DecidableEq, Repr

def State.qhead (s : State) (hdr : Nat) : QHead :=
  let v := s.hbmNat hdr 64
  { ringOff := bitsOf v 31 0, lcap := bitsOf v 36 32, esz := bitsOf v 38 37, free := bitsOf v 95 64, filled := bitsOf v 127 96,
    tail := bitsOf v 159 128, head := bitsOf v 191 160, rsvOk := bitsOf v 63 39 == 0 && bitsOf v 511 256 == 0 }
/-- Write a 32-bit field of a header at a byte offset. -/
def State.qput (s : State) (hdr off v : Nat) : State := s.memWrite { host := false, addr := hdr + off } (natLe 4 v)
def QHead.n (q : QHead) : Nat := 4 * 2 ^ q.esz
/-- The address of an entry. -/
def QHead.entry (q : QHead) (hdr i : Nat) : Nat := hdr + q.ringOff + i % 2 ^ q.lcap * q.n

/-- R336. A header that the word may use: its fields, and its ring inside the page. -/
def QHead.ok (q : QHead) (hdr pageEnd : Nat) : Bool :=
  q.rsvOk && q.lcap ≤ 20 && q.ringOff % 64 == 0 && 64 ≤ q.ringOff && hdr + q.ringOff + 2 ^ q.lcap * q.n ≤ pageEnd

/-- R336. Reserve an entry for a push; its data are on their way to the ring. -/
def State.qreservePush (s : State) (w : Work) (hdr : Nat) (data : List Byte) : State :=
  let q := s.qhead hdr
  let s := (s.qput hdr 8 (q.free - 1)).qput hdr 16 ((q.tail + 1) % 2 ^ 32)
  let x : QueueXfer :=
    { id := s.nextId, work := w, hdr := hdr, idx := BitVec.ofNat 32 q.tail, data := data, n := q.n, g := none, d := 0, landed := false,
      try_ := false }
  (({ s with xfers := s.xfers ++ [x] } : State).due (.queueEntryWritten x.id)).takeId

/-- R336. Reserve an entry for a pop; its bytes are on their way to the strand, whose word waits for them. -/
def State.qreservePop (s : State) (hdr g d : Nat) (try_ : Bool) (role : QueueRole := .word) : State :=
  let q := s.qhead hdr
  let s := (s.qput hdr 12 (q.filled - 1)).qput hdr 20 ((q.head + 1) % 2 ^ 32)
  let x : QueueXfer :=
    { id := s.nextId, work := s.workOf g, hdr := hdr, idx := BitVec.ofNat 32 q.head, data := [], n := q.n, g := some g, d := d, landed := false,
      try_ := try_, role := role }
  let s := (({ s with xfers := s.xfers ++ [x] } : State).due (.queueEntryRead x.id)).takeId
  if role = .word then s.modStrand g (fun t => { t with homeWait := true }) else s

/-- The home's reply is under way to a strand that waits at its group; one reply comes, whatever follows the first answer. -/
def State.sendReply (s : State) (g : Nat) : State :=
  if (s.strand g).replied || (s.strand g).homeDone then s
  else (s.modStrand g (fun t => { t with homeDone := true })).due (.taskWordHomeReply g)

/-- A word's home has answered: a strand that waits goes on, another finds the reply at its group. -/
def State.homeReply (s : State) (g : Nat) (regs : List (Nat × Word)) : State :=
  let t := (s.strand g).bring WaitOn.isQueue
  let t := { t with homeOp := none, homeWait := false }
  match t.wait with
  | .queue _ _ => s.setStrand g ((regs.foldl (fun (t : Strand) x => t.setU x.1 x.2) t).wakeUp)
  | _ => (s.setStrand g { t with replyRegs := regs }).sendReply g

/-- R337. A waiting push has its entry: its word goes on; that of a word which a trap left goes on at TRET; and a deferred one
leaves the entries of its EXIT (R265). -/
def State.pushServed (s : State) (g : Nat) (role : QueueRole) : State :=
  match role with
  | .word => s.homeReply g []
  | .left => s.modStrand g (fun t => { t with trap := { t.trap with leftHome := none, leftRegs := some [] } })
  | .deferred => s.modStrand g (fun t => { t with exitStep := 2, aset := { t.aset with deferred := t.aset.deferred.tail } })
  | .lost => s

/-- R337. The home serves its oldest waiter of a header, if FREE or FILLED permits. -/
def State.serveQueue (s : State) (hdr : Nat) (pop : Bool) : State :=
  let q := s.qhead hdr
  if (if pop then q.filled else q.free) = 0 then s
  else
    match takeFirst (fun w : QueueWaiter => w.hdr == hdr && w.pop == pop) s.qwaiters with
    | none => s
    | some (w, rest) =>
      let s := { s with qwaiters := rest }
      match w.g, pop with
      | none, _ => s
      | some g, true => s.qreservePop hdr g w.d false w.role
      | some g, false => (s.qreservePush (s.workOf g) hdr (bytesOfWords w.data)).pushServed g w.role

/-- The home serves waiters while it can, at most as many as there are. -/
def State.serveAll (s : State) (hdr : Nat) (pop : Bool) : State :=
  s.qwaiters.foldl (fun s _ => s.serveQueue hdr pop) s

/-- The charge of a TASK word's line at its home (R333). -/
def State.taskLine (s : State) (w : Work) (pa : Nat) (write : Bool) : State :=
  s.chargeLine w (dieOf w.g) { host := false, addr := pa } write false

/-- R337. A blocking word joins its home's waiters. -/
def State.queueWait (s : State) (g hdr : Nat) (pop : Bool) (d n : Nat) (data : List Word) : State :=
  ({ s with qwaiters := s.qwaiters ++ [{ g := some g, hdr := hdr, pop := pop, d := d, n := n, data := data }] } : State).modStrand g
    (fun t => { t with homeWait := true })

/-- The home slice performs a strand's TASK word. -/
def State.queueHomeStep (s : State) (g : Nat) : State :=
  let t := s.strand g
  let w := s.workOf g
  match t.homeOp with
    | none => s
    | some (.qpush hdr d n data try_) =>
      if t.homeWait then s
      else
        let s := (s.serveAll hdr false).taskLine w hdr true
        if (s.qhead hdr).free = 0 then
          if try_ then s.homeReply g [(d + n / 4, 1)]
          else
            (s.queueWait g hdr false d n data).sendReply g
        else (s.qreservePush w hdr (bytesOfWords data)).homeReply g (if try_ then [(d + n / 4, 0)] else [])
    | some (.qpop hdr d n try_) =>
      if t.homeWait then s
      else
        let s := (s.serveAll hdr true).taskLine w hdr true
        if (s.qhead hdr).filled = 0 then
          if try_ then s.homeReply g [(d + n / 4, 1)]
          else
            (s.queueWait g hdr true d n []).sendReply g
        else s.qreservePop hdr g d try_
    | some (.tlsig pa v) =>
      let old := BitVec.ofNat 64 (s.hbmNat pa 8)
      let s := s.taskLine w pa true
      let s := if 0 < (v - old).toInt then s.memWrite { host := false, addr := pa } (natLe 8 v.toNat) else s
      s.homeReply g []
    | some (.tlread pa d) =>
      let v := BitVec.ofNat 64 (s.hbmNat pa 8)
      ((s.taskLine w pa false).acquireNow g 5).homeReply g [(d, loWord v), (d + 1, hiWord v)]
    | some (.spawn d r) =>
      let dep := t.info.depth + 1
      if !taskValid r then s.homeReply g [(d, 3)]
      else if 8 < dep then s.homeReply g [(d, 1)]
      else if s.taskQueueFull t.info.ctx then s.homeReply g [(d, 2)]
      else (s.enqueueTask t.info.ctx (withDepth r dep)).homeReply g [(d, 0)]

/-- QUEUE_HOME_STEP. -/
def execQueueHomeStep (g : Nat) (s : State) : Host.Outcome State Fault Refusal := .next (s.queueHomeStep g)

/-- Transfers of a header that are done in reservation order leave the list; their number. -/
def settleXfers (l : List QueueXfer) (hdr : Nat) (pop : Bool) : Nat × List QueueXfer :=
  let mine (x : QueueXfer) : Bool := x.hdr == hdr && x.g.isSome == pop
  let done := (l.filter mine).takeWhile (·.landed)
  (done.length, l.filter (fun x => !(done.contains x)))

/-- An entry lands, at the charge of its line (R333); FILLED advances over the written ones. -/
def State.entryWritten (s : State) (id : Nat) : State :=
  match s.xfers.find? (fun x => x.id == id && !x.landed) with
    | none => s
    | some x =>
      let q := s.qhead x.hdr
      let s := (s.memWrite { host := false, addr := q.entry x.hdr x.idx.toNat } x.data).taskLine x.work (q.entry x.hdr x.idx.toNat) true
      let r := settleXfers (updWhere (fun y => y.id == id) (fun y => { y with landed := true }) s.xfers) x.hdr false
      ({ s with xfers := r.2 } : State).qput x.hdr 12 ((q.filled + r.1) % 2 ^ 32)

/-- QUEUE_ENTRY_WRITTEN. -/
def execQueueEntryWritten (id : Nat) (s : State) : Host.Outcome State Fault Refusal := .next (s.entryWritten id)

/-- A popped entry reaches its strand, an acquire at `.pkg`; FREE advances over the read ones. -/
def State.entryRead (s : State) (id : Nat) : State :=
  match s.xfers.find? (fun x => x.id == id && !x.landed) with
    | none => s
    | some x =>
      let q := s.qhead x.hdr
      let words := wordsOf (s.memBytes { host := false, addr := q.entry x.hdr x.idx.toNat } x.n)
      let r := settleXfers (updWhere (fun y => y.id == id) (fun y => { y with landed := true }) s.xfers) x.hdr true
      let s := ({ s with xfers := r.2 } : State).qput x.hdr 8 ((q.free + r.1) % 2 ^ 32)
      let g := x.g.getD 0
      let regs := words.zipIdx.map (fun y => (x.d + y.2, y.1)) ++ (if x.try_ then [(x.d + x.n / 4, 0)] else [])
      let s := s.taskLine x.work (q.entry x.hdr x.idx.toNat) false
      if !s.liveWork x.work then s
      else
        match x.role with
        | .left => (s.acquireNow g 4).modStrand g (fun t => { t with trap := { t.trap with leftHome := none, leftRegs := some regs } })
        | .word => (s.acquireNow g 4).homeReply g regs
        | _ => s

/-- QUEUE_ENTRY_READ. -/
def execQueueEntryRead (id : Nat) (s : State) : Host.Outcome State Fault Refusal := .next (s.entryRead id)

/-- QUEUE_WAITER_SERVE. -/
def execQueueWaiterServe (hdr : Nat) (pop : Bool) (s : State) : Host.Outcome State Fault Refusal := .next (s.serveQueue hdr pop)

/-- TASK_WORD_HOME_REPLY: the strand's group may complete. A reply to work that was rolled back finds nothing under way. -/
def execTaskWordHomeReply (g : Nat) (s : State) : Host.Outcome State Fault Refusal :=
  .next (s.modStrand g (fun t => if t.homeDone then Strand.unpark { t with homeDone := false, replied := true } else t))

/-- R338. A timeline has reached a threshold. -/
def State.reached (s : State) (pa : Nat) (thr : DWord) : Bool := 0 ≤ (BitVec.ofNat 64 (s.hbmNat pa 8) - thr).toInt

/-- TIMELINE_WAKE: an acquire at `.pod` for the waiter. -/
def execTimelineWake (g : Nat) (s : State) : Host.Outcome State Fault Refusal :=
  let t := (s.strand g).bring (fun w => match w with | .timeline _ _ => true | _ => false)
  .next (match t.wait with
    | .timeline pa thr => if t.state = .waiting && s.reached pa thr then (s.setStrand g t.wakeUp).acquireNow g 5 else s
    | _ => s)

/-! ### TASK words -/

/-- R199, R336. The trap of a TASK word's translation. -/
def taskTrap (va n : Nat) (k : Access) (r : Nat) : TrapInfo :=
  let store := k == .atomic && r == 3
  { cause := if store then .storeFault else .loadFault, reason := r, kind := if k == .load then 1 else 2, va := some va, size := n }

/-- The place of a TASK word's line: aligned, translated at issue, in device memory unless `anyType`; it acquires no
granule. It waits for an acquire that is not complete (R234), and the strand's earlier stores to its bytes are there before it
(R222). `first` says that alignment is tested before the form of the address (R334). -/
def State.taskPlace (s : State) (va n align : Nat) (k : Access) (anyType : Bool) (f : PAddr → State → State)
    (first : Bool := false) : State :=
  let g := s.iss.g
  let misaligned : TrapInfo := { cause := .align, kind := if k == .load then 1 else 2, va := some va, size := n }
  if first && va % align ≠ 0 then s.trap misaligned
  else if !canonical va then s.trap (taskTrap va n k 1)
  else if va % align ≠ 0 then s.trap misaligned
  else
    match s.translateFor (.group g) (s.workOf g) (coreOf g) va k with
    | (s, .miss) => s.hold .walk
    | (s, .fail r) => s.trap (taskTrap va n k r)
    | (s, .host _) => if anyType then s.hold .pageWait else s.trap { cause := .illegalOperand }
    | (s, .ok p) =>
      if p.host && !anyType then s.trap { cause := .illegalOperand }
      else if s.awaitsAcquire then s.hold .release
      else if s.waits (s.storeBefore g va n || s.rodTouches g va n) then s.hold .stores
      else f p (s.landLine (coreOf g) p.line s.nextId)

/-- The end of the page that holds a device address the strand's context maps at `va`. -/
def State.pageEnd (s : State) (va : Nat) (p : PAddr) : Nat :=
  match (s.walk s.myCtx va).1 with
  | .ok e => e.pa + 2 ^ e.lg
  | .error _ => p.addr

/-- R333. Hold the group until the home has replied; then complete with its registers. `start` makes the request. -/
def State.atHome (s : State) (start : State → State) (finish : State → State) : State :=
  let t := s.me
  if t.replied then
    let s := s.modMe (fun t => { t with replied := false, replyRegs := [] })
    finish (t.replyRegs.foldl (fun (s : State) x => s.setU x.1 x.2) s)
  else if t.homeOp.isSome then s.hold .homeReply
  else start s

/-- Send a TASK word to its home. -/
def State.sendHome (s : State) (op : HomeOp) : State :=
  ((s.modMe (fun t => { t with homeOp := some op })).due (.queueHomeStep s.iss.g)).hold .homeReply

/-- Bytes of device memory as the strand's engine reads see them (R237). -/
def State.engineBytes (s : State) (g : Nat) (p : PAddr) (n : Nat) : List Byte :=
  s.ownBytes g p (s.homeBytes (coreOf g) p n)

/-- SPAWN (R334). -/
def execSpawn (_c : Bool) (d a : BitVec 8) (s : State) : Host.Outcome State Fault Refusal :=
  .next (s.uWord true [(d.toNat, 1), (a.toNat, 2)] (fun s =>
    s.atHome
      (fun s =>
        let va := (s.u2 a.toNat).toNat
        s.taskPlace va 64 64 .load true (fun p s =>
          let g := s.iss.g
          let t := s.me
          let r := s.engineBytes g p 64
          let read (s : State) : State := s.chargeLine (s.workOf g) (dieOf g) p false false
          if t.setBound then
            let s := read s
            let dep := t.info.depth + 1
            if !taskValid r then (s.setU d.toNat 3).done
            else if 8 < dep then (s.setU d.toNat 1).done
            else
              match s.holdRoom g with
              | some reason => (s.markRollback g reason true).hold .granule
              | none =>
                (((s.makeLineRoom g).modMe (fun t => { t with aset := { t.aset with deferred := t.aset.deferred ++ [.spawn (withDepth r dep)] } })).setU
                  d.toNat 0).done
          else s.afterRelease 4 (fun s => (read s).sendHome (.spawn d.toNat r))) true)
      (fun s => s.done)))

/-- R336. The header of a queue word, checked at issue. -/
def State.queueHead (s : State) (d a : BitVec 8) (extra : Nat) (f : Nat → Nat → State → State) : State :=
  let va := (s.u2 a.toNat).toNat
  s.taskPlace va 64 64 .atomic false (fun p s =>
    let q := s.qhead p.addr
    let m := q.n / 4
    if !q.ok p.addr (s.pageEnd va p) || d.toNat % m != 0 || !s.uOk d.toNat (m + extra) then s.trap { cause := .illegalOperand }
    else if s.old.pendsU d.toNat (m + extra) then s.hold .scoreboard
    else f p.addr q.n s)

/-- The course of QPUSH and QTRYPUSH. -/
def State.pushWord (s : State) (d a : BitVec 8) (try_ : Bool) : State :=
  s.uWord true [(a.toNat, 2)] (fun s =>
    if try_ && s.me.setBound then s.trap { cause := .setViolation, detail := 7 }
    else
      s.atHome
        (fun s => s.queueHead d a (if try_ then 1 else 0) (fun hdr n s =>
          let data := (List.range (n / 4)).map (fun i => s.u (d.toNat + i))
          let g := s.iss.g
          if s.me.setBound then
            match s.holdRoom g with
            | some reason => (s.markRollback g reason true).hold .granule
            | none =>
              (((s.makeLineRoom g).modMe Strand.switchPoint).modMe (fun t =>
                { t with aset := { t.aset with deferred := t.aset.deferred ++ [.qpush hdr data] } })).done
          else s.afterRelease 4 (fun s => s.sendHome (.qpush hdr d.toNat n data try_))))
        (fun s =>
          if try_ then s.done
          else
            let s := s.modMe Strand.switchPoint
            match s.me.homeOp with
            | some (.qpush hdr _ _ _ _) => (s.enterWait s.iss.g (.queue hdr false)).done
            | _ => s.done))

/-- The course of QPOP and QTRYPOP. -/
def State.popWord (s : State) (d a : BitVec 8) (try_ : Bool) : State :=
  s.uWord true [(a.toNat, 2)] (fun s =>
    if s.me.setBound then s.trap { cause := .setViolation, detail := 7 }
    else
      s.atHome
        (fun s => s.queueHead d a (if try_ then 1 else 0) (fun hdr n s => s.sendHome (.qpop hdr d.toNat n try_)))
        (fun s =>
          if try_ then s.done
          else
            let s := s.modMe Strand.switchPoint
            match s.me.homeOp with
            | some (.qpop hdr _ _ _) => (s.enterWait s.iss.g (.queue hdr true)).done
            | _ => s.done))

def execQpush (_c : Bool) (d a : BitVec 8) (s : State) : Host.Outcome State Fault Refusal := .next (s.pushWord d a false)
def execQpop (_c : Bool) (d a : BitVec 8) (s : State) : Host.Outcome State Fault Refusal := .next (s.popWord d a false)
def execQtrypush (_c : Bool) (d a : BitVec 8) (s : State) : Host.Outcome State Fault Refusal := .next (s.pushWord d a true)
def execQtrypop (_c : Bool) (d a : BitVec 8) (s : State) : Host.Outcome State Fault Refusal := .next (s.popWord d a true)

/-- TLSIG (R338). -/
def execTlsig (_c : Bool) (d a : BitVec 8) (s : State) : Host.Outcome State Fault Refusal :=
  .next (s.uWord true [(d.toNat, 2), (a.toNat, 2)] (fun s =>
    if s.me.setBound then s.trap { cause := .setViolation, detail := 7 }
    else
      s.atHome
        (fun s => s.taskPlace (s.u2 a.toNat).toNat 8 8 .atomic false (fun p s =>
          s.afterRelease 5 (fun s => s.sendHome (.tlsig p.addr (s.u2 d.toNat)))))
        (fun s => s.done)))

/-- TLREAD (R338). -/
def execTlread (_c : Bool) (d a : BitVec 8) (s : State) : Host.Outcome State Fault Refusal :=
  .next (s.uWord true [(d.toNat, 2), (a.toNat, 2)] (fun s =>
    s.atHome
      (fun s => s.taskPlace (s.u2 a.toNat).toNat 8 8 .load false (fun p s => s.sendHome (.tlread p.addr d.toNat)))
      (fun s => s.done)))

/-- TLWAIT (R338): a switch point that passes when the timeline stands at the threshold. -/
def execTlwait (_c : Bool) (d a : BitVec 8) (s : State) : Host.Outcome State Fault Refusal :=
  .next (s.uWord true [(d.toNat, 2), (a.toNat, 2)] (fun s =>
    s.unlessHolding (fun s =>
      s.taskPlace (s.u2 a.toNat).toNat 8 8 .load false (fun p s =>
        let g := s.iss.g
        let s := (s.chargeLine (s.workOf g) (dieOf g) p false false).modMe Strand.switchPoint
        if s.reached p.addr (s.u2 d.toNat) then (s.acquireNow g 5).done
        else (s.enterWait g (.timeline p.addr (s.u2 d.toNat))).done))))

/-! ### Invalidation (R197) -/

/-- R197. Invalidate a context's translations: matching entries leave every TLB, walks in flight start again, and what
was translated completes: loads return, stores and reductions reach their homes, and so do TASK words and ring entries. -/
def State.invalidate (s : State) (ctx : Nat) (range : Option (Nat × Nat)) : State :=
  let hit (e : TlbEntry) : Bool :=
    e.ctx == ctx && (match range with | none => true | some (b, n) => rangesMeet e.base (2 ^ e.lg) (b % 2 ^ 57) n)
  let s : State := { s with
    cores := s.cores.map (fun (c : Nat × CoreSt) => (c.1, { c.2 with tlb := c.2.tlb.filter (fun e => !hit e) })),
    dies := s.dies.map (fun (d : Nat × DieSt) => (d.1, { d.2 with
      tlb := d.2.tlb.filter (fun e => !hit e),
      walks := updWhere (fun (w : WalkReq) => w.ctx == ctx) (fun (w : WalkReq) => { w with walking := false }) d.2.walks })),
    strands := s.strands.map (fun (x : Nat × Strand) => (x.1, if x.2.info.ctx = ctx then { x.2 with line := none } else x.2)) }
  let s := s.dies.foldl (fun s d => if d.2.walks.isEmpty then s else s.dueOnce (.pageWalkStart d.1)) s
  let s := (s.loads.filter (fun r => r.work.ctx == ctx)).foldl (fun s r => s.completeLoad r.id) s
  let s := (s.strands.filter (fun x => x.2.info.ctx == ctx && x.2.homeOp.isSome && !x.2.homeWait)).foldl (fun s x => s.queueHomeStep x.1) s
  let s := (s.xfers.filter (fun x => x.work.ctx == ctx)).foldl (fun s x =>
    if x.g.isSome then s.entryRead x.id else s.entryWritten x.id) s
  s.cores.foldl (fun s c =>
    let s := (c.2.sq.filter (fun e => e.work.ctx == ctx)).foldl (fun s e =>
      match e.pa with | some p => s.landLine c.1 p.line s.nextId | none => s) s
    (s.flushNow c.1 (fun e => e.work.ctx == ctx)).retryCore c.1) s

/-- TRANSLATION_INVALIDATE_COMMAND. -/
def execTranslationInvalidateCommand (ctx : Nat) (range : Option (Nat × Nat)) (s : State) : Host.Outcome State Fault Refusal :=
  .next (s.invalidate ctx range)

end Sys2Proof.Machine
end

