-- ==== Sys2Proof/Machine/Copy.lean ====
section
/-!
DEFINITION. The copy engine (R298 to R312): shape records, boxes, chunks, the C words and the engine's events.
-/

namespace Sys2Proof.Machine

/-! ### Shape records (R301 to R303) -/

/-- Bits of an element of a format (R301). -/
def elemBits (fmt : Nat) : Nat := match fmt with | 0 | 7 => 8 | 1 | 4 | 5 => 16 | 2 | 6 => 32 | _ => 4
def shapeMx (fmt : Nat) : Bool := fmt == 7 || fmt == 8
/-- Elements that move as one piece: an MX unit (R114), the two nibbles of a byte, or one element. -/
def pieceElems (fmt : Nat) : Nat := match fmt with | 3 => 2 | 7 | 8 => 32 | _ => 1
def pieceBytes (fmt : Nat) : Nat := pieceElems fmt * elemBits fmt / 8

/-- A shape record as it stands in memory: NDIM and GATE beside its dimensions, and whether its reserved bits are zero. -/
structure ShapeRecord where
  shape : Shape
  ndim : Nat
  clean : Bool               -- reserved bits and unused dimensions are zero
  deriving DecidableEq, Repr

/-- Dimension d of a record. -/
def shapeDim (v d : Nat) : ShapeDim :=
  let f (hi lo : Nat) : Nat := bitsOf v (64 + 192 * d + hi) (64 + 192 * d + lo)
  { ext := f 31 0, lo := signedOf 32 (f 63 32), hi := signedOf 32 (f 95 64), org := signedOf 32 (f 127 96),
    stride := signedOf 64 (f 191 128) }

def shapeOf (bytes : List Byte) : ShapeRecord :=
  let v := leNat bytes
  let nd := bitsOf v 6 4
  { shape := { fmt := bitsOf v 3 0, gate := bitsOf v 19 8, scoff := signedOf 32 (bitsOf v 63 32),
               dims := (List.range nd).map (shapeDim v) },
    ndim := nd,
    clean := bitsOf v 7 7 == 0 && bitsOf v 31 20 == 0 && (List.range 5).all (fun d =>
      d < nd || bitsOf v (64 + 192 * d + 191) (64 + 192 * d) == 0) }

/-- R303. Elements of the box. -/
def Shape.count (sh : Shape) : Nat := sh.dims.foldl (fun n d => n * d.ext) 1
/-- R303. Bytes of a scratchpad side: the elements, and the scales that follow them. -/
def Shape.spadBytes (sh : Shape) : Nat :=
  let b := sh.count * elemBits sh.fmt / 8
  if shapeMx sh.fmt then (b + 15) / 16 * 16 + sh.count / 32 else b

/-- R304, R293. The sides of a form. -/
inductive CopySide where
  | global | spad | drain
  deriving DecidableEq, Repr
def srcSide (form : Nat) : CopySide := match form with | 0 | 3 | 5 => .global | 1 | 2 | 4 => .spad | _ => .drain
def dstSide (form : Nat) : CopySide := match form with | 0 | 4 => .spad | _ => .global
/-- The form adds to its destination. -/
def formAdds (form : Nat) : Bool := form == 2 || form == 7

/-- R303, R293. The deltas of a request. -/
def CopyReq.delta (r : CopyReq) (d : Nat) : Int :=
  let w (i : Nat) : Nat := (r.regs.getD i 0).toNat
  if 6 ≤ r.form then (match d with | 0 => signedOf 32 (w 5) | 1 => signedOf 32 (w 4) | 2 => signedOf 32 (w 6) | _ => 0)
  else (match d with | 0 => signedOf 16 (w 6) | 1 => signedOf 16 (w 6 / 2 ^ 16) | _ => 0)

/-- R302, R306, R293. A record that is read is good for the request. DESIGN CHOICE (log 61): where GATE stands in a form
other than gate, or SCOFF with a format that is not MX, which R301 says must be zero and R302 does not list, the record is
bad, since no strand is there to take the trap of R3. DESIGN CHOICE (log 146): an EXT above 2^31, which R301 does not give and R302
does not list, is accepted. -/
def CopyReq.shapeOk (r : CopyReq) (x : ShapeRecord) : Bool :=
  let sh := x.shape
  let d0 : ShapeDim := sh.dims.getD 0 { ext := 0, lo := 0, hi := 0, org := 0, stride := 0 }
  let g : Int := if shapeMx sh.fmt then 32 else if sh.fmt == 3 then 2 else 1
  let format : Bool :=
    match r.form with
    | 2 => sh.fmt == 6 || sh.fmt == 2
    | 6 => 4 ≤ sh.fmt && sh.fmt ≤ 6
    | 7 => sh.fmt == 6
    | _ => true
  let drain : Bool := r.form < 6 ||
    (2 ≤ x.ndim && sh.scoff == 0 && (sh.dims.take 2).all (fun d => d.ext == 64) && (sh.dims.drop 2).all (fun d => d.ext == 1)
      && (r.regs.getD 0 0).toNat % 128 == 0)
  x.clean && sh.fmt ≤ 8 && 1 ≤ x.ndim && x.ndim ≤ 5 && sh.dims.all (fun d => d.ext != 0) && d0.stride == 0
    && (sh.dims.drop 1).all (fun d => d.stride % 4 == 0)
    && (d0.ext : Int) % g == 0 && d0.lo % g == 0 && d0.hi % g == 0 && (d0.org + r.delta 0) % g == 0
    && ((srcSide r.form != .spad && dstSide r.form != .spad) || sh.spadBytes ≤ 2 ^ 21)
    && (r.form == 5 || sh.gate == 0) && (shapeMx sh.fmt || sh.scoff == 0) && format && drain

/-! ### Pieces of the box -/

/-- R303. The indices of the element of linear index L. -/
def boxIndex : List ShapeDim → Nat → List Nat
  | [], _ => []
  | d :: l, n => n % d.ext :: boxIndex l (n / d.ext)

/-- One piece: its linear index, its tensor coordinates, whether it is in bounds, and its indices. -/
structure Piece where
  lin : Nat
  idx : List Nat
  coord : List Int
  inb : Bool
  deriving DecidableEq, Repr

def CopyReq.piece (r : CopyReq) (sh : Shape) (p : Nat) : Piece :=
  let lin := p * pieceElems sh.fmt
  let idx := boxIndex sh.dims lin
  let cs := (sh.dims.zipIdx.zip idx).map (fun x => x.1.1.org + (x.2 : Int) + r.delta x.1.2)
  { lin := lin, idx := idx, coord := cs, inb := (sh.dims.zip cs).all (fun x => x.1.lo ≤ x.2 && x.2 < x.1.hi) }

/-- The number of pieces. -/
def Shape.pieces (sh : Shape) : Nat := sh.count / pieceElems sh.fmt

/-- R303. Byte offset of a piece from a global base. -/
def Shape.globalOff (sh : Shape) (p : Piece) : Int :=
  ((sh.dims.zip p.coord).drop 1).foldl (fun n x => n + x.2 * x.1.stride) (p.coord.headD 0 * (elemBits sh.fmt : Int) / 8)
/-- The virtual address of a piece, and that of its scale. -/
def Shape.globalVa (sh : Shape) (base : Nat) (p : Piece) : Nat := (((base : Int) + sh.globalOff p) % 2 ^ 64).toNat
def Shape.globalScale (sh : Shape) (base : Nat) (p : Piece) : Nat :=
  (((base : Int) + sh.scoff * 16 + sh.globalOff p / (pieceBytes sh.fmt : Int)) % 2 ^ 64).toNat
/-- The window offset of a piece on a scratchpad side, and that of its scale. -/
def Shape.spadOff (sh : Shape) (base : Nat) (p : Piece) : Nat := base + p.lin * elemBits sh.fmt / 8
def Shape.spadScale (sh : Shape) (base : Nat) (p : Piece) : Nat :=
  base + (sh.count * elemBits sh.fmt / 8 + 15) / 16 * 16 + p.lin / 32

/-- The bases of a request's sides (R305, R293). -/
def CopyReq.pair (r : CopyReq) (i : Nat) : Nat := (dword (r.regs.getD i 0) (r.regs.getD (i + 1) 0)).toNat
def CopyReq.src (r : CopyReq) : Nat := r.pair 2
def CopyReq.dst (r : CopyReq) : Nat := if 6 ≤ r.form then r.pair 2 else r.pair 4
/-- The byte barrier that a request credits, by window offset. -/
def CopyReq.barrier (r : CopyReq) : Option Nat :=
  let w := (r.regs.getD 7 0).toNat
  if 6 ≤ r.form then (if w = 0xFFFFFFFF then none else some w)
  else if w / 16 = 0xFFFFFFF then none
  else some (w / 16 * 16)
/-- R305. The swizzle of a request's scratchpad destination. -/
def CopyReq.swz (r : CopyReq) : Option Nat :=
  let w := (r.regs.getD 7 0).toNat
  if r.form < 6 ∧ w / 8 % 2 = 1 then some (w % 8) else none
/-- The window of the strand that issued the request. -/
def CopyReq.windowOf (r : CopyReq) : Strand := { info := r.info }

/-- The piece is written at all (R307). -/
def CopyReq.writes (r : CopyReq) (p : Piece) : Bool := dstSide r.form == .spad || p.inb

/-- One byte of a piece: its place in the piece and its address on each side, a virtual address or a window offset. -/
structure CopyByte where
  i : Nat
  src : Nat
  dst : Nat
  deriving DecidableEq, Repr

/-- The bytes of a piece in ascending order, the scale of an MX unit last. -/
def CopyReq.bytes (r : CopyReq) (sh : Shape) (p : Piece) : List CopyByte :=
  let n := pieceBytes sh.fmt
  let elem (side : CopySide) (base i : Nat) : Nat :=
    match side with | .spad => sh.spadOff base p + i | .global => (sh.globalVa base p + i) % 2 ^ 64 | .drain => 0
  let scale (side : CopySide) (base : Nat) : Nat :=
    match side with | .spad => sh.spadScale base p | .global => sh.globalScale base p | .drain => 0
  (List.range n).map (fun i => { i := i, src := elem (srcSide r.form) r.src i, dst := elem (dstSide r.form) r.dst i })
    ++ (if shapeMx sh.fmt then [{ i := n, src := scale (srcSide r.form) r.src, dst := scale (dstSide r.form) r.dst }] else [])

/-- R116, R246. The bytes of a piece move together: an MX unit, or an element that is added. -/
def CopyReq.whole (r : CopyReq) (sh : Shape) : Bool := shapeMx sh.fmt || formAdds r.form

/-- R299. The destination line of the next chunk, by ascending box index. -/
def CopyReq.nextLine (r : CopyReq) (sh : Shape) : Option Nat :=
  (List.range sh.pieces).findSome? (fun p =>
    let x := r.piece sh p
    if r.writes x then ((r.bytes sh x).map (fun b => b.dst / 64)).find? (fun l => !r.done.contains l) else none)

/-- R299. The bytes of the request that a chunk is made of, with the piece each belongs to. DESIGN CHOICE (log 147): the line of
a swizzled destination is that of the offset before the swizzle of R176. -/
def CopyReq.chunkBytes (r : CopyReq) (sh : Shape) (line : Nat) : List (Nat × CopyByte) :=
  (List.range sh.pieces).flatMap (fun p =>
    let x := r.piece sh p
    if r.writes x then ((r.bytes sh x).filter (fun b => b.dst / 64 == line)).map (fun b => (p, b)) else [])

/-- R246, R299. What moves of a piece with the chunk of a line: its bytes of that line, and all of a piece whose bytes move
together, once. -/
def CopyReq.toMove (r : CopyReq) (sh : Shape) (line p : Nat) : List CopyByte :=
  let bs := r.bytes sh (r.piece sh p)
  if !r.whole sh || r.part.contains p then bs.filter (fun b => b.dst / 64 == line)
  else if bs.any (fun b => r.done.contains (b.dst / 64)) then []
  else bs

/-! ### Moving bytes -/

/-- A failure of a request: status code, reason, failing address, and whether the failing side is scratchpad. -/
structure CopyFail where
  code : Nat
  reason : Nat := 0
  va : Option Nat := none
  spad : Bool := false
  deriving DecidableEq, Repr

/-- Why a chunk does not move: a failure, or a translation that is awaited. -/
inductive CopyStop where
  | fail (f : CopyFail)
  | wait
  deriving DecidableEq, Repr

/-- R302, R307. The places of n bytes from a virtual address, byte by byte. -/
def State.copyPlaces (s : State) (who : Waiter) (w : Work) (k : Access) (code : Nat) :
    Nat → Nat → State × Except CopyStop (List PAddr)
  | _, 0 => (s, .ok [])
  | va, n + 1 =>
    let va := va % 2 ^ 64
    match (if canonical va then s.translateFor who w (coreOf w.g) va k else (s, .fail 1)) with
    | (s, .fail x) => (s, .error (.fail { code := code, reason := x, va := some va }))
    | (s, .miss) => (s, .error .wait)
    | (s, .host _) => (s, .error .wait)
    | (s, .ok p) =>
      match s.copyPlaces who w k code (va + 1) n with
      | (s, .error e) => (s, .error e)
      | (s, .ok l) => (s, .ok (p :: l))

/-- The access kinds of a form's global sides (R307, R416). -/
def srcAccess (form : Nat) : Access := if form = 5 then .gateLoad else .load
def dstAccess (form : Nat) : Access := if form = 5 then .gateStore else .store
/-- Who waits when a request does. -/
def CopyReq.waiter (r : CopyReq) : Waiter := .copy (coreOf r.work.g) r.id

/-- The place of a byte: of memory, or of a core's scratchpad before the swizzle. -/
inductive CopyPlace where
  | mem (p : PAddr)
  | sp (core off : Nat)
  deriving DecidableEq, Repr

/-- R170, R302, R307. The place of one byte of a side. -/
def State.copyPlace (s : State) (r : CopyReq) (side : CopySide) (k : Access) (code va : Nat) : State × Except CopyStop CopyPlace :=
  match side with
  | .spad =>
    if r.windowOf.winSize ≤ va then (s, .error (.fail { code := code, va := some va, spad := true }))
    else
      let pl := r.windowOf.winPlace va
      (s, .ok (.sp pl.1 pl.2))
  | _ =>
    match s.copyPlaces r.waiter r.work k code va 1 with
    | (s, .error e) => (s, .error e)
    | (s, .ok l) => (s, match l with | p :: _ => .ok (.mem p) | [] => .error .wait)

/-- R293. An accumulator element in the format of a drain. -/
def drainBytes (fmt : Nat) (v : Word) : List Byte :=
  match fmt with
  | 4 => natLe 2 (f16.convert rne false (f32.decode v.toNat)).1
  | 5 => natLe 2 (bf16.convert rne false (f32.decode v.toNat)).1
  | _ => bytesOfWord v

/-- A byte that is to be written: its value, its place, and the place it was read from if it was read. -/
structure Moved where
  val : Byte
  dst : CopyPlace
  src : Option CopyPlace
  deriving DecidableEq, Repr

/-- R307. The value of one source byte: of the tile that a drain has read, zero where it is clipped, or as it is read. -/
def State.copySource (s : State) (r : CopyReq) (sh : Shape) (p : Piece) (b : CopyByte) :
    State × Except CopyStop (Byte × Option CopyPlace) :=
  match srcSide r.form with
  | .drain =>
    (s, .ok ((drainBytes sh.fmt (r.drain.getD (64 * p.idx.getD 1 0 + p.idx.getD 0 0) 0)).getD b.i 0, none))
  | side =>
    if side = .global ∧ !p.inb then (s, .ok (0, none))
    else
      match s.copyPlace r side (srcAccess r.form) 2 b.src with
      | (s, .error e) => (s, .error e)
      | (s, .ok (.mem q)) => (s, .ok ((s.homeBytes (coreOf r.work.g) q 1).headD 0, some (.mem q)))
      | (s, .ok (.sp c o)) => (s, .ok (((s.core c).readSp o 1).headD 0, some (.sp c o)))

/-- R307. One byte is read, and its destination is found. -/
def State.copyByte (s : State) (r : CopyReq) (sh : Shape) (p : Piece) (b : CopyByte) : State × Except CopyStop Moved :=
  match s.copySource r sh p b with
  | (s, .error e) => (s, .error e)
  | (s, .ok (v, src)) =>
    match s.copyPlace r (dstSide r.form) (dstAccess r.form) 3 b.dst with
    | (s, .error e) => (s, .error e)
    | (s, .ok d) => (s, .ok { val := v, dst := d, src := src })

/-- R246, R316. The bytes of a piece that can move with the chunk of a line. A byte of that line that fails stops them all;
a byte of an MX unit in another line is left to its own chunk. The flag says that one was left. -/
def State.copyBytes (s : State) (r : CopyReq) (sh : Shape) (line : Nat) (p : Piece) :
    List CopyByte → State × Except CopyStop (List Moved × Bool)
  | [] => (s, .ok ([], false))
  | b :: l =>
    match s.copyByte r sh p b with
    | (s, .error .wait) => (s, .error .wait)
    | (s, .error (.fail f)) =>
      if b.dst / 64 = line ∨ !shapeMx sh.fmt then (s, .error (.fail f))
      else
        match s.copyBytes r sh line p l with
        | (s, .error e) => (s, .error e)
        | (s, .ok x) => (s, .ok (x.1, true))
    | (s, .ok m) =>
      match s.copyBytes r sh line p l with
      | (s, .error e) => (s, .error e)
      | (s, .ok x) => (s, .ok (m :: x.1, x.2))

/-- R316. Every byte of a chunk can move: the first stop of its pieces, in ascending order. -/
def State.checkPieces (s : State) (r : CopyReq) (sh : Shape) (line : Nat) : List Nat → State × Option CopyStop
  | [] => (s, none)
  | p :: l =>
    match s.copyBytes r sh line (r.piece sh p) (r.toMove sh line p) with
    | (s, .error e) => (s, some e)
    | (s, .ok _) => s.checkPieces r sh line l

/-- R237. One write of the engine at the home slice: the core's earlier stores to the line are there before it, and its
L1 loses the line. `add` is the operation of an adding form. -/
def State.engineWrite (s : State) (w : Work) (add : Option Nat) (ps : List PAddr) (b : List Byte) : State :=
  let core := coreOf w.g
  let lines := (ps.map PAddr.line).eraseDups
  let s := lines.foldl (fun (s : State) p => ((s.flushLine core w.ctx p).landLine core p s.nextId).l1Drop core p) s
  let old := ps.flatMap (fun p => s.memBytes p 1)
  let b := match add with
    | some op => bytesOfWord (atomOp op (wordOfBytes old) (wordOfBytes b))
    | none => b
  (ps.zip b).foldl (fun (s : State) x => s.memWrite x.1 [x.2]) s

/-- R176, R308, R320. One write of the engine to scratchpad, with the tag of its region set at the first chunk that
writes into it. -/
def State.engineSpad (s : State) (r : CopyReq) (core off : Nat) (b : List Byte) : State × List Nat :=
  let key := core * 2048 + off / 1024
  let tag : BitVec 4 := match r.swz with | some sp => BitVec.ofNat 4 (8 + sp) | none => 0
  let c := s.core core
  let c := b.zipIdx.foldl (fun (c : CoreSt) x =>
    let o := off + x.2
    c.writeSp (match r.swz with | some sp => swizzle (16 * 2 ^ sp) o | none => o) [x.1]) c
  if r.tagged.contains key then (s.setCore core c, []) else (s.setCore core (c.setTag off tag), [key])

/-- The writes of a piece. A rolled-back task's scratchpad is left alone (R320). -/
def State.writeMoved (s : State) (r : CopyReq) (sh : Shape) (ms : List Moved) : State × List Nat :=
  let add : Option Nat := if formAdds r.form then some (if sh.fmt = 2 then 0 else 9) else none
  let mem := ms.filterMap (fun m => match m.dst with | .mem p => some (p, m.val) | .sp _ _ => none)
  let s := if mem.isEmpty then s else s.engineWrite r.work add (mem.map (·.1)) (mem.map (·.2))
  if s.rolled.contains r.work.inc then (s, [])
  else
    ms.foldl (fun (a : State × List Nat) m =>
      match m.dst with
      | .sp c o =>
        let y := a.1.engineSpad { r with tagged := r.tagged ++ a.2 } c o [m.val]
        (y.1, a.2 ++ y.2)
      | .mem _ => a) (s, [])

/-- What the bytes that have moved add to a chunk's charges (R300). -/
def CopyChunk.took (ch : CopyChunk) (core : Nat) (ms : List Moved) : CopyChunk :=
  ms.foldl (fun (ch : CopyChunk) m =>
    let ch := match m.src with
      | some (.mem p) => { ch with rd := if ch.rd.contains p.line then ch.rd else ch.rd ++ [p.line] }
      | some (.sp c _) => { ch with spad := ch.spad + 1, remote := ch.remote || c != core }
      | none => ch
    match m.dst with
    | .mem p => { ch with wr := ch.wr ++ [p] }
    | .sp c _ => { ch with spad := ch.spad + 1, remote := ch.remote || c != core }) ch

/-- R300, R209. The charges of a chunk. -/
def State.chargeChunk (s : State) (r : CopyReq) (x : CopyChunk) : State :=
  let die := dieOf r.work.g
  let acc := x.rd.foldl (fun (a : State × List Landing) p =>
    let y := a.1.lineAccess r.work die p false false
    (y.1, a.2 ++ y.2)) (s, [])
  let acc := ((x.wr.map PAddr.line).eraseDups).foldl (fun (a : State × List Landing) p =>
    let full := (x.wr.eraseDups.filter (fun q => q.line == p)).length == 64
    let y := a.1.lineAccess r.work die p true full
    (y.1, a.2 ++ y.2)) acc
  let own := (if x.spad = 0 then [] else [(8, (x.spad + 3) / 4, qDom r.work.q)])
    ++ (if x.remote then [(9, 1, uDom die)] else [])
  acc.1.land r.work (own ++ acc.2)

/-- R312. The credit of a completed chunk. -/
def State.credit (s : State) (r : CopyReq) (n : Nat) : State :=
  match r.barrier with
  | none => s
  | some o =>
    let w := r.windowOf
    if w.winSize < o + 16 then s
    else
      let pl := w.winPlace o
      let s := s.land r.work ([(8, 4, qDom r.work.q)] ++ (if pl.1 = coreOf r.work.g then [] else [(9, 1, uDom (dieOfCore pl.1))]))
      match s.spPerform pl.1 pl.2 (.bb 2 (BitVec.ofNat 32 n)) (pl.1 != coreOf r.work.g) with
      | some x => x.1
      | none => s

/-! ### Request entries -/

def State.creq? (s : State) (core id : Nat) : Option CopyReq := (s.core core).creq.find? (fun r => r.id == id)
def State.modReq (s : State) (core id : Nat) (f : CopyReq → CopyReq) : State :=
  s.modCore core (fun c => { c with creq := updWhere (fun r => r.id == id) f c.creq })
def State.dropReq (s : State) (core id : Nat) : State :=
  s.modCore core (fun c => { c with creq := c.creq.filter (fun r => r.id != id) })

/-- R167. A request has ended: an exit-pending block that it touched may return. -/
def State.requestGone (s : State) (r : CopyReq) : State := s.blocksMayReturn r.info.segs

/-- R167. The ranges of window offsets that a request may touch: its scratchpad sides, whole until its shape is known, and its
byte barrier; anything, for a list. -/
def CopyReq.spans (r : CopyReq) : List (Nat × Nat) :=
  let n := match r.shape with | some sh => sh.spadBytes | none => r.windowOf.winSize
  let side (c : CopySide) (base : Nat) : List (Nat × Nat) := if c = .spad then [(base, n)] else []
  if r.list.isSome then [(0, r.windowOf.winSize)]
  else side (srcSide r.form) r.src ++ side (dstSide r.form) r.dst ++ (match r.barrier with | some o => [(o, 16)] | none => [])

/-- R167. A request may touch the block at an offset of a core. -/
def CopyReq.touches (r : CopyReq) (core off : Nat) : Bool :=
  let sz := 2 ^ r.info.spLog
  r.info.spLog != 0
    && r.info.segs.zipIdx.any (fun x => x.1 == (core, off) && r.spans.any (fun y => rangesMeet y.1 y.2 (x.2 * sz) sz))

/-- R316. The request fails: its failure is due. -/
def State.failReq (s : State) (core : Nat) (r : CopyReq) (f : CopyFail) : State :=
  let info : Option TrapInfo := (statusCause f.code f.spad).map (fun c =>
    { cause := c, reason := f.reason, va := f.va, detail := if f.code = 5 then 9 else 0 })
  (s.modReq core r.id (fun x => { x with failed := some (info.getD { cause := .illegalOperand }), status := f.code + 16 * f.reason })).dueOnce
    (.copyFailure core r.id)

/-- R306. The checks of a request's registers: the cause and the address of its trap. -/
def checkCopy (form : Nat) (regs : List Word) (winSize : Nat) : Option TrapInfo :=
  let w (i : Nat) : Nat := (regs.getD i 0).toNat
  let badSpad (i : Nat) : Bool := w (i + 1) != 0 || w i % 4 != 0
  let swz := w 7 / 8 % 2
  let o := w 7 / 16 * 16
  if w 0 % 128 != 0 || (srcSide form == .spad && badSpad 2) || (dstSide form == .spad && badSpad 4)
      || (swz == 0 && w 7 % 8 != 0) || (swz == 1 && dstSide form != .spad) then some { cause := .illegalOperand }
  else if w 7 / 16 ≠ 0xFFFFFFF ∧ winSize < o + 16 then some { cause := .spadRange, va := some o }
  else none

/-! ### The C words that make requests -/

/-- CPY (R304 to R307). -/
def State.cpyWord (s : State) (form : Nat) (h : BitVec 4) (a : BitVec 8) : State :=
  s.uWord true [(a.toNat, 8)] (fun s =>
    let regs := (List.range 8).map (fun i => s.u (a.toNat + i))
    match checkCopy form regs s.me.winSize with
    | some i => s.trap i
    | none =>
      s.unlessHolding (fun s => s.whenFree h.toNat (fun s => s.whenEngine (fun s => s.afterOwn (fun s =>
        let id := s.nextId
        ((s.newRequest form h.toNat regs none).due (.copyRequestStart s.myCore id)).done)))))

def execCpyG2s (_c : Bool) (h : BitVec 4) (a : BitVec 8) (s : State) : Host.Outcome State Fault Refusal := .next (s.cpyWord 0 h a)
def execCpyS2g (_c : Bool) (h : BitVec 4) (a : BitVec 8) (s : State) : Host.Outcome State Fault Refusal := .next (s.cpyWord 1 h a)
def execCpyS2gAdd (_c : Bool) (h : BitVec 4) (a : BitVec 8) (s : State) : Host.Outcome State Fault Refusal := .next (s.cpyWord 2 h a)
def execCpyG2g (_c : Bool) (h : BitVec 4) (a : BitVec 8) (s : State) : Host.Outcome State Fault Refusal := .next (s.cpyWord 3 h a)
def execCpyS2s (_c : Bool) (h : BitVec 4) (a : BitVec 8) (s : State) : Host.Outcome State Fault Refusal := .next (s.cpyWord 4 h a)
def execCpyGate (_c : Bool) (h : BitVec 4) (a : BitVec 8) (s : State) : Host.Outcome State Fault Refusal := .next (s.cpyWord 5 h a)

/-- CKICK (R310). -/
def execCkick (_c : Bool) (h : BitVec 4) (a b : BitVec 8) (s : State) : Host.Outcome State Fault Refusal :=
  .next (s.uWord true [(a.toNat, 1), (b.toNat, 1)] (fun s =>
    let off := (s.u a.toNat).toNat
    let n := (s.u b.toNat).toNat
    if n < 1 || 64 < n || off % 32 != 0 then s.trap { cause := .illegalOperand }
    else if s.me.winSize < off + 32 * n then s.trap { cause := .spadRange, va := some off }
    else
      s.unlessHolding (fun s => s.whenFree h.toNat (fun s => s.whenEngine (fun s => s.afterOwn (fun s =>
        let id := s.nextId
        ((s.newRequest 0 h.toNat [] (some (off, n, 0))).due (.copyRequestStart s.myCore id)).done))))))

/-! ### The engine's events -/

/-- R309. The compartment of a page of the request's context: the key slot's side, where it translates. -/
def State.pageSide (s : State) (ctx va : Nat) : Option Bool :=
  if !canonical va then none
  else match (s.walk ctx va).1 with | .ok e => if e.typ = 0 then some e.other else some false | .error _ => none

/-- R309. A gate table entry admits the request's in-bounds bytes. -/
def State.gateAdmits (s : State) (r : CopyReq) (sh : Shape) (ps : List Piece) : Bool :=
  let v := s.hbmNat (Config.gateTableBase + 64 * sh.gate) 64
  let f := bitsOf v
  let home : Nat := if (s.ctx r.work.ctx).comp then 1 else 0
  let code (side : Option Bool) : Option Nat := side.map (fun o => if o then 1 - home else home)
  let within (va base len : Nat) : Bool := base ≤ va && va < base + len
  let side (va want : Nat) : Bool := match code (s.pageSide r.work.ctx va) with | some c => c == want | none => true
  let one (p : Piece) : Bool := (r.bytes sh p).all (fun b =>
    within b.src (f 127 64) (f 191 128) && within b.dst (f 255 192) (f 319 256) && side b.src (f 1 1) && side b.dst (f 2 2))
  f 0 0 == 1 && f 1 1 != f 2 2 && f 7 3 == 0 && f 63 20 == 0 && f 511 320 == 0 && f 19 8 == r.work.ctx && ps.all one

/-- R309. The request may not move what it asks for. -/
def State.gateRefuses (s : State) (r : CopyReq) (sh : Shape) : Bool :=
  let ps := ((List.range sh.pieces).map (r.piece sh)).filter (fun p => p.inb)
  if r.form = 5 then !s.gateAdmits r sh ps
  else if r.form = 3 then
    ps.any (fun p => (r.bytes sh p).any (fun x =>
      match s.pageSide r.work.ctx x.src, s.pageSide r.work.ctx x.dst with
      | some a, some b => a != b
      | _, _ => false))
  else false

/-- COPY_REQUEST_START: the engine reads the shape record (R302) and checks the request; a list fetches its entry. -/
def execCopyRequestStart (core id : Nat) (s : State) : Host.Outcome State Fault Refusal :=
  .next (match s.creq? core id with
    | none => s
    | some r =>
      if r.started || r.failed.isSome || (6 ≤ r.form && r.drain.isEmpty) then s
      else if r.regs.isEmpty then s.dueOnce (.ckickEntryFetch core id)
      else
        match s.copyPlaces r.waiter r.work .load 2 (r.pair 0) 128 with
        | (s, .error (.fail f)) => s.failReq core r f
        | (s, .error .wait) => s
        | (s, .ok ps) =>
          let x := shapeOf (ps.flatMap (fun p => s.homeBytes core p 1))
          if !r.shapeOk x then s.failReq core r { code := 4 }
          else if s.gateRefuses r x.shape then s.failReq core r { code := 5 }
          else (s.modReq core id (fun y => { y with shape := some x.shape, started := true, done := [], part := [], turn := s.nextId })).takeId.dueOnce (.copyChunkComplete core id))

/-- CKICK_ENTRY_FETCH: the next list entry becomes the request (R311). -/
def execCkickEntryFetch (core id : Nat) (s : State) : Host.Outcome State Fault Refusal :=
  .next (match s.creq? core id with
    | none => s
    | some r =>
      match r.list with
      | none => s
      | some (off, n, i) =>
        if !r.regs.isEmpty || n ≤ i || r.failed.isSome then s
        else
          let pl := r.windowOf.winPlace (off + 32 * i)
          let ws := wordsOf ((s.core pl.1).readSp pl.2 32)
          let w0 := (ws.getD 0 0).toNat
          let form := w0 % 8
          let regs := ws.set 0 (BitVec.ofNat 32 (w0 / 8 * 8))
          let s := s.land r.work [(8, 8, qDom r.work.q)]
          if 6 ≤ form then s.failReq core r { code := 4 }
          else
            match checkCopy form regs r.windowOf.winSize with
            | some t => s.failReq core r { code := if t.cause = .spadRange then 3 else 4, va := t.va, spad := t.cause = .spadRange }
            | none =>
              (s.modReq core id (fun y => { y with form := form, regs := regs, started := false, shape := none, done := [], tagged := [], part := [] })).dueOnce
                (.copyRequestStart core id))

/-- R239. Pieces of the current chunk move, in ascending order, until one must wait or fails: the request after them. -/
def State.movePieces (s : State) (r : CopyReq) (sh : Shape) (ch : CopyChunk) :
    List Nat → State × CopyReq × CopyChunk × Option CopyStop
  | [] => (s, r, ch, none)
  | p :: l =>
    match s.copyBytes r sh ch.line (r.piece sh p) (r.toMove sh ch.line p) with
    | (s, .error e) => (s, r, ch, some e)
    | (s, .ok (ms, left)) =>
      let y := s.writeMoved r sh ms
      let ch := { ch.took (coreOf r.work.g) ms with left := ch.left.filter (· != p) }
      y.1.movePieces { r with tagged := r.tagged ++ y.2, part := if left then r.part ++ [p] else r.part } sh ch l

/-- R299, R312. A chunk is complete: it is charged and credited, and a cancelled request stops here (R318). -/
def State.endChunk (s : State) (core : Nat) (r : CopyReq) (sh : Shape) (ch : CopyChunk) : State :=
  let n := (r.chunkBytes sh ch.line).length
  let s := (s.chargeChunk r ch).countEv core 0x0B r.work.ctx n
  let s := if s.rolled.contains r.work.inc then s else s.credit r n
  let s := s.modReq core r.id (fun z => { z with done := ch.line :: z.done, tagged := r.tagged, part := r.part, chunk := none })
  if r.cancel then s.dueOnce (.copyCancelEffect core r.id) else s.dueOnce (.copyChunkComplete core r.id)

/-- R239. The aligned 4-byte units of the destination that a piece writes in a chunk. -/
def CopyReq.unitsOf (r : CopyReq) (sh : Shape) (line p : Nat) : List Nat := ((r.toMove sh line p).map (fun b => b.dst / 4)).eraseDups

/-- R239. The pieces among those left that share a 4-byte unit with the chosen ones, which move with them; a line has 16 units. -/
def CopyReq.joined (r : CopyReq) (sh : Shape) (line : Nat) (left : List Nat) : Nat → List Nat → List Nat
  | 0, ps => ps
  | n + 1, ps =>
    let us := ps.flatMap (r.unitsOf sh line)
    r.joined sh line left n (left.filter (fun p => ps.contains p || (r.unitsOf sh line p).any us.contains))

/-- R299. Round robin: of the requests of a core that can begin a chunk, the one whose last chunk began first has its turn. -/
def State.hasTurn (s : State) (core : Nat) (r : CopyReq) : Bool :=
  !(s.core core).creq.any (fun x => x.turn < r.turn && x.started && x.failed.isNone && x.chunk.isNone
    && s.pending.contains (.copyChunkComplete core x.id))

/-- COPY_CHUNK_COMPLETE: the request's current chunk begins, moves on or is complete (R299, R300, R307, R312). A chunk
begins at the request's turn, when all of its bytes can move; then its pieces move, as many in a step as the engine chooses,
but no 4-byte unit in two (R239). -/
def execCopyChunkComplete (core id : Nat) (s : State) : Host.Outcome State Fault Refusal :=
  .next (match s.creq? core id with
    | none => s
    | some r =>
      match r.shape with
      | none => s
      | some sh =>
        if !r.started || r.failed.isSome then s
        else
          match r.chunk with
          | none =>
            (match r.nextLine sh with
             | none => s.dueOnce (.copyRequestComplete core id)
             | some line =>
               if !s.hasTurn core r then s.dueOnce (.copyChunkComplete core id)
               else
               let ps := ((r.chunkBytes sh line).map (·.1)).eraseDups
               match s.checkPieces r sh line ps with
               | (s, some .wait) => s
               | (s, some (.fail f)) => s.failReq core r f
               | (s, none) =>
                 (s.takeId.modReq core id (fun z => { z with chunk := some { line := line, left := ps }, turn := s.nextId })).dueOnce
                   (.copyChunkComplete core id))
          | some ch =>
            match s.stepFree.movePieces r sh ch
                (r.joined sh ch.line ch.left 16 (ch.left.take (1 + Config.pick s.free % max 1 ch.left.length))) with
            | (s, r', ch', stop) =>
              let s := s.modReq core id (fun z => { z with tagged := r'.tagged, part := r'.part, chunk := some ch' })
              match stop with
              | some .wait => s
              | some (.fail f) => (s.chargeChunk r' ch').failReq core r' f
              | none => if ch'.left.isEmpty then s.endChunk core r' sh ch' else s.dueOnce (.copyChunkComplete core id))

/-- R298, R315. A request ends: its handle becomes Done and its entry is free. -/
def State.endReq (s : State) (core : Nat) (r : CopyReq) (status : Nat) : State :=
  ((s.finishHandle r.own r.handle r.exported (BitVec.ofNat 32 status)).dropReq core r.id).requestGone r

/-- COPY_REQUEST_COMPLETE: a list goes on with its next entry; any other request is done (R311, R315). -/
def execCopyRequestComplete (core id : Nat) (s : State) : Host.Outcome State Fault Refusal :=
  .next (match s.creq? core id with
    | none => s
    | some r =>
      if !r.started || r.failed.isSome then s
      else
        match r.list with
        | some (off, n, i) =>
          if i + 1 < n then
            (s.modReq core id (fun y => { y with list := some (off, n, i + 1), regs := [], started := false, shape := none, done := [], part := [] })).dueOnce
              (.ckickEntryFetch core id)
          else s.endReq core r 0
        | none => s.endReq core r 0)

/-- COPY_FAILURE: the failure status, and the trap on the holder of the handle (R316). -/
def execCopyFailure (core id : Nat) (s : State) : Host.Outcome State Fault Refusal :=
  .next (match s.creq? core id with
    | none => s
    | some r =>
      match r.failed with
      | none => s
      | some t => (s.failHandle r.own r.handle r.exported r.handlerWork t).endReq core r r.status)

/-- COPY_CANCEL_EFFECT: the request stops at a chunk boundary (R318). -/
def execCopyCancelEffect (core id : Nat) (s : State) : Host.Outcome State Fault Refusal :=
  .next (match s.creq? core id with
    | none => s
    | some r => if r.cancel && r.failed.isNone && r.chunk.isNone then s.endReq core r 1 else s)

/-! ### The BB words (R313, R314) -/

/-- R238, R314. The scope of a barrier step of the strand that may flip the phase. -/
def State.barrierScope (s : State) (o : Nat) : Nat := if (s.me.winPlace o).1 = coreOf s.iss.g then 1 else 3
/-- R238, R314. The scope of the flip that a wait observes, by the core of its agent: `.core` or `.die`. -/
def State.flipScope (s : State) (core off : Nat) : Nat := if (s.core core).bbFar.contains off then 3 else 1

/-- One access of a BB word to its object at a window offset. On another core's block it is a message whose reply is
awaited. A barrier step, which is what changes the object (R312), charges 4 scratchpad units (R300); the looks of BBWAIT
and BBTEST change nothing and charge none. -/
def State.bbStep (s : State) (o : Nat) (op : SpOp) (k : State → List Byte → State) : State :=
  let g := s.iss.g
  let pl := s.me.winPlace o
  let s := match op with
    | .bb 4 _ => s
    | _ => s.raw 8 4
  if s.me.usent.isNone && (s.awaitsAcquire || s.bankWaits pl.1) then s.hold .release
  else if pl.1 = coreOf g then
    match s.spPerform pl.1 pl.2 op with
    | some r => k r.1 r.2
    | none => s.hold .release
  else if s.me.usent.isSome then
    match s.me.ureply with
    | none => s.hold .release
    | some b => k (s.modMe (fun t => { t with usent := none, ureply := none })) b
  else if s.remoteFull pl.1 then s.hold .release
  else (((s.sendRemote g pl.1 32 pl.2 op (.uni s.nextId)).modMe (fun t => { t with usent := some s.nextId })).takeId).hold .release

/-- The common course of a BB word with its offset checked. -/
def State.bbWord (s : State) (o : BitVec 8) (regs : List (Nat × Nat)) (k : Nat → State → State) : State :=
  s.uWord true ((o.toNat, 1) :: regs) (fun s =>
    let x := (s.u o.toNat).toNat
    match s.barrierTrap x with
    | some i => s.trap i
    | none => s.whenEngine (k x))

/-- BBINIT is relaxed. -/
def execBbinit (_c : Bool) (d a : BitVec 8) (s : State) : Host.Outcome State Fault Refusal :=
  .next (s.bbWord d [(a.toNat, 1)] (fun o s => s.bbStep o (.bb 0 (s.u a.toNat)) (fun s _ => s.done)))
/-- BBEXPECT and BBARRIVE wait as a release of their scope. -/
def execBbexpect (_c : Bool) (d a : BitVec 8) (s : State) : Host.Outcome State Fault Refusal :=
  .next (s.bbWord d [(a.toNat, 1)] (fun o s => s.afterRelease (s.barrierScope o) (fun s =>
    s.bbStep o (.bb 1 (s.u a.toNat)) (fun s _ => s.done))))
def execBbarrive (_c : Bool) (d a : BitVec 8) (s : State) : Host.Outcome State Fault Refusal :=
  .next (s.bbWord d [(a.toNat, 1)] (fun o s => s.afterRelease (s.barrierScope o) (fun s =>
    s.bbStep o (.bb 2 (s.u a.toNat)) (fun s _ => s.done))))

/-- BBWAIT: a switch point that passes when the phase stands. -/
def execBbwait (_c : Bool) (d a : BitVec 8) (s : State) : Host.Outcome State Fault Refusal :=
  .next (s.bbWord d [(a.toNat, 1)] (fun o s => s.unlessHolding (fun s =>
    s.bbStep o (.bb 4 0) (fun s b =>
      let want := (s.u a.toNat).getLsbD 0
      let pl := s.me.winPlace o
      let sc := s.flipScope pl.1 pl.2
      let s := s.modMe Strand.switchPoint
      if (wordOfBytes b).getLsbD 0 = want then (s.acquireNow s.iss.g sc).done
      else (s.enterWait s.iss.g (.byteBarrier pl.1 pl.2 want)).done))))

/-- BBTEST. -/
def execBbtest (_c : Bool) (d a : BitVec 8) (s : State) : Host.Outcome State Fault Refusal :=
  .next (s.bbWord a [(d.toNat, 1)] (fun o s => s.bbStep o (.bb 4 0) (fun s b =>
    let pl := s.me.winPlace o
    let sc := s.flipScope pl.1 pl.2
    ((s.setU d.toNat (wordOfBytes b)).acquireNow s.iss.g sc).done)))

/-- BYTE_BARRIER_WAKE: the strand goes on if the phase stands as it awaits. -/
def execByteBarrierWake (g : Nat) (s : State) : Host.Outcome State Fault Refusal :=
  let t := (s.strand g).bring (fun w => match w with | .byteBarrier _ _ _ => true | _ => false)
  .next (match t.wait with
    | .byteBarrier core off phase =>
      if t.state = .waiting ∧ ((s.core core).byteBar off).phase = phase then
        (s.setStrand g t.wakeUp).acquireNow g (s.flipScope core off)
      else s
    | _ => s)

end Sys2Proof.Machine
end

