-- ==== Sys2Proof/Machine/Coll.lean ====
section
/-!
DEFINITION. Collectives (R339 to R341): the COLL word, and the events that end a collective.
-/

namespace Sys2Proof.Machine

/-! ### Records (R339) -/

/-- The fields of a collective record. -/
structure CollRecord where
  op : Nat
  dt : Nat
  group : Nat
  count : Nat
  send : Nat
  recv : Nat
  root : Nat
  seq : Nat
  miss : Nat
  clean : Bool
  deriving DecidableEq, Repr

def collRecord (bytes : List Byte) : CollRecord :=
  let f := bitsOf (leNat bytes)
  { op := f 3 0, dt := f 7 4, group := f 11 8, count := f 63 32, send := f 127 64, recv := f 191 128, root := f 223 192,
    seq := f 255 224, miss := f 319 256, clean := f 31 12 == 0 && f 511 320 == 0 }

/-- R339. The record is valid for a group of n ranks. -/
def CollRecord.ok (r : CollRecord) (n : Nat) : Bool :=
  r.clean && r.op ≤ 3 && r.dt ≤ 3 && (r.dt != 3 || 2 ≤ r.op) && 1 ≤ r.count && r.count < 2 ^ 31
    && (r.op != 1 || r.count % n == 0) && r.send % 4 == 0 && r.recv % 4 == 0 && (if r.op = 3 then r.root < n else r.root == 0)

/-- R341. Two members' records agree. -/
def CollRecord.agrees (a b : CollRecord) : Bool :=
  a.op == b.op && a.dt == b.dt && a.count == b.count && a.root == b.root && a.seq == b.seq

/-- Elements that a rank receives (R340). -/
def CollRecord.recvCount (r : CollRecord) (n : Nat) : Nat :=
  match r.op with | 1 => r.count / n | 2 => r.count * n | _ => r.count

/-! ### The word -/

def CollMember.rec_ (m : CollMember) : CollRecord := collRecord m.record
/-- Ranks of a launch's group: cohort, strand and package of each (R379). -/
def State.collGroup (s : State) (launch grp : Nat) : List (Nat × Nat × Nat) :=
  match s.launch? launch with | some it => it.coll.getD grp [] | none => []

/-- The ranks of this package. -/
def State.localRanks (s : State) (launch grp : Nat) : List Nat :=
  ((s.collGroup launch grp).zipIdx.filter (fun x => x.1.2.2 == s.pkg.num)).map (·.2)

/-- R341. Every rank is here and all are of this package, or a record has spoilt the collective: its end is due. -/
def State.collDue (s : State) (c : Collective) : State :=
  let here := (s.localRanks c.launch c.grp).all (fun r => c.members.any (fun m => m.rank == r))
  let all := (s.localRanks c.launch c.grp).length == c.n
  if c.bad || (here && all) then s.dueOnce (.collectiveComplete c.id []) else s

/-- A member joins the oldest collective of its group that it is not yet in. -/
def State.collJoin (s : State) (launch grp n : Nat) (m : CollMember) (bad : Bool) : State :=
  match s.colls.find? (fun c => c.launch == launch && c.grp == grp && c.n == n && !c.members.any (fun x => x.rank == m.rank)) with
  | some c =>
    let c' : Collective :=
      { c with members := c.members ++ [m], bad := c.bad || bad || c.members.any (fun x => !x.rec_.agrees m.rec_) }
    ({ s with colls := updWhere (fun x => x.id == c.id) (fun _ => c') s.colls } : State).collDue c'
  | none =>
    let c : Collective := { id := s.nextId, launch := launch, grp := grp, n := n, members := [m], bad := bad }
    (({ s with colls := s.colls ++ [c] } : State).takeId).collDue c

/-- R340, R341. The record as the engine reads it: 64 bytes of a type-00 page. -/
def State.collRead (s : State) (w : Work) (va : Nat) : State × Except Hold (Option (List Byte)) :=
  if !canonical va || va % 64 != 0 then (s, .ok none)
  else
    match (s.translate (coreOf w.g) w.ctx va .load).2 with
    | .host _ => (s, .ok none)
    | _ =>
      match s.translateFor (.group w.g) w (coreOf w.g) va .load with
      | (s, .miss) => (s, .error .walk)
      | (s, .ok p) =>
        if p.host then (s, .ok none) else (s.chargeLine w (dieOf w.g) p false false, .ok (some (s.homeBytes (coreOf w.g) p 64)))
      | (s, _) => (s, .ok none)

/-- R315, R340. A member's contribution with the record it has read, if it could read it: its handle is Pending. -/
def State.collPost (s : State) (h : BitVec 4) (bytes : Option (List Byte)) : State :=
  let w := s.myWork
  let s := s.modMe (fun t => t.setHandle h.toNat .pending)
  let b := bytes.getD (natLe 64 0)
  let x := collRecord b
  let launch := match s.me.info.work with | .cohort l _ => l | .task _ => 0
  let isTask : Bool := match s.me.info.work with | .cohort _ _ => false | .task _ => true
  let grp := if bytes.isNone || isTask then [] else s.collGroup launch x.group
  let n := grp.length
  let rank := grp.findIdx? (fun y => y == (s.me.info.cohort, s.me.info.strandId, s.pkg.num))
  let m : CollMember :=
    { rank := rank.getD n, g := w.g, handle := h.toNat, exported := none, work := w, own := w, handlerWork := s.me.handlerMark,
      send := x.send, recv := x.recv, miss := x.miss, record := b }
  s.collJoin launch x.group n m (rank.isNone || !x.ok n)

/-- COLL. -/
def execColl (_c : Bool) (h : BitVec 4) (a : BitVec 8) (s : State) : Host.Outcome State Fault Refusal :=
  .next (s.uWord true [(a.toNat, 2)] (fun s =>
    if s.me.setBound then s.trap { cause := .setViolation, detail := 7 }
    else
      s.whenFree h.toNat (fun s => s.afterOwn (fun s =>
        match s.collRead s.myWork (s.u2 a.toNat).toNat with
        | (s, .error w) => s.hold w
        | (s, .ok rec_) => (s.collPost h rec_).done))))

/-! ### Results (R340) -/

/-- One step of Red. -/
def collRed (dt : Nat) (a b : Word) : Word :=
  match dt with
  | 0 => BitVec.ofNat 32 (f32.add rne a.toNat b.toNat).1
  | 1 => a + b
  | _ => (minMax true a b).1

/-- Red over the ranks in ascending order, of element i. -/
def collReduce (dt : Nat) (sends : List (List Word)) (i : Nat) : Word :=
  match sends with
  | [] => 0
  | a :: l => l.foldl (fun acc b => collRed dt acc (b.getD i 0)) (a.getD i 0)

/-- What rank r receives. -/
def collResult (x : CollRecord) (n r : Nat) (sends : List (List Word)) : List Word :=
  match x.op with
  | 0 => (List.range x.count).map (collReduce x.dt sends)
  | 1 => (List.range (x.count / n)).map (fun i => collReduce x.dt sends (r * (x.count / n) + i))
  | 2 => sends.flatMap (fun b => (List.range x.count).map (fun i => b.getD i 0))
  | _ => let b := sends.getD x.root []; (List.range x.count).map (fun i => b.getD i 0)

/-! ### Ends -/

/-- A member's handle becomes Done, with the trap of a failure (R316). -/
def State.collEnd (s : State) (m : CollMember) (status : Nat) (trap : Option TrapInfo) : State :=
  let s := match trap with | some i => s.failHandle m.own m.handle m.exported m.handlerWork i | none => s
  s.finishHandle m.own m.handle m.exported (BitVec.ofNat 32 status)

/-- The places of the n bytes of a member's MISS bitmap by the tables as they stand. -/
def State.missPlaces (s : State) (m : CollMember) : Nat → Nat → Option (List PAddr)
  | _, 0 => some []
  | va, n + 1 =>
    if !canonical va then none
    else
      match (s.walk m.work.ctx va).1 with
      | .error _ => none
      | .ok e =>
        match denied e .store, s.place (dieOf m.work.g) e va, s.missPlaces m (va + 1) n with
        | none, .ok p, some l => some (p :: l)
        | _, _, _ => none

/-- R341. A member ends with ABORTED: the missing ranks' number, the lowest, and the bitmap at MISS. -/
def State.collAbort (s : State) (c : Collective) (m : CollMember) (missing : List Nat) : State :=
  let lowest := missing.foldl min (missing.headD 0)
  let s :=
    if m.miss = 0 then s
    else
      let bytes := (List.range ((c.n + 7) / 8)).map (fun i =>
        BitVec.ofNat 8 (((List.range 8).filter (fun b => missing.contains (8 * i + b))).foldl (fun v b => v + 2 ^ b) 0))
      match s.copyPlaces (.copy (coreOf m.work.g) c.id) m.work .store 3 m.miss bytes.length with
      | (s, .ok ps) => s.engineWrite m.work none ps bytes
      | (s, .error (.fail _)) => s
      | (s, .error .wait) =>
        -- the handle ends at once: the bitmap is placed by the tables while the walk fills the TLBs (log 64)
        match s.missPlaces m m.miss bytes.length with | some ps => s.engineWrite m.work none ps bytes | none => s
  s.collEnd m (6 + min missing.length 255 * 2 ^ 8 + lowest % 2 ^ 10 * 2 ^ 16) none

/-- The places of a member's two buffers, or the failure of the one that does not translate. -/
def State.collPlaces (s : State) (id n : Nat) (m : CollMember) : State × Except CopyStop (List PAddr × List PAddr) :=
  let x := m.rec_
  let sendLen := if x.op = 3 ∧ m.rank ≠ x.root then 0 else 4 * x.count
  match s.copyPlaces (.copy (coreOf m.work.g) id) m.work .load 2 m.send sendLen with
  | (s, .error e) => (s, .error e)
  | (s, .ok a) =>
    match s.copyPlaces (.copy (coreOf m.work.g) id) m.work .store 3 m.recv (4 * x.recvCount n) with
    | (s, .error e) => (s, .error e)
    | (s, .ok b) => (s, .ok (a, b))

/-- The places of every local member's buffers, in the order of the members. -/
def State.collAll (s : State) (id n : Nat) : List CollMember → State × List (CollMember × Except CopyStop (List PAddr × List PAddr))
  | [] => (s, [])
  | m :: l =>
    let r := s.collPlaces id n m
    let t := r.1.collAll id n l
    (t.1, (m, r.2) :: t.2)

/-- R241. A collective that completes is an acquire by every participant of the buffers it names: no participant's L1 keeps a
line of them. -/
def State.collAcquire (s : State) (c : Collective) (lines : List PAddr) : State :=
  c.members.foldl (fun (s : State) m => lines.foldl (fun (s : State) p => s.l1Drop (coreOf m.work.g) p) s) s

/-- R241. It is a release by every participant first: no participant's core keeps a translated store or a combined value of
a line of the buffers, so that what was written stands at the home slice. -/
def State.collRelease (s : State) (c : Collective) (lines : List PAddr) : State :=
  c.members.foldl (fun (s : State) m => lines.foldl (fun (s : State) p =>
    (s.flushLine (coreOf m.work.g) m.work.ctx p).landLine (coreOf m.work.g) p s.nextId) s) s

/-- R343. A line that travels between packages is a flit over a pod link. -/
def Collective.podFlits (c : Collective) (here : Nat) (lines : Nat) : List Landing :=
  if here = c.n ∨ lines = 0 then [] else [(15, lines, iDom)]

/-- R341. Deliver a member's result, charged as a copy of what it sends and receives. -/
def State.collDeliver (s : State) (c : Collective) (sends : List (List Word)) (m : CollMember) (ps : List PAddr × List PAddr) : State :=
  let out := bytesOfWords (collResult m.rec_ c.n m.rank sends)
  let s := s.engineWrite m.work none ps.2 out
  let charge (write : Bool) (a : State × List Landing) (p : PAddr) : State × List Landing :=
    let y := a.1.lineAccess m.work (dieOf m.work.g) p write false
    (y.1, a.2 ++ y.2)
  let a := ((ps.1.map PAddr.line).eraseDups).foldl (charge false) (s, [])
  let a := ((ps.2.map PAddr.line).eraseDups).foldl (charge true) a
  let n := ((ps.1.map PAddr.line).eraseDups).length + ((ps.2.map PAddr.line).eraseDups).length
  (a.1.land m.work (a.2 ++ c.podFlits (s.localRanks c.launch c.grp).length n)).collEnd m 0 none

/-- R341. A contribution of another package that is not of the length which the records here give it: the member's record
is bad or disagrees. -/
def Collective.strangers (c : Collective) (locals : List Nat) (contribs : List (List (BitVec 32))) : Bool :=
  match c.members with
  | [] => false
  | m :: _ =>
    contribs.length == c.n && (List.range c.n).any (fun q => !locals.contains q
      && (contribs.getD q []).length != (if m.rec_.op = 3 ∧ q ≠ m.rec_.root then 0 else m.rec_.count))

/-- COLLECTIVE_COMPLETE: every contribution has been received (`contribs` holds those of other packages, by rank), or a
record has ended the collective with BAD_REQUEST. -/
def execCollectiveComplete (id : Nat) (contribs : List (List (BitVec 32))) (s : State) : Host.Outcome State Fault Refusal :=
  .next (match s.colls.find? (fun c => c.id == id) with
    | none => s
    | some c =>
      let gone : State := { s with colls := s.colls.filter (fun x => x.id != id) }
      let locals := s.localRanks c.launch c.grp
      if c.bad || c.strangers locals contribs then c.members.foldl (fun (s : State) m => s.collEnd m 4 (some { cause := .illegalOperand })) gone
      else if !locals.all (fun r => c.members.any (fun m => m.rank == r)) || (locals.length != c.n && contribs.length != c.n) then s
      else
        let r := s.collAll id c.n c.members
        let paged : Bool := r.2.any (fun x => match x.2 with | .error .wait => true | _ => false)
        if paged then r.1.dueOnce (.collectiveComplete id contribs)
        else
          let s : State := { r.1 with colls := r.1.colls.filter (fun x => x.id != id) }
          let failed := r.2.filterMap (fun x => match x.2 with | .error _ => some x.1.rank | .ok _ => none)
          if failed.isEmpty then
            let lines := (r.2.flatMap (fun x => match x.2 with | .ok ps => (ps.1 ++ ps.2).map PAddr.line | .error _ => [])).eraseDups
            let s := s.collRelease c lines
            let sends := (List.range c.n).map (fun q =>
              match List.find? (fun x => x.1.rank == q) r.2 with
              | some (m, .ok ps) => wordsOf (ps.1.map (fun p => (s.homeBytes (coreOf m.work.g) p 1).headD 0))
              | _ => contribs.getD q [])
            let s := r.2.foldl (fun (s : State) x => match x.2 with | .ok ps => s.collDeliver c sends x.1 ps | .error _ => s) s
            s.collAcquire c lines
          else
            r.2.foldl (fun (s : State) x =>
              match x.2 with
              | .error (.fail f) =>
                s.collEnd x.1 (f.code + 16 * f.reason)
                  ((statusCause f.code false).map (fun k => { cause := k, reason := f.reason, va := f.va }))
              | _ => s.collAbort c x.1 failed) s)

/-- COLLECTIVE_TIMEOUT: members are missing; every member here ends with ABORTED. -/
def execCollectiveTimeout (id : Nat) (missing : List Nat) (s : State) : Host.Outcome State Fault Refusal :=
  .next (match s.colls.find? (fun c => c.id == id) with
    | none => s
    | some c =>
      c.members.foldl (fun (s : State) m => s.collAbort c m missing) { s with colls := s.colls.filter (fun x => x.id != id) })

end Sys2Proof.Machine
end

