-- ==== Sys2Proof/Machine/Aset.lean ====
section
/-!
DEFINITION. Atomic sets (R248 to R271): the ASET words, the steps of a home slice, wounds, rollback and restart, the
irrevocable token, and the drain of the hold buffer at EXIT.
-/

namespace Sys2Proof.Machine

/-! ### The ASET words (R269 to R271) -/

/-- The trap of a violation code (R272). -/
def violation (code : Nat) (va : Option Nat := none) : TrapInfo := { cause := .setViolation, detail := code, va := va }

/-- ASDEF. DESIGN CHOICE (log 141): after a grant a serialised task traps too, by R270 and code 4 of R272; R259 says that none of
its own rules bind such a task. -/
def execAsdef (_c : Bool) (n : BitVec 2) (a : BitVec 8) (s : State) : Host.Outcome State Fault Refusal :=
  .next (s.uWord true [(a.toNat, 4)] (fun s =>
    let t := s.me
    let d := s.u128 a.toNat
    let others := (t.aset.sets.filter (fun x => x.1 != n.toNat)).map (·.2)
    if !t.setBearing then s.trap (violation 1)
    else if t.info.setCount ≤ n.toNat then s.trap (violation 3)
    else if t.aset.granted then s.trap (violation 4)
    else if descV d && !descValid others d then s.trap (violation 2)
    else
      (s.modMe (fun t => { t with aset := { t.aset with
        sets := if descV d then t.aset.sets.insert n.toNat d else t.aset.sets.erase n.toNat } })).done))

/-- R270. Acquire granules by virtual address, in ascending order. -/
def State.touch (s : State) (d : BitVec 128) : List Nat → State
  | [] => s.done
  | va :: l =>
    let g := s.iss.g
    match s.translateFor (.group g) (s.workOf g) (coreOf g) va .load with
    | (s, .miss) => s.hold .walk
    | (s, .fail r) => s.trap { cause := .loadFault, reason := r, kind := 1, va := some va }
    | (s, .host _) => s.hold .pageWait
    | (s, .ok p) =>
      match s.acquire g d p with
      | (s, .held) => s.touch d l
      | (s, .waits _) => s.hold .granule
      | (s, .violation) => s.trap (violation 5 (some va))
      | (s, .overflow) => s.hold .granule

/-- ASTOUCH. -/
def execAstouch (_c : Bool) (d a : BitVec 8) (s : State) : Host.Outcome State Fault Refusal :=
  .next (s.uWord true [(d.toNat, 1), (a.toNat, 2)] (fun s =>
    let va := (s.u2 a.toNat).toNat
    let c := (s.u d.toNat).toNat
    if !s.me.setBearing then s.trap (violation 1)
    else if 64 < c then s.trap (violation 6)
    else if c = 0 then s.done
    else
      match s.me.inSet va with
      | none => s.trap (violation 6 (some va))
      | some (_, x) =>
        let i := (va - descBase x) / descSize x
        if descCount x < i + c then s.trap (violation 6 (some va))
        else s.touch x ((List.range c).map (fun j => descBase x + (i + j) * descSize x))))

/-- ASAGE. -/
def execAsage (_c : Bool) (d : BitVec 8) (s : State) : Host.Outcome State Fault Refusal :=
  .next (s.uWord true [(d.toNat, 2)] (fun s => (s.setU2 d.toNat s.me.info.stamp).done))

/-- R271. The status of an address. -/
def State.asStatus (s : State) (va : Nat) : State × Except Hold Word :=
  let t := s.me
  if !t.setBearing then (s, .ok 0)
  else
    let g := s.iss.g
    let x := t.inSet va
    let r := if canonical va then s.translateFor (.group g) (s.workOf g) (coreOf g) va .load else (s, .fail 1)
    let p : Option PAddr := match r.2 with | .ok p => some p | _ => none
    let held : Bool := match x, p with | some (_, d), some p => !p.host && decide (granuleAt d p ∈ t.aset.holds) | _, _ => false
    let line : Bool := match p with
      | some p => t.aset.lines.any (fun l => l.line == p.addr / 64 && l.host == p.host && !l.bytes.isEmpty)
      | none => false
    let b (v : Bool) (i : Nat) : Nat := if v then 2 ^ i else 0
    (r.1, match r.2 with
      | .miss => .error .walk
      | .host _ => .error .pageWait
      | _ => .ok (BitVec.ofNat 32 (b x.isSome 0 + b held 1 + (match x with | some (n, _) => n * 4 | none => 0) + b line 4
          + 2 ^ 5 + b t.aset.serialised 6 + t.aset.reason * 2 ^ 8 + t.aset.restarts * 2 ^ 16)))

/-- ASQ. -/
def execAsq (_c : Bool) (d a : BitVec 8) (s : State) : Host.Outcome State Fault Refusal :=
  .next (s.uWord true [(d.toNat, 1), (a.toNat, 2)] (fun s =>
    match s.asStatus (s.u2 a.toNat).toNat with
    | (s, .error h) => s.hold h
    | (s, .ok v) => (s.setU d.toNat v).done))

/-- ASRETRY: a rollback of the strand's own asking. -/
def execAsretry (_c : Bool) (a : BitVec 8) (s : State) : Host.Outcome State Fault Refusal :=
  .next (s.uWord true [(a.toNat, 1)] (fun s =>
    if !s.me.setBearing || s.me.aset.serialised then s.trap (violation 1)
    else
      let at_ := s.podTime + (s.u a.toNat).setWidth 64
      ((s.modMe (fun t => { t with aset := { t.aset with retryAt := at_ } })).markRollback s.iss.g 7 false).done))

/-! ### A home slice (R255) -/

/-- R263. A wound is on its way to a task, addressed by the stamp and the restart count that its entry records. -/
def State.woundOf (s : State) (a : TaskAge) : State := s.dueOnce (.wound a.stamp a.restarts)

/-- R255. Roll a task back for a full list; it leaves the wait lists at once. -/
def State.bounce (s : State) (a : TaskAge) (reason : Nat) : State :=
  if s.liveWork a.work then (s.leaveWaitLists a.work.g).markRollback a.work.g reason false else s

/-- R255. Wait: the request joins the wait list, or the youngest goes. -/
def State.homeWait_ (s : State) (slice : Nat) (a : TaskAge) (x : Granule) (slot : Bool) : State :=
  let h := s.slice slice
  let e : WaitEntry := { task := a, gran := x, slot := slot }
  if h.waitList.length < 8 then s.setSlice slice { h with waitList := h.waitList ++ [e] }
  else
    match s.youngest WaitEntry.task h.waitList with
    | none => s.bounce a 2
    | some y =>
      if s.older a y.task then (s.bounce y.task 2).modSlice slice (fun h => { h with waitList := h.waitList ++ [e] })
      else s.bounce a 2

/-- R255. Grant: the entry is the task's, and the grant is on its way. -/
def State.grantGranule (s : State) (slice : Nat) (a : TaskAge) (x : Granule) : State :=
  let s := s.modSlice slice (fun h =>
    { h with holdTable := h.holdTable.filter (fun e => e.gran != x) ++ [{ gran := x, task := a }] })
  (s.granuleMessage a.work (dieOf a.work.g) slice false).due (.granuleGrant a.work.g x.base x.glog)

/-- R255. HomeRequest: one indivisible step. -/
def State.homeRequest (s : State) (slice : Nat) (a : TaskAge) (x : Granule) : State :=
  let h := s.slice slice
  match h.holdTable.find? (fun e => e.gran == x) with
  | some e =>
    if e.task.work = a.work then s.grantGranule slice a x
    else (if s.older a e.task then s.woundOf e.task else s).homeWait_ slice a x false
  | none =>
    if h.holdTable.length < 2048 - s.retiredOf (.holdTable slice) then s.grantGranule slice a x
    else
      match s.youngest HoldEntry.task h.holdTable with
      | none => s.bounce a 6
      | some y => if s.older a y.task then (s.woundOf y.task).homeWait_ slice a x true else s.bounce a 6

/-- A task whose request has been settled looks at its slot again. -/
def State.lookAgain (s : State) (g : Nat) : State := s.retryFlights (fun x => x == g)

/-- GRANULE_REQUEST: the oldest request at a home slice. -/
def execGranuleRequest (slice : Nat) (s : State) : Host.Outcome State Fault Refusal :=
  .next (match (s.slice slice).reqs with
    | [] => s
    | (a, x) :: rest =>
      let s := s.modSlice slice (fun h => { h with reqs := rest })
      if s.liveWork a.work then (s.homeRequest slice a x).lookAgain a.work.g else s)

/-- GRANULE_GRANT: the granule is on the task's hold list, an acquire at `.pkg`, and its slot or group goes on. -/
def execGranuleGrant (g base glog : Nat) (s : State) : Host.Outcome State Fault Refusal :=
  let x : Granule := { base := base, glog := glog }
  let t := s.strand g
  .next (if !t.resident || x ∈ t.aset.holds then s
    else
      let s := s.modStrand g (fun t => { t with aset := { t.aset with holds := t.aset.holds ++ [x], granted := true } })
      let s := s.l1DropCtx (coreOf g) t.info.ctx
      let came (f : Flight) : Flight := if f.stop = .granWait ∧ f.granule = some x then { f with stop := .reissue } else f
      (s.modStrand g (fun t => Strand.unpark { t with flight := t.flight.map came })).lookAgain g)

/-- Take an entry off the wait list. -/
def State.unwait (s : State) (slice : Nat) (e : WaitEntry) : State :=
  s.modSlice slice (fun h => { h with waitList := h.waitList.erase e })

/-- R255. A released granule is granted to the oldest waiter that wants it, if there is one. -/
def State.passOn (s : State) (slice : Nat) (x : Granule) : State :=
  match s.oldest WaitEntry.task ((s.slice slice).waitList.filter (fun e => e.gran == x)) with
  | none => s
  | some e => ((s.unwait slice e).grantGranule slice e.task x).lookAgain e.task.work.g

/-- R255. Free table entries go to the oldest waiters for a free entry; one whose granule is held meanwhile waits for that. -/
def State.fillTable (s : State) (slice : Nat) : Nat → State
  | 0 => s
  | n + 1 =>
    let h := s.slice slice
    match s.oldest WaitEntry.task (h.waitList.filter (·.slot)) with
    | none => s
    | some e =>
      if 2048 - s.retiredOf (.holdTable slice) ≤ h.holdTable.length then s
      else (((s.unwait slice e).homeRequest slice e.task e.gran).lookAgain e.task.work.g).fillTable slice n

/-- GRANULE_RELEASE: the oldest release at a home slice; the task is told. -/
def execGranuleRelease (slice : Nat) (s : State) : Host.Outcome State Fault Refusal :=
  .next (match (s.slice slice).rels with
    | [] => s
    | (a, which) :: rest =>
      let h := s.slice slice
      let g := a.work.g
      let goes (e : HoldEntry) : Bool := e.task.work == a.work && (match which with | some x => e.gran == x | none => true)
      let freed := (h.holdTable.filter goes).map (·.gran)
      let s := s.setSlice slice { h with holdTable := h.holdTable.filter (fun e => !goes e), rels := rest }
      let s := (freed.foldl (fun (s : State) x => s.passOn slice x) s).fillTable slice h.waitList.length
      if !(s.strand g).resident || (s.strand g).info.stamp != a.stamp then s
      else
      let s := s.modStrand g (fun t => { t with aset := { t.aset with acks := t.aset.acks - 1 } })
      if (s.strand g).aset.rolling && (s.strand g).aset.acks = 0 then s.dueOnce (.rollbackRestart g) else s)

/-- WOUND (R263). -/
def execWound (stamp : DWord) (restart : Nat) (s : State) : Host.Outcome State Fault Refusal :=
  .next (match List.find? (fun x => x.2.resident && x.2.setBound && x.2.info.stamp == stamp && x.2.aset.restarts == restart) s.strands with
    | none => s
    | some x => s.markRollback x.1 1 false)

/-! ### Rollback (R261, R262) -/

/-- R65, R118. A strand as dispatch leaves it. -/
def Strand.fresh (t : Strand) : Strand :=
  { resident := true, info := t.info, state := .ready, pc := t.info.entry, masks := Words.set [] 0 t.info.live,
    uregs := putWords [] 0 t.info.args, inc := t.inc }

/-- R261 step 5. The strand at its dispatch values: what an atomic set keeps is kept, and a hold or a halt goes on. -/
def Strand.rolledBack (t : Strand) (inc : Nat) : Strand :=
  let b := t.fresh
  let a : SetState :=
    { restarts := min 0xFFFF (t.aset.restarts + 1), reason := t.aset.reason, serialised := t.aset.serialised || t.aset.overflow,
      sets := t.aset.sets0, bad := t.aset.bad0, sets0 := t.aset.sets0, bad0 := t.aset.bad0, rolling := true, retryAt := t.aset.retryAt, acks := t.aset.acks }
  let kept : Bool := t.state == .held || t.state == .halted
  { b with aset := a, inc := inc, state := if kept then t.state else .waiting, wait := if kept then .nothing else .retry,
           before := .waiting, haltFrom := if t.haltFrom = .held then .held else .waiting, resuming := t.resuming }

/-- R261 steps 3 and 5. The tiles and the scratchpad block of a strand are as at dispatch; accepted M words run on. -/
def State.refillUnits (s : State) (g : Nat) : State :=
  let t := s.strand g
  let s := (s.modQuarter (quarterOf g) (fun x => { x with tiles := x.endTiles g true })).dropDrains g
  match t.info.segs with
  | [(c, o)] => s.modCore c (fun x => x.refill o t.info.spLog)
  | _ => s

/-- R248, R250. The valid ones among the descriptors with V = 1, in slot order: one that overlaps an earlier valid one is not
valid. -/
def validSets (l : List (BitVec 128 × Nat)) : Assoc (BitVec 128) :=
  l.foldl (fun (m : Assoc (BitVec 128)) x => if descV x.1 && descValid (m.map (·.2)) x.1 then m ++ [(x.2, x.1)] else m) []

/-- R249. The place of byte va of a descriptor array. -/
def State.setByte (s : State) (g va : Nat) : Trans :=
  if !canonical va then .fail 1
  else
    match (s.walk (s.strand g).info.ctx va).1 with
    | .error r => .fail r
    | .ok e => match denied e .load with | some r => .fail r | none => s.place (dieOf g) e va

/-- R249. The set descriptors of a task, as dispatch reads them from its record. A host page without an answer is asked for
(R196), and the descriptors are read when it has come. -/
def State.readSets (s : State) (g : Nat) : State :=
  let t := s.strand g
  let n := t.info.setCount
  let p := t.info.setPtr
  let put (s : State) (sets : Assoc (BitVec 128)) (bad : Nat) : State :=
    s.modStrand g (fun t => { t with aset := { t.aset with sets := sets, bad := bad, sets0 := sets, bad0 := bad, unread := false } })
  if n = 0 ∨ p = 0 then put s [] 0
  else if p % 16 ≠ 0 then put s [] 8
  else
    let ts := (List.range n).map (fun i => s.setByte g (p + 16 * i))
    match ts.findSome? (fun x => match x with | .host page => some page | _ => none) with
    | some page =>
      let a : AskItem := { who := .group g, ctx := t.info.ctx, host := true, page := page }
      (match s.takeAnswer (dieOf g) a with
       | some (s, _) => put s [] 8
       | none =>
         ((s.atsAsk (dieOf g) t.info.ctx page).listAsk (dieOf g) a).modStrand g (fun t => { t with aset := { t.aset with unread := true } }))
    | none =>
      let ds := ts.filterMap (fun x => match x with | .ok q => some (BitVec.ofNat 128 (leNat (s.memBytes q 16))) | _ => none)
      if ds.length ≠ n then put s [] 8
      else
        let l := ds.zipIdx
        let sets := validSets l
        put s sets (if sets.length = (l.filter (fun x => descV x.1)).length then 0 else 2)

/-- R262. The task record that a task with spilt state restarts from. -/
def State.requeue (s : State) (g : Nat) : State :=
  let t := s.strand g
  match t.info.work with
  | .cohort _ _ => s
  | .task id =>
    let c := s.ctx t.info.ctx
    match c.tasks.find? (fun x => x.id == id) with
    | none => s
    | some it =>
      let prior : PriorTask :=
        { stamp := t.info.stamp, restarts := min 0xFFFF (t.aset.restarts + 1), reason := t.aset.reason,
          serialised := t.aset.serialised || t.aset.overflow, frame := t.info.frame, retryAt := t.aset.retryAt }
      s.modCtx t.info.ctx (fun c => { c with tasks := updWhere (fun x => x.id == it.id) (fun x => { x with prior := some prior, running := false }) c.tasks })

/-- R262. A rolled-back task with spilt state leaves its place, keeps its frame, and waits in its queue. -/
def State.leavePlace (s : State) (g : Nat) : State :=
  let i := (s.strand g).info
  ((s.requeue g).reclaim g).modCtx i.ctx (fun c => { c with frames := c.frames ++ [i.frame] })

/-- R261 steps 1 to 4. What a rolled-back task holds is given up, and its charges are rollback joules. -/
def State.giveUp (s : State) (g : Nat) : State :=
  let t := s.strand g
  let s := ((((s.discardHeld g).freeSfrq g).discardStores g).leaveWaitLists g).forgetAsks g
  let s := (s.releaseHolds g).countEv (coreOf g) 0x09 t.info.ctx 1
  let s := s.modCtx t.info.ctx (fun c => { c with rollback := c.rollback + (s.strand g).incCharge })
  let s : State := { s with rolled := t.inc :: s.rolled }
  s.memWrite { host := false, addr := s.frameAddr g 0x400 } (natLe 1024 0)

/-- R261. The rollback of a task, at its boundary. It restarts once its releases are acknowledged. One that has spilt state here
restarts from its record (R262): its state is discarded with its place, and nothing of it is refilled. -/
def State.rollBack (s : State) (g : Nat) : State :=
  let spilt : Bool := (s.strand g).spilt != {}
  let s := s.giveUp g
  let s :=
    if spilt then
      (s.modStrand g (fun t => { t with inc := s.nextId, incCharge := 0, aset := { t.aset with fromRecord := true } })).takeId
    else ((s.refillUnits g).modStrand g (fun x => x.rolledBack s.nextId)).takeId.kickM (quarterOf g)
  if (s.strand g).aset.acks = 0 then s.dueOnce (.rollbackRestart g) else s

/-- R261. A V word on the rod completes before a rollback: only one that waits for a granule, a page or a full/empty bit, or
that has faulted, is stopped where it stands. -/
def Strand.runsFirst (t : Strand) : Bool := t.rodRuns || t.flight.any (fun f => f.stop == .release)

/-- ROLLBACK: at the task's boundary; a V word that still runs on the rod completes first. -/
def execRollback (g : Nat) (s : State) : Host.Outcome State Fault Refusal :=
  let t := s.strand g
  .next (if !t.resident || !t.aset.rolling then s
    else if t.runsFirst then s.dueOnce (.rollback g)
    else s.rollBack g)

/-- R261 step 6, R266, R270. A rolled-back task starts again, or waits for the token or for its delay. -/
def State.restart (s : State) (g : Nat) : State :=
  let t := s.strand g
  let s := s.modStrand g (fun t => { t with aset := { t.aset with rolling := false } })
  if t.aset.serialised && !t.aset.token then
    (({ s with serialWait := s.serialWait ++ [g] } : State).modStrand g (fun t =>
      { t.become .waiting with wait := .token })).dueOnce .irrevocableTokenGrant
  else if t.aset.reason = 7 ∧ 0 < (t.aset.retryAt - s.podTime).toInt then
    s.modStrand g (fun t => { t.become .waiting with wait := .retry })
  else s.modStrand g Strand.wakeUp

/-- ROLLBACK_RESTART: every release has been acknowledged. -/
def execRollbackRestart (g : Nat) (s : State) : Host.Outcome State Fault Refusal :=
  let t := s.strand g
  .next (if t.resident && t.aset.rolling && t.aset.acks = 0 then
      (if t.aset.fromRecord then s.leavePlace g else s.restart g)
    else s)

/-- IRREVOCABLE_TOKEN_GRANT: the oldest waiting task by stamp (R266). -/
def execIrrevocableTokenGrant (s : State) : Host.Outcome State Fault Refusal :=
  .next (if s.tokenHeld then s
    else
      match s.oldest s.ageOf s.serialWait with
      | none => s
      | some g =>
        let s : State := { s with tokenHeld := true, serialWait := s.serialWait.filter (· != g) }
        s.modStrand g (fun t => ({ t with aset := { t.aset with token := true } } : Strand).wakeUp))

/-- ASRETRY_DELAY_EXPIRY: the delay of a task is over (R270). -/
def execAsretryDelayExpiry (g : Nat) (s : State) : Host.Outcome State Fault Refusal :=
  let t := s.strand g
  .next (if t.resident && t.wait = .retry && !t.aset.rolling && (t.aset.retryAt - s.podTime).toInt ≤ 0 then s.modStrand g Strand.wakeUp
    else s)

/-! ### The drain of the hold buffer (R265) -/

/-- R258. The runs of a line's valid bytes are written home; each line is one access. -/
def State.writeHeld (s : State) (g : Nat) (l : HeldLine) : State :=
  let p : PAddr := { host := l.host, addr := l.line * 64, key := l.key }
  let core := coreOf g
  let s := ((s.flushLine core (s.strand g).info.ctx p).landLine core p s.nextId).l1Drop core p
  let s := l.bytes.foldl (fun (s : State) b => s.memWrite (p.plus b.1) [b.2]) s
  s.chargeLine (s.workOf g) (dieOf g) p true (l.bytes.length == 64)

/-- HOLD_BUFFER_DRAIN_COMPLETE: one held line, whichever the drain takes next, reaches its home; once every line has, the
granules and the token are released. A line that is spilt comes back first. -/
def execHoldBufferDrainComplete (g : Nat) (s : State) : Host.Outcome State Fault Refusal :=
  let t := s.strand g
  .next (if !t.resident || !t.aset.committing || t.exitStep != 1 || t.spilt.lines != 0 then s
    else
      let i := Config.pick s.free % t.aset.lines.length
      match t.aset.lines[i]? with
      | some l =>
        let s := (s.stepFree.writeHeld g l).modStrand g (fun t => { t with aset := { t.aset with lines := t.aset.lines.eraseIdx i } })
        s.dueOnce (.holdBufferDrainComplete g)
      | none => ((s.releaseHolds g).returnToken g).modStrand g (fun t => { t with exitStep := 2 }))

end Sys2Proof.Machine
end

