-- ==== Sys2Proof/Machine/Counters.lean ====
section
/-!
DEFINITION. Event counters (R425 to R428) and the CNT words (R429, R430).
-/

namespace Sys2Proof.Machine

/-! ### The CNT words -/

/-- R430. The session of a context that its strands may read. -/
def State.readable (s : State) (ctx : Nat) : Option Session := s.sessions.find? (fun x => x.ctx == ctx && x.strandRd && x.live)

/-- R430. What CNTRD returns of an entry. -/
def SessionEntry.word (e : SessionEntry) : DWord :=
  BitVec.ofNat 64 ((if e.ovf then 2 ^ 63 else 0) + (if e.missed then 2 ^ 62 else 0) + e.value % 2 ^ 48)

def execCntrd (_c : Bool) (d a : BitVec 8) (s : State) : Host.Outcome State Fault Refusal :=
  .next (s.uWord true [(d.toNat, 2)] (fun s =>
    match (s.readable s.myCtx).bind (fun x => x.entries[a.toNat]?) with
    | none => s.trap { cause := .illegalOperand }
    | some e => (s.setU2 d.toNat e.word).done) (s.readable s.myCtx).isNone)

def execTstamp (_c : Bool) (d : BitVec 8) (s : State) : Host.Outcome State Fault Refusal :=
  .next (s.uWord true [(d.toNat, 2)] (fun s => (s.setU2 d.toNat (s.ctxTime s.myCtx)).done))

/-! ### Sessions -/

/-- R425. A code of a core's counters, or of an uncore's. -/
def coreCode (e : Nat) : Bool := e ≤ 0x0B
def uncoreCode (e : Nat) : Bool := 0x20 ≤ e && e ≤ 0x23

/-- R426. A unit with a code that is valid there, in a partition. -/
def State.entryOk (s : State) (part : Nat) (e : SessionEntryDef) : Bool :=
  let quads := (s.part part).quads
  if e.unit < 512 then coreCode e.event && quads.contains (globalQuad e.unit)
  else e.unit < 528 && uncoreCode e.event && quads.any (fun q => q / 8 == e.unit - 512)

/-- Sessions bound to a counter of a unit. -/
def boundTo (l : List Session) (unit counter : Nat) : List Session :=
  l.filter (fun x => x.entries.any (fun e => e.unit == unit && e.counter == counter))

/-- R427. The counter that an entry binds: the lowest of its unit that its own session does not use and that fewer than
four sessions use, all of owners in the same partition. -/
def State.counterFor (s : State) (part : Nat) (mine : List SessionEntry) (unit : Nat) : Option Nat :=
  (List.range 8).find? (fun c =>
    let b := boundTo s.sessions unit c
    !mine.any (fun e => e.unit == unit && e.counter == c) && b.length < 4 && b.all (fun x => (s.ctx x.ctx).part == part))

/-- The entries of a session bound to counters; a counter that serves no session serves the new one at once. -/
def State.bindEntries (s : State) (part : Nat) : List SessionEntryDef → List SessionEntry → Option (List SessionEntry)
  | [], mine => some mine
  | e :: l, mine =>
    match s.counterFor part mine e.unit with
    | none => none
    | some c =>
      let free : Bool := !s.sessions.any (fun x => x.entries.any (fun f => f.unit == e.unit && f.counter == c && f.serving))
      let new : SessionEntry := { unit := e.unit, event := e.event, value := e.value % 2 ^ 48, ovf := false, missed := false,
                                  ovfCnt := 0, counter := c, serving := free }
      s.bindEntries part l (mine ++ [new])

/-- R426. The lowest place that no session's descriptor takes. -/
def State.sessionSlot (s : State) : Nat := ((List.range 512).find? (fun n => s.sessions.all (fun x => x.slot != n))).getD 0

/-- R426. The session that an open makes; `none` when it is refused. -/
def State.openSession (s : State) (d : SessionDef) : Option Session :=
  match s.ctxs.find? d.ctx with
  | none => none
  | some c =>
    if !d.reservedZero || c.func != d.func || (s.func d.func).resetting || d.entries.length == 0 || 16 < d.entries.length
        || 512 ≤ s.sessions.length || (d.strandRd && (s.readable d.ctx).isSome) || 2048 ≤ d.vector
        || !d.entries.all (s.entryOk c.part) then none
    else
      (s.bindEntries c.part d.entries []).map (fun l =>
        { id := s.nextId, slot := s.sessionSlot, ctx := d.ctx, func := d.func, strandRd := d.strandRd, vector := d.vector, ven := d.ven, entries := l })

/-- R408. The function of a session is being reset: its mailbox accepts nothing. -/
def State.sessionShut (s : State) (x : Session) : Bool := (s.func x.func).resetting

/-- OPEN_COUNTER_SESSION. The mailbox answers 0, or 1 when the open is refused. -/
def execOpenCounterSession (d : SessionDef) (s : State) : Host.Outcome State Fault Refusal :=
  match s.openSession d with
  | none => .next (s.send (.mailbox d.func 1))
  | some x => .next (({ s with sessions := s.sessions ++ [x] }.takeId).send (.mailbox d.func 0))

/-- CLOSE_COUNTER_SESSION. -/
def execCloseCounterSession (id : Nat) (s : State) : Host.Outcome State Fault Refusal :=
  .next { s with sessions := s.sessions.filter (fun x => x.id != id || s.sessionShut x) }

/-- READCNT: the descriptor with its current values. -/
def execReadcnt (id : Nat) (s : State) : Host.Outcome State Fault Refusal :=
  match s.sessions.find? (fun x => x.id == id) with
  | none => .next s
  | some x => .next (if s.sessionShut x then s.send (.mailbox x.func 1) else s.send (.readcnt x.bytes))

/-- COUNTER_WRAP: the vector of a session whose overflow raises one (R428). -/
def execCounterWrap (id entry : Nat) (s : State) : Host.Outcome State Fault Refusal :=
  match s.sessions.find? (fun x => x.id == id) with
  | none => .next s
  | some x => .next (if x.ven && (x.entries[entry]?.map (·.ovf)).getD false then s.send (.msix x.func x.vector) else s)

/-- R427. The counters of a session's entries that meet a test come to serve it; each saves the session it served. -/
def State.serveSession (s : State) (id : Nat) (p : SessionEntry → Bool) : State :=
  match s.sessions.find? (fun x => x.id == id) with
  | none => s
  | some x =>
    let took := x.entries.filter p
    let lost (e : SessionEntry) : Bool := took.any (fun f => f.unit == e.unit && f.counter == e.counter)
    let turn (y : Session) (e : SessionEntry) : SessionEntry :=
      if y.id = id then { e with serving := e.serving || p e } else { e with serving := e.serving && !lost e }
    let upd (y : Session) : Session := { y with entries := y.entries.map (turn y) }
    { s with sessions := s.sessions.map upd }

/-- R427. A context resumes: the counters of its sessions serve them. -/
def State.serveContext (s : State) (ctx : Nat) : State :=
  ((s.sessions.filter (fun x => x.ctx == ctx && x.live)).map (·.id)).foldl (fun (s : State) i => s.serveSession i (fun _ => true)) s

/-- R427. A context has its first strand dispatched on a core, or on a die: the counters of that unit serve its sessions. -/
def State.serveUnit (s : State) (ctx unit : Nat) : State :=
  ((s.sessions.filter (fun x => x.ctx == ctx && x.live)).map (·.id)).foldl (fun (s : State) i => s.serveSession i (fun e => e.unit == unit)) s

/-- R425, code 0x00. Clocks pass for every context with a resident strand on a core whose clocks run (R361); a strand whose slot
has been claimed is resident nowhere (R383). -/
def State.countClocks (s : State) (n : Nat) : State :=
  if s.sessions.isEmpty then s
  else
    let places := ((s.strands.filter (fun x => x.2.resident && !x.2.spilt.slot && s.quarterRuns (quarterOf x.1))).map (fun x => (coreOf x.1, x.2.info.ctx))).eraseDups
    places.foldl (fun (s : State) x => s.countEv x.1 0x00 x.2 n) s

end Sys2Proof.Machine
end

