-- ==== Sys2Proof/Machine/Ener.lean ====
section
/-!
DEFINITION. Energy (R345 to R369): the ENER words, draws and holds, refill ticks, reckoning, meter records,
operating-point changes and the sharing of the pod cap.
-/

namespace Sys2Proof.Machine

/-! ### Operating-point changes (R361) -/

/-- R361. Enter an operating point: its clocks stop, and they restart at the new point. -/
def State.startChange (s : State) (part v : Nat) : State :=
  (s.modPart part (fun p => { p with chg := some v })).due (.opChangeClockRestart part)

/-- R361. A partition whose point lies above its allowance, or that firmware has given another point, changes. -/
def State.settlePoint (s : State) (part : Nat) : State :=
  let p := s.part part
  if p.chg.isSome then s
  else
    let v := min (p.want.getD p.op) p.maxop
    let s := s.modPart part (fun p => { p with want := none })
    if v = p.op then s else s.startChange part v

/-- OP_CHANGE_CLOCK_RESTART: words that stood on the rods go on. -/
def execOpChangeClockRestart (part : Nat) (s : State) : Host.Outcome State Fault Refusal :=
  match (s.part part).chg with
  | none => .next s
  | some v =>
    .next (((s.modPart part (fun p => { p with op := v, chg := none })).settlePoint part).retryFlights
      (fun g => (s.strand g).info.part == part))

/-- R361. Firmware sets a partition's allowance and operating point. A point above the allowance is not taken. -/
def State.setAllowance (s : State) (part : Nat) (op maxop : Option Nat) : State :=
  if (s.parts.find? part).isNone then s
  else
    let m := min (maxop.getD (s.part part).maxop) 7
    let want := match op with | some v => if v ≤ m then some v else (s.part part).want | none => (s.part part).want
    (s.modPart part (fun p => { p with maxop := m, want := want })).settlePoint part

/-- FIRMWARE_SET_ALLOWANCE. -/
def execFirmwareSetAllowance (part : Nat) (op maxop : Option Nat) (s : State) : Host.Outcome State Fault Refusal :=
  .next (s.setAllowance part op maxop)

/-! ### The ENER words (R364 to R368) -/

/-- Whole nJ of a count of beads (R346). -/
def nJ (beads : Int) : Int := beads / 16000

/-- R365. -/
def State.erdValue (s : State) (sel : Nat) : Option Int :=
  let c := s.iss.ctx0
  let op := s.opOf s.myCtx
  match sel with
  | 0 => some (nJ c.account)
  | 1 => some s.iss.purse0
  | 2 => some (nJ c.rollback)
  | 3 => some (nJ c.resid)
  | 4 => some s.old.incCharge
  | 5 => some (s.corrOf (qDom s.myQuarter))
  | n => if 0x40 ≤ n ∧ n ≤ 0x5A then some (Config.weight op (n - 0x40)) else none

/-- R366. -/
def State.ebktValue (s : State) (sel : Nat) : Option Int :=
  let c := s.iss.ctx0
  match sel with
  | 0 => some c.level
  | 1 => some c.cap
  | 2 => some c.refill
  | 3 => some (min c.holdCount 0xFFFFFFFF)
  | 4 => some (s.part c.part).holdLimit
  | _ => none

/-- The course of ERD and EBKT. -/
def State.readEnergy (s : State) (d : BitVec 8) (v : Option Int) : State :=
  s.uWord v.isSome [(d.toNat, 2)] (fun s => (s.setU2 d.toNat (BitVec.ofInt 64 (v.getD 0))).done)

def execErd (_c : Bool) (d sel : BitVec 8) (s : State) : Host.Outcome State Fault Refusal :=
  .next (s.readEnergy d (s.erdValue sel.toNat))
def execEbkt (_c : Bool) (d sel : BitVec 8) (s : State) : Host.Outcome State Fault Refusal :=
  .next (s.readEnergy d (s.ebktValue sel.toNat))

/-- R367. The status of an EOP, and the point whose change it starts. -/
def eopStatus (v : Nat) (eopok : Bool) (p : Partition) : Nat × Option Nat :=
  if 8 ≤ v then (4, none)
  else if !eopok then (3, none)
  else
    match p.chg with
    | some x => (if v = x then 0 else 2, none)
    | none => if p.maxop < v then (1, none) else if v = p.op then (0, none) else (0, some v)

def execEop (_c : Bool) (d a : BitVec 8) (s : State) : Host.Outcome State Fault Refusal :=
  .next (s.uWord true [(d.toNat, 1), (a.toNat, 1)] (fun s =>
    let c := s.ctx s.myCtx
    let r := eopStatus (s.u a.toNat).toNat c.eopok (s.part c.part)
    let s := (s.setU d.toNat (BitVec.ofNat 32 r.1)).done
    match r.2 with
    | some v => (s.startChange c.part v).modPart c.part (fun p => { p with eop := some (gslot s.iss.g, [s.myQuarter]) })
    | none => s.modPart c.part (fun p => { p with eop := p.eop.map (fun x => (x.1, s.myQuarter :: x.2)) })))

/-! ### Draws and holds (R349, R350) -/

/-- R82, R351. A Held strand goes on. -/
def Strand.unhold (t : Strand) : Strand := if t.state = .held then { t with state := t.before } else t

/-- R82. The Held strands of a purse that has become positive go on. -/
def State.releaseHeld (s : State) (q ctx : Nat) : State :=
  if 0 < (s.purse q ctx).level then
    { s with strands := s.strands.map (fun x =>
        (x.1, if x.2.resident ∧ quarterOf x.1 = q ∧ x.2.info.ctx = ctx then x.2.unhold else x.2)) }
  else s

/-- A draw succeeds: 4 nJ of the bucket become 64,000 beads of the purse. -/
def State.grantDraw (s : State) (q ctx : Nat) : State :=
  let s := s.modCtx ctx (fun c => { c with level := c.level - 4 })
  let p := s.purse q ctx
  s.setPurse q ctx { p with level := p.level + 64000, drawing := false, refused := false, counted := false }

/-- DRAW_SERVED. -/
def execDrawServed (s : State) : Host.Outcome State Fault Refusal :=
  match s.draws with
  | [] => .next s
  | (q, ctx) :: l =>
    let s := { s with draws := l }
    if (4 : Int) ≤ (s.ctx ctx).level then .next (((s.grantDraw q ctx).drawCheck q ctx).releaseHeld q ctx)
    else
      let p := s.purse q ctx
      .next (s.setPurse q ctx { p with drawing := false, refused := true, counted := false })

/-- RESIDENT_IDLE_CHARGE. -/
def execResidentIdleCharge (g : Nat) (s : State) : Host.Outcome State Fault Refusal :=
  let t := s.strand g
  if t.resident ∧ !t.spilt.slot ∧ (s.part t.info.part).chg.isNone then
    .next (s.land (s.workOf g) [(20, 1, qDom (quarterOf g))])
  else .next s

/-! ### Reckoning (R352, R353) -/

/-- Beads charged in a domain in the window, by context. -/
def State.chargesIn (s : State) (d : Nat) : List (Nat × Nat) :=
  (s.windowCharge.filter (fun x => x.1 / 4096 == d && 0 < x.2)).map (fun x => (x.1 % 4096, x.2))

/-- R352. The context with the largest charge, ties to the lowest number. -/
def largestCharge (l : List (Nat × Nat)) : Nat :=
  (l.foldl (fun (b : Nat × Nat) x => if b.2 < x.2 ∨ (b.2 = x.2 ∧ x.1 < b.1) then x else b) (0, 0)).1

/-- R352. The shares of a residual. -/
def residualShares (res : Int) (l : List (Nat × Nat)) : List (Nat × Int) :=
  let ec : Nat := (l.map (·.2)).foldl (· + ·) 0
  let base := l.map (fun x => (x.1, res * x.2 / ec))
  let rest := res - (base.map (·.2)).foldl (· + ·) 0
  base.map (fun x => if x.1 = largestCharge l then (x.1, x.2 + rest) else x)

/-- R352. A share enters the account and RESID, and leaves the bucket in whole nJ. -/
def State.applyShare (s : State) (ctx : Nat) (share : Int) : State :=
  s.modCtx ctx (fun c =>
    let t := c.residCarry + share
    { c with level := c.level - t / 16000, residCarry := t % 16000, account := c.account + share, resid := c.resid + share })

/-- R353. The new correction factor. -/
def newFactor (f em ec : Nat) : Nat :=
  let fn := (2 * f * em + ec) / (2 * ec)
  max 0x2000 (min (max (f * 3 / 4) (min fn (f * 5 / 4))) 0x7FFF)

/-- R352, R353. Close the window of one domain. -/
def State.reckonDomain (s : State) (measured : List (Nat × Int)) (d : Nat) : State :=
  let em := (measured.find? (fun x => x.1 == d)).map (·.2) |>.getD 0
  let l := s.chargesIn d
  let ec : Nat := (l.map (·.2)).foldl (· + ·) 0
  if ec = 0 then { s with unattributed := s.unattributed.insert d ((s.unattributed.find? d).getD 0 + em) }
  else
    let s := (residualShares (em - ec) l).foldl (fun (s : State) x => s.applyShare x.1 x.2) s
    if 1600000 ≤ ec then { s with corr := s.corr.insert d (newFactor (s.corrOf d) em.toNat ec) } else s

/-- R352. Close the window of every domain. -/
def State.reckon (s : State) (measured : List (Nat × Int)) : State :=
  let s := (List.range 145).foldl (fun (s : State) d => s.reckonDomain measured d) s
  { s with windowCharge := [] }

/-- RECKONING_WINDOW_CLOSE. -/
def execReckoningWindowClose (measured : List (Nat × Int)) (s : State) : Host.Outcome State Fault Refusal :=
  .next (s.reckon measured)

/-! ### Refill ticks (R351, R381) -/

/-- R345. The writes that waited for the tick apply. -/
def Ctx.takeWrites (c : Ctx) : Ctx :=
  { c with cap := c.nextCap.getD c.cap, refill := c.nextRefill.getD c.refill, quantum := c.nextQuantum.getD c.quantum,
           nextCap := none, nextRefill := none, nextQuantum := none }

/-- R351 step 2. The bucket is refilled. -/
def Ctx.refillOnce (c : Ctx) : Ctx := { c with level := min (c.level + c.refill) c.cap }

/-- R381. The dispatch deficit takes the refill and the charge of the window, in whole nJ with carry. -/
def Ctx.deficitOnce (c : Ctx) : Ctx :=
  let t := c.account - c.windowMark + c.windowCarry
  { c with deficit := max (-(c.cap : Int)) (min (c.deficit + c.refill - t / 16000) c.cap),
           windowCarry := t % 16000, windowMark := c.account }

/-- R351 step 3. The refused purses, quarter by quarter from after the one at which the previous tick began. -/
def State.refusedPurses (s : State) : List (Nat × Nat) :=
  let all := s.quarters.flatMap (fun x => (x.2.purses.filter (fun p => p.2.refused)).map (fun p => (x.1, p.1)))
  all.filter (fun x => s.tickStart < x.1) ++ all.filter (fun x => x.1 ≤ s.tickStart)

/-- One pass over purses: each is granted a draw while its context's level allows. -/
def State.retryPass (s : State) (l : List (Nat × Nat)) : State :=
  l.foldl (fun (s : State) x => if (4 : Int) ≤ (s.ctx x.2).level then s.grantDraw x.1 x.2 else s) s

/-- R351 step 3. Passes over the purses that are still not positive, while a context among them has a draw left. -/
def State.retryPasses (s : State) : Nat → List (Nat × Nat) → State
  | 0, _ => s
  | fuel + 1, l =>
    let s := s.retryPass l
    let again := l.filter (fun x => (s.purse x.1 x.2).level ≤ 0)
    if again.any (fun x => (4 : Int) ≤ (s.ctx x.2).level) then s.retryPasses fuel again
    else again.foldl (fun (s : State) x => s.setPurse x.1 x.2 { s.purse x.1 x.2 with refused := true }) s

/-- R351 step 4. Settle the purse of a context that has no strand in the quarter. -/
def State.settlePurse (s : State) (q ctx : Nat) : State :=
  if s.strands.any (fun x => x.2.resident && !x.2.spilt.slot && quarterOf x.1 == q && x.2.info.ctx == ctx) then s
  else
    let p := s.purse q ctx
    let s := s.setPurse q ctx { p with level := p.level % 16000 }
    s.modCtx ctx (fun c => { c with level := c.level + p.level / 16000 })

/-- REFILL_TICK. -/
def execRefillTick (measured : List (Nat × Int)) (s : State) : Host.Outcome State Fault Refusal :=
  let s := s.reckon measured
  let s : State := { s with ctxs := s.ctxs.map (fun (x : Nat × Ctx) => (x.1, x.2.takeWrites.deficitOnce.refillOnce)) }
  let l := s.refusedPurses
  let s : State := match l with | [] => s | x :: _ => { s with tickStart := x.1 }
  let s := s.retryPasses 40000 l
  let s := l.foldl (fun (s : State) x => s.releaseHeld x.1 x.2) s
  let purses := s.quarters.flatMap (fun (x : Nat × QuarterSt) => x.2.purses.map (fun p => (x.1, p.1)))
  .next (purses.foldl (fun (s : State) x => s.settlePurse x.1 x.2) s)

/-- R345. The 64 bytes of a context energy block as firmware reads them; a write that waits for the tick is read back. -/
def Ctx.energyBlock (c : Ctx) : List Byte :=
  let i64 (x : Int) : List Byte := natLe 8 (BitVec.ofInt 64 x).toNat
  i64 c.level ++ natLe 4 (c.nextCap.getD c.cap) ++ natLe 4 (c.nextRefill.getD c.refill) ++ natLe 2 (c.nextQuantum.getD c.quantum)
    ++ natLe 2 (if c.eopok then 1 else 0) ++ natLe 4 c.tenant.toNat ++ i64 (nJ c.account) ++ i64 (nJ c.rollback)
    ++ i64 (nJ c.resid) ++ natLe 4 (min c.holdCount 0xFFFFFFFF) ++ natLe 4 0 ++ natLe 8 c.mseq

/-- R345. What a write of bytes at a device address does to a context's energy block: the writable fields that it meets. -/
def Ctx.writeEnergy (c : Ctx) (addr : Nat) (d : List Byte) : Ctx :=
  let v := leNat (c.energyBlock.zipIdx.map (fun x => (d[c.energyAddr + x.2 - addr]?.filter (fun _ => addr ≤ c.energyAddr + x.2)).getD x.1))
  let hit (i n : Nat) : Bool := rangesMeet (c.energyAddr + i) n addr d.length
  { c with level := if hit 0 8 then signedOf 64 (bitsOf v 63 0) else c.level,
           nextCap := if hit 8 4 then some (bitsOf v 95 64) else c.nextCap,
           nextRefill := if hit 12 4 then some (bitsOf v 127 96) else c.nextRefill,
           nextQuantum := if hit 16 2 then some (bitsOf v 143 128) else c.nextQuantum,
           eopok := if hit 18 1 then bitsOf v 144 144 == 1 else c.eopok,
           tenant := if hit 20 4 then BitVec.ofNat 32 (bitsOf v 191 160) else c.tenant }

/-- R380. The code of STATE. -/
def CtxState.code : CtxState → Nat
  | .idle => 0 | .running => 1 | .halting => 2 | .halted => 3 | .error => 4

/-- R380. The read-only part of a context scheduling block, its bytes 24 to 63: CTOFF and STATE. -/
def Ctx.schedFields (c : Ctx) : List Byte := natLe 8 c.ctoff.toNat ++ natLe 32 c.state.code

/-- R345, R380. A byte of device memory as firmware reads it: that of a context's energy block, or of the read-only part of its
scheduling block, where one lies there. -/
def State.protByte (s : State) (addr : Nat) : Option Byte :=
  let at_ (l : List Byte) (base : Nat) : Option Byte := if base ≤ addr then l[addr - base]? else none
  (s.ctxs.findSome? (fun x => (at_ x.2.energyBlock x.2.energyAddr).or (at_ x.2.schedFields (x.2.schedAddr + 24)))).or
    (s.sessions.findSome? (fun x => at_ x.bytes (Config.sessionBase + 512 * x.slot)))

/-- ENERGY_BLOCK_WRITE: LEVEL acts at once, CAP, REFILL and QUANTUM at the next tick (R345). -/
def execEnergyBlockWrite (ctx : Nat) (w : EnergyWrite) (s : State) : Host.Outcome State Fault Refusal :=
  if (s.ctxs.find? ctx).isNone then .next s
  else
    .next (s.modCtx ctx (fun c =>
      match w with
      | .level v => { c with level := (BitVec.ofInt 64 v).toInt }
      | .cap v => { c with nextCap := some (v % 2 ^ 32) }
      | .refill v => { c with nextRefill := some (v % 2 ^ 32) }
      | .quantum v => { c with nextQuantum := some (v % 2 ^ 16) }
      | .eopok b => { c with eopok := b }
      | .tenant v => { c with tenant := v }))

/-! ### Meter records (R359, R360) -/

/-- R359. The record of a context for an interval that ends at a second. -/
def meterRecord (n : Nat) (c : Ctx) (op : Nat) (start end_ : DWord) : List Byte :=
  natLe 8 (c.tenant.toNat + n % 4096 * 2 ^ 32 + c.part % 64 * 2 ^ 44 + op % 8 * 2 ^ 50)
    ++ natLe 8 c.mseq ++ natLe 8 (BitVec.ofInt 64 (nJ c.account)).toNat ++ natLe 8 (BitVec.ofInt 64 (nJ c.resid)).toNat
    ++ natLe 8 (BitVec.ofInt 64 (nJ c.rollback)).toNat ++ natLe 8 start.toNat ++ natLe 8 end_.toNat
    ++ natLe 4 (min c.holdCount 0xFFFFFFFF) ++ natLe 4 0

/-- R359. Something of the context's meter changed since its last record. -/
def Ctx.metered (c : Ctx) : Bool := c.meterMark != (c.account, c.resid, c.holdCount)

/-- R360. A batch: header, records and signature. -/
def meterBatch (bseq : Nat) (time : DWord) (recs : List (List Byte)) : List Byte :=
  let body := natLe 8 (0x4D425431 + 2 ^ 32 + recs.length * 2 ^ 48) ++ natLe 8 bseq ++ natLe 8 time.toNat
    ++ natLe 8 (Config.digest Config.meterPublicKey).toNat ++ natLe 32 0 ++ recs.flatten
  body ++ (Config.signature 1 body ++ natLe 17088 0).take 17088

/-- A list in pieces of at most n. -/
def chunksOf {α : Type} (n : Nat) : Nat → List α → List (List α)
  | 0, _ => []
  | _, [] => []
  | fuel + 1, l => l.take n :: chunksOf n fuel (l.drop n)

/-- R360. Keep a batch for the ring: at most 64, the oldest dropped. -/
def State.keepBatch (s : State) (time : DWord) (recs : List (List Byte)) : State :=
  let b := s.pkg.batches ++ [meterBatch s.pkg.bseq time recs]
  { s with pkg := { s.pkg with batches := b.drop (b.length - 64), bseq := s.pkg.bseq + 1 } }

/-- METER_RECORD_SECOND. -/
def execMeterRecordSecond (s : State) : Host.Outcome State Fault Refusal :=
  let end_ := BitVec.ofNat 64 (s.podTime.toNat / 1000000000 * 1000000000)
  let due : List (Nat × Ctx) := s.ctxs.filter (fun x => x.2.metered)
  let recs := due.map (fun x => meterRecord x.1 x.2 (s.opOf x.1) x.2.meterEnd end_)
  let s := { s with ctxs := s.ctxs.map (fun x =>
    (x.1, if x.2.metered then
      { x.2 with mseq := x.2.mseq + 1, meterMark := (x.2.account, x.2.resid, x.2.holdCount), meterEnd := end_ }
      else x.2)) }
  let s := (chunksOf 256 16 recs).foldl (fun (s : State) b => s.keepBatch end_ b) s
  .next (if recs.isEmpty then s else s.dueOnce .meterBatchWrite)

/-! ### The pod cap (R362, R363) -/

/-- R363. What the master grants to a package, of the frames that reached it for the round. -/
def grantCap (podCap : Nat) (frames : List (Nat × Nat × Nat)) (demand floor : Nat) : Nat :=
  let floors : Nat := (frames.map (fun x => x.2.2)).foldl (· + ·) 0
  let excess : Nat := (frames.map (fun x => x.2.1 - x.2.2)).foldl (· + ·) 0
  if podCap < floors then floor * podCap / floors
  else floor + min (demand - floor) ((podCap - floors) * (demand - floor) / excess)

/-- A package takes the cap of a GRANT frame. -/
def State.takeGrant (s : State) (cap podCap : Nat) : State :=
  { s with pkg := { s.pkg with cap := cap, capMiss := 0, podCap := podCap } }

/-- R363. The cap master answers the frames of the round that ends. -/
def State.answerRound (s : State) : State :=
  s.pkg.demands.foldl (fun (s : State) x =>
    let cap := grantCap s.pkg.podCap s.pkg.demands x.2.1 x.2.2
    if x.1 = s.pkg.num then s.takeGrant cap s.pkg.podCap
    else s.sendPod x.1 (.grant s.pkg.round x.1 cap s.pkg.podCap)) s

/-- R362, R363. Put a package's DEMAND among the frames of the round; FLOOR is at most DEMAND. -/
def State.putDemand (s : State) (p demand floor : Nat) : State :=
  { s with pkg := { s.pkg with
      demands := s.pkg.demands.filter (fun x => x.1 != p) ++ [(p, demand, min floor demand)] } }

/-- WYARI_ROUND. The CAP of a GRANT stands for the round after its own and, without another GRANT, for two further rounds; then the
package uses its own FLOOR. -/
def execWyariRound (demand floor : Nat) (s : State) : Host.Outcome State Fault Refusal :=
  let s := if s.pkg.capMaster then s.answerRound else s
  let n := s.pkg.capMiss + 1
  let s : State := { s with pkg := { s.pkg with
    round := (s.pkg.round + 1) % 2 ^ 32, demands := [], floor := floor, capMiss := n,
    cap := if 4 ≤ n then floor else s.pkg.cap } }
  .next (if s.pkg.capMaster then s.putDemand s.pkg.num demand floor
         else s.sendPod s.pkg.master (.demand s.pkg.round s.pkg.num demand floor))

/-- DEMAND: the master receives a frame of the round. -/
def execDemand (round pkg demand floor : Nat) (s : State) : Host.Outcome State Fault Refusal :=
  .next (if s.pkg.capMaster ∧ round = s.pkg.round then s.putDemand pkg demand floor else s)

/-- GRANT: a package receives the answer of its round; one that comes in a later round changes nothing (R369). -/
def execGrant (round pkg cap podcap : Nat) (s : State) : Host.Outcome State Fault Refusal :=
  .next (if pkg = s.pkg.num ∧ round = s.pkg.round then s.takeGrant cap podcap else s)

end Sys2Proof.Machine
end

