-- ==== Sys2Proof/Machine/Exit.lean ====
section
/-!
DEFINITION. EXIT (R91, R265, R290, R330). It holds its group while it waits; `exitStep` says how far a set-bearing task
has come: 1 its hold buffer drains, 2 its granules are released, 3 a deferred push waits.
-/

namespace Sys2Proof.Machine

/-- The widest scope of the releases that an EXIT makes: its barrier drops (R330), and `.pkg` for a set-bearing task. -/
def State.exitScope (s : State) (g : Nat) : Nat :=
  let b := (s.bars.filter (fun x => x.2.registered g)).foldl (fun n x => max n x.2.scope) 1
  if (s.strand g).setBearing then max b 4 else b

/-- R265 step 4. The deferred entries in program order. A QPUSH that finds its queue full joins the queue's waiters (R337), and
EXIT goes on when it is served. DESIGN CHOICE (log 142): a SPAWN that finds the task queue full waits too; the rule says so of a
QPUSH only. -/
def State.runDeferred (s : State) (g : Nat) : List Deferred → State × Bool
  | [] => (s, true)
  | d :: l =>
    let done (s : State) : State := s.modStrand g (fun t => { t with aset := { t.aset with deferred := l } })
    match d with
    | .spawn r =>
      let ctx := (s.strand g).info.ctx
      if s.taskQueueFull ctx then (s, false) else (done (s.enqueueTask ctx r)).runDeferred g l
    | .qpush hdr data =>
      let s := s.serveAll hdr false
      if (s.qhead hdr).free = 0 then
        (({ s.taskLine (s.workOf g) hdr true with qwaiters := s.qwaiters ++
            [{ g := some g, hdr := hdr, pop := false, d := 0, n := 0, data := data, role := .deferred }] } : State).modStrand g
          (fun t => { t with exitStep := 3 }), false)
      else (done ((s.taskLine (s.workOf g) hdr true).qreservePush (s.workOf g) hdr (bytesOfWords data))).runDeferred g l

/-- R80, R91 steps 2, 4 and 5: results commit; in a handler the record is written back (R394). -/
def State.leave (s : State) (g : Nat) : State :=
  ((((s.modStrand g Strand.commitAll).saveRecord g).dropBarriers g).freeSfrq g |>.reclaim g).kickM (quarterOf g)

/-- R91. The course of an EXIT: it holds until the rod is free, the stores are drained and the M words are done. DESIGN CHOICE
(log 145): an EXIT alone in its group has not issued while it holds, so its strand is Ready (R82), and a trap taken there
records WAITM = 0, so that TRET issues the EXIT again; the example of 11_matrix.md calls the strand Waiting. -/
def State.exitCourse (s : State) : State :=
  let g := s.iss.g
  let s := if s.me.trap.inHandler then s.discardSuspended g else s
  if !s.me.rodFree then s.hold .rod
  else if s.untranslated g then s.hold .stores
  else if s.mBusy g then s.hold .exitDrain
  else
    match s.releaseStep g (s.exitScope g) with
    | (s, false) => s.hold .release
    | (s, true) =>
      let t := s.me
      if !t.setBearing then (s.leave g).done
      else
        match t.exitStep with
        | 0 =>
          ((s.modMe (fun t => { t with exitStep := 1, aset := { t.aset with committing := true } })).dueOnce
            (.holdBufferDrainComplete g)).hold .exitDrain
        | 1 | 3 => s.hold .exitDrain
        | _ =>
          match s.runDeferred g t.aset.deferred with
          | (s, false) => s.hold .exitDrain
          | (s, true) => (s.leave g).done

/-- EXIT. Alone in its group it holds the group while it waits. Beside a word of another pipe it issues with it, once the
rod is free and the stores are translated, and the strand is Waiting while the rest of its course takes. -/
def execExit (_c : Bool) (s : State) : Host.Outcome State Fault Refusal :=
  .next (s.uWord true [] (fun s =>
    if !s.iss.multi then s.exitCourse
    else if s.waits (!s.old.rodFree) then s.hold .rod
    else if s.waits (s.untranslated s.iss.g) then s.hold .stores
    else
      (s.modMe (fun t =>
        { t with leaving := true, state := if t.state = .ready then .waiting else t.state,
                 wait := if t.state = .ready then .exit else t.wait })).done))

end Sys2Proof.Machine
end

