-- ==== Sys2Proof/Machine/Halting.lean ====
section
/-!
DEFINITION. Halting in place, claims and spills, resume and refill (R382 to R384), and the return of scratchpad blocks
(R165, R167).
-/

namespace Sys2Proof.Machine

/-! ### The scheduling block (R380) -/

def State.saveBase (s : State) (ctx : Nat) : Nat := s.hbmNat (s.ctx ctx).schedAddr 8
def State.nsf (s : State) (ctx : Nat) : Nat := s.hbmNat ((s.ctx ctx).schedAddr + 8) 3 % 2 ^ 17
def State.watchdogArmed (s : State) (ctx : Nat) : Bool := s.hbmNat ((s.ctx ctx).schedAddr + 10) 1 / 4 % 2 == 1
def State.spSave (s : State) (ctx : Nat) : Nat := s.hbmNat ((s.ctx ctx).schedAddr + 16) 8
/-- The lowest free strand frame of a context. -/
def State.freeFrame (s : State) (ctx : Nat) : Option Nat :=
  let used := (s.ctx ctx).frames
  (List.range (used.length + 1)).find? (fun f => f < s.nsf ctx && !used.contains f)

/-! ### Halts (R82, R83, R382) -/

/-- R83. The strand is at a boundary, or its V word has come to a stop between two slots. -/
def Strand.atStop (t : Strand) : Bool :=
  match t.flight with
  | none => true
  | some f =>
    match f.stop with
    | .pageWait | .granWait | .fullEmpty | .faulted | .reissue => true
    | _ => false

/-- R382. The strand can become Halted now; one in TrapEntry halts after its drain. -/
def Strand.canHalt (t : Strand) : Bool :=
  t.resident && t.state != .halted && t.state != .trapEntry && t.atStop

/-- R82, R83. The strand is Halted; it will go back to the state before the halt. -/
def Strand.halt (t : Strand) : Strand := { t.commitAll with haltFrom := t.state, state := .halted, resuming := false }

/-- R382, R295, R212. Halt a strand where it stands. -/
def State.haltStrand (s : State) (g : Nat) : State :=
  let ctx := (s.strand g).info.ctx
  ((s.modStrand g Strand.halt).flushCb (coreOf g) (fun e => e.work.ctx == ctx)).haltM g

/-- HOLD_LIMIT_EXPIRY: a hold has outlasted the partition's hold limit (R350). -/
def execHoldLimitExpiry (g : Nat) (s : State) : Host.Outcome State Fault Refusal :=
  .next (if (s.strand g).resident ∧ (s.strand g).state = .held then s.haltStrand g else s)

/-- The strands of a context, by key. -/
def State.strandsOf (s : State) (ctx : Nat) : List (Nat × Strand) :=
  s.strands.filter (fun x => x.2.resident && x.2.info.ctx == ctx)

/-- R382. Halt every strand of a context that can halt. One that is Halted for its refill stays so until its context resumes
again. -/
def State.haltSweep (s : State) (ctx : Nat) : State :=
  let s : State := { s with strands := s.strands.map (fun (x : Nat × Strand) =>
    (x.1, if x.2.info.ctx = ctx then { x.2 with resuming := false } else x.2)) }
  ((s.strandsOf ctx).filter (fun x => x.2.canHalt)).foldl (fun (s : State) x => s.haltStrand x.1) s

/-- R382. Every strand of a context has halted. -/
def State.allHalted (s : State) (ctx : Nat) : Bool := (s.strandsOf ctx).all (fun x => x.2.state == .halted)

/-! ### Resume (R383, R384) -/

/-- R167, R383. Claims that take a unit of a strand, or a block that it uses. -/
def State.claimed (s : State) (g : Nat) : Bool :=
  s.claims.any (fun c => c.g == g || (match c.kind with
    | .spad core off => (s.core core).blocks.any (fun b => b.off == off && b.users.contains g)
    | _ => false))

/-- R167. A block of a strand stands at a place of its window: other blocks may have taken the place of a spilt one. -/
def State.blockHere (s : State) (g : Nat) (x : Nat × Nat) : Bool := (s.core x.1).blocks.any (fun b => b.off == x.2 && b.users.contains g)
/-- R167. The blocks that a strand's window maps are all in place. -/
def State.blocksHere (s : State) (g : Nat) : Bool :=
  (s.strand g).info.spLog = 0 || (s.strand g).info.segs.all (s.blockHere g)

/-- R383. Nothing of the strand is spilt, or on its way to be. -/
def State.whole (s : State) (g : Nat) : Bool :=
  let t := s.strand g
  t.spilt == {} && !s.claimed g && s.blocksHere g

/-- R82, R383. A Halted strand goes back to its state before the halt. -/
def State.unhalt (s : State) (g : Nat) : State :=
  let t := s.strand g
  let s := s.setStrand g { t with state := t.haltFrom, resuming := false }
  let s := if t.haltFrom = .waiting then (t.waitList.filterMap (fun w => w.event g)).foldl (fun s e => s.dueOnce e) s else s
  let s := s.wakeHandle g
  let s := if t.trap.traps.isEmpty then s else s.dueOnce (.trapEntry g)
  s.kickM (quarterOf g)

/-- R383. A halted strand resumes: at once when nothing of it is spilt, else after its refill. -/
def State.resumeStrand (s : State) (g : Nat) : State :=
  if s.whole g then s.unhalt g else s.modStrand g (fun t => { t with resuming := true })

/-- R384. In frozen mode CTOFF rises by the length of the pause. -/
def State.endPause (s : State) (ctx : Nat) : State :=
  match (s.ctx ctx).pausedAt with
  | none => s
  | some p =>
    let d := if s.frozenTime ctx then s.podTime - p else 0
    s.modCtx ctx (fun c => { c with pausedAt := none, ctoff := c.ctoff + d })

/-- R382 step 4, R383, R427. A context that is idle or halted runs; its halted strands resume and its work is placed. -/
def State.resumeContext (s : State) (ctx : Nat) : State :=
  let c := s.ctx ctx
  if (s.ctxs.find? ctx).isNone || c.state == .error || c.state == .halting then s
  else
    let s := (s.endPause ctx).modCtx ctx (fun c => { c with state := .running })
    let s := s.serveContext ctx
    let s := ((s.strandsOf ctx).filter (fun x => x.2.state == .halted)).foldl (fun (s : State) x => s.resumeStrand x.1) s
    s.dueOnce (.dispatchPlacement c.part)

/-- R382 step 2. The context has halted, and the incoming context of its switch resumes. -/
def State.haltDone (s : State) (ctx : Nat) : State :=
  let part := (s.ctx ctx).part
  let s := s.modCtx ctx (fun c => { c with state := .halted, haltedAt := s.clock, pausedAt := some s.podTime })
  match (s.part part).incoming with
  | none => s
  | some i => (s.modPart part (fun p => { p with incoming := none })).resumeContext i

/-- PARTITION_HALT_COMPLETE: strands that have come to their boundary halt, and once all have, the context is halted. -/
def execPartitionHaltComplete (ctx : Nat) (s : State) : Host.Outcome State Fault Refusal :=
  if (s.ctx ctx).state ≠ .halting then .next s
  else
    let s := s.haltSweep ctx
    .next (if s.allHalted ctx then s.haltDone ctx else s)

/-- PARTITION_SWITCH. -/
def execPartitionSwitch (part out inc : Nat) (s : State) : Host.Outcome State Fault Refusal :=
  let o := s.ctx out
  if (s.parts.find? part).isNone then .next s
  else
    let incoming : Option Nat := if (s.ctxs.find? inc).isSome ∧ (s.ctx inc).part = part then some inc else none
    let s := s.modPart part (fun p => { p with incoming := incoming })
    if (s.ctxs.find? out).isSome ∧ o.part = part ∧ (o.state = .running ∨ o.state = .halting) then
      let s := (s.modCtx out (fun c => { c with state := .halting })).haltSweep out
      .next (if s.allHalted out then s.haltDone out else s)
    else
      match incoming with
      | none => .next s
      | some i => .next ((s.modPart part (fun p => { p with incoming := none })).resumeContext i)

/-- The halt of a context can make progress. -/
def State.haltReady (s : State) (ctx : Nat) (c : Ctx) : Bool :=
  c.state == .halting && ((s.strandsOf ctx).any (fun x => x.2.canHalt) || s.allHalted ctx)

/-! ### Units and claims (R383) -/

/-- Bytes that the write-out of a unit moves. -/
def State.unitBytes (s : State) (g : Nat) : UnitKind → Nat
  | .slot => 1024 + 2048
  | .rows => 1024
  | .ublock => 256
  | .tile _ => 16384
  | .spad _ _ => 2 ^ (s.strand g).info.spLog

/-- The address of the save area at which a unit is kept (R380). -/
def State.unitSave (s : State) (g : Nat) (k : UnitKind) : Nat :=
  let t := s.strand g
  match k with
  | .slot => s.frameAddr g 0
  | .rows => s.frameAddr g (0x1000 + 1024 * t.spilt.rows)
  | .ublock => s.frameAddr g (0x4800 + 256 * t.spilt.ublks)
  | .tile i => s.frameAddr g (0x5800 + 16384 * i)
  | .spad c o =>
    let cores := (s.part t.info.part).quads.flatMap coresOfQuad
    s.spSave t.info.ctx + (cores.filter (· < c)).length * 2097152 + o

/-- The 64-byte lines of a unit in the save area. A slot's are its strand record and its operand-file rows. -/
def State.unitLines (s : State) (g : Nat) (k : UnitKind) : List Nat :=
  let a := s.unitSave g k
  match k with
  | .slot => (List.range 16).map (fun i => a + 64 * i) ++ (List.range 32).map (fun i => a + 0x800 + 64 * i)
  | _ => (List.range ((s.unitBytes g k + 63) / 64)).map (fun i => a + 64 * i)

/-- R383. A unit's lines are charged to a context, from the die of the unit's core. -/
def State.chargeUnit (s : State) (g : Nat) (ctx : Nat) (k : UnitKind) (write : Bool) : State :=
  let die := match k with | .spad c _ => dieOfCore c | _ => dieOf g
  let w : Work := { g := g, inc := 0, ctx := ctx, q := quarterOf g }
  (s.unitLines g k).foldl (fun (s : State) a => s.saveAccess w die a write) s

/-- The claims under way for a unit kind of a strand. -/
def State.claimsOf (s : State) (g : Nat) (k : UnitKind) : Nat := (s.claims.filter (fun c => c.g == g && c.kind == k)).length

/-- Units of a counted kind that can still be claimed from a strand. -/
def State.unitsLeft (s : State) (g : Nat) (k : UnitKind) : List UnitKind :=
  let t := s.strand g
  match k with
  | .slot => if t.spilt.slot || 0 < s.claimsOf g .slot then [] else [.slot]
  | .rows => List.replicate (poolUnits t.info.vrows - t.spilt.rows - s.claimsOf g .rows) .rows
  | .ublock => List.replicate (t.info.ublk - t.spilt.ublks - s.claimsOf g .ublock) .ublock
  | .tile _ =>
    ((List.range t.info.tiles.length).filter (fun i =>
      !t.spilt.tiles.any (fun x => x.1 == i) && s.claimsOf g (.tile i) = 0)).map .tile
  | .spad _ _ => []

/-- n units of a kind, in the order of R383, from the halted strands of a quarter but `but`; `none` when there are too few. -/
def State.claimUnits (s : State) (q n : Nat) (k : UnitKind) (but : Option Nat := none) : Option (List (Nat × UnitKind)) :=
  let all := (s.claimOrder (fun g => quarterOf g == q && some g != but)).flatMap (fun x => (s.unitsLeft x.1 k).map (fun u => (x.1, u)))
  if n ≤ all.length then some (all.take n) else none

/-- R167, R383. A block can be claimed: every strand that uses it is halted. -/
def State.blockClaimable (s : State) (b : SpBlock) : Bool :=
  !b.exitPending && !b.users.isEmpty && b.users.all (fun g => (s.strand g).state == .halted)

/-- The block's claim: it names the lowest strand that uses it. -/
def blockClaim (core : Nat) (b : SpBlock) : Nat × UnitKind := (b.users.foldl min (b.users.headD 0), .spad core b.off)

/-- R164, R165, R383. Where 2^lg bytes fit on a core: the place of R164 if there is one, else the range whose blocks can all be
claimed with the fewest bytes, ties to the lowest offset. The holder of a reservation gets its range and no other. -/
def State.spadPlan (s : State) (core lg : Nat) (holder : Bool) : Option (Nat × List (Nat × UnitKind)) :=
  let c := s.core core
  if lg = 0 then some (0, [])
  else
    match c.fit lg holder with
    | some o => some (o, [])
    | none =>
      let free (o : Nat) : Bool := match c.reserved with
        | some r => if holder then o == r.off else !rangesMeet r.off (2 ^ r.lg) o (2 ^ lg)
        | none => true
      let cand := ((List.range (2 ^ (21 - lg))).map (fun i => i * 2 ^ lg)).filterMap (fun o =>
        let bs := c.blocks.filter (fun b => rangesMeet b.off (2 ^ b.lg) o (2 ^ lg))
        if free o && bs.all s.blockClaimable then some (o, bs) else none)
      let cost (x : Nat × List SpBlock) : Nat := (x.2.map (fun b => 2 ^ b.lg)).foldl (· + ·) 0
      (cand.foldl (fun (best : Option (Nat × List SpBlock)) x =>
        match best with
        | none => some x
        | some y => if cost x < cost y then some x else some y) none).map
          (fun x => (x.1, (x.2.map (blockClaim core)).filter (fun k => s.claimsOf k.1 k.2 = 0)))

/-! ### Write-outs -/

/-- R167. A copy, a drain, a remote message or a queued MMA may still touch the block at an offset of a core. -/
def State.blockTouched (s : State) (core off lg : Nat) : Bool :=
  s.cores.any (fun c => c.2.creq.any (fun r => r.touches core off))
    || s.quarters.any (fun q => q.2.mq.any (fun e => e.kind.isMma && e.info.segs.contains (core, off)))
    || (s.core core).remote.any (fun m => off ≤ m.off && m.off < off + 2 ^ lg)

/-- R83, R295. No load of the strand is under way, and no word of its tiles runs. -/
def State.strandQuiet (s : State) (g : Nat) : Bool :=
  !s.loadsBefore g s.nextId && !(s.quarter (quarterOf g)).mq.any (fun e => e.work == s.workOf g)

/-- R383. The write-out of a unit can complete. -/
def State.claimReady (s : State) (c : Claim) : Bool :=
  match c.kind with
  | .slot | .rows => s.strandQuiet c.g
  | .ublock => !s.loadsBefore c.g s.nextId
  | .tile i =>
    match (s.strand c.g).info.tiles[i]? with
    | some p => !(s.quarter (quarterOf c.g)).mq.any (fun e => e.tile == p)
    | none => true
  | .spad core off =>
    match (s.core core).blocks.find? (fun b => b.off == off) with
    | some b => !s.blockTouched core off b.lg
    | none => true

/-- R380. What a write-out stores in the save area. The layout of the strand record is not given, and its bytes are left. -/
def State.unitImage (s : State) (g : Nat) (k : UnitKind) : Nat × List Byte :=
  let t := s.strand g
  let row (r : Nat) : List Word := (List.range 32).map (fun i => t.vreg r i)
  match k with
  | .slot => (s.frameAddr g 0x800, bytesOfWords ((List.range 16).flatMap row))
  | .rows => (s.unitSave g .rows, bytesOfWords ((List.range 8).flatMap (fun i => row (16 + 8 * t.spilt.rows + i))))
  | .ublock => (s.unitSave g .ublock, bytesOfWords ((List.range 64).map (fun i => t.uregs.get (64 * t.spilt.ublks + i))))
  | .tile i =>
    let p := t.info.tiles.getD i 0
    let d := ((s.quarter (quarterOf g)).tileSt p).data
    (s.unitSave g (.tile i), bytesOfWords ((List.range 4096).map d.get))
  | .spad c o => (s.unitSave g k, (s.core c).readSp o (2 ^ t.info.spLog))

/-- R167, R383. Take a block out of its core, with its bits, tags and flips, to the strand that keeps it. -/
def State.spillBlock (s : State) (g core off : Nat) : State :=
  let c := s.core core
  let lg := (s.strand g).info.spLog
  let inside (o : Nat) : Bool := off ≤ o && o < off + 2 ^ lg
  let kept : SpiltBlock :=
    { core := core, off := off, users := (c.blocks.filter (fun b => b.off == off)).flatMap (·.users),
      bytes := c.spad.filter (fun x => inside x.1), fe := c.fe.filter (fun x => inside (4 * x.1)),
      tags := c.tags.filter (fun x => inside (1024 * x.1)), bbFar := c.bbFar.filter inside }
  let s := s.setCore core { c.refill off lg with blocks := c.blocks.filter (fun b => b.off != off) }
  s.modStrand g (fun t => { t with spilt := { t.spilt with blocks := t.spilt.blocks ++ [kept] } })

/-- R383. A unit is spilt; with a slot goes the record of a strand in its handler (R394). -/
def State.spillUnit (s : State) (g : Nat) (k : UnitKind) : State :=
  let q := quarterOf g
  let mark (f : Spilt → Spilt) (s : State) : State := s.modStrand g (fun t => { t with spilt := f t.spilt })
  match k with
  | .slot => mark (fun x => { x with slot := true }) (s.saveRecord g)
  | .rows => mark (fun x => { x with rows := x.rows + 1 }) (s.modQuarter q (fun x => { x with rowsUsed := x.rowsUsed - 1 }))
  | .ublock => mark (fun x => { x with ublks := x.ublks + 1 }) (s.modQuarter q (fun x => { x with ublkUsed := x.ublkUsed - 1 }))
  | .tile i =>
    let p := (s.strand g).info.tiles.getD i 0
    let d := (s.quarter q).tileSt p
    mark (fun x => { x with tiles := x.tiles ++ [(i, d)] })
      (s.modQuarter q (fun x => { x with tiles := x.tiles.filter (fun y => y.1 != p) }))
  | .spad c o => s.spillBlock g c o

/-- SPILL_COMPLETE: a claimed unit has been written out, at the claiming context's charge. -/
def execSpillComplete (id : Nat) (s : State) : Host.Outcome State Fault Refusal :=
  match s.claims.find? (fun c => c.id == id) with
  | none => .next s
  | some c =>
    if !s.claimReady c then .next s
    else
      let s : State := { s with claims := s.claims.filter (fun x => x.id != id) }
      let gone : Bool := match c.kind with
        | .spad core off => !(s.core core).blocks.any (fun b => b.off == off && !b.exitPending)
        | _ => !(s.strand c.g).resident
      if gone then .next s
      else
        let s := s.chargeUnit c.g c.claimer c.kind true
        let im := s.unitImage c.g c.kind
        let s := s.memWrite { host := false, addr := im.1 } im.2
        .next ((s.spillUnit c.g c.kind).dueOnce (.dispatchPlacement (s.ctx c.claimer).part))

/-- R383. Begin the write-outs of units for a context. -/
def State.beginClaims (s : State) (ctx : Nat) (l : List (Nat × UnitKind)) : State :=
  l.foldl (fun (s : State) x =>
    ({ s with claims := s.claims ++ [{ id := s.nextId, g := x.1, claimer := ctx, kind := x.2 }] } : State).takeId) s

/-! ### Refills -/

/-- The strand that occupies a strand slot. -/
def State.slotHolder (s : State) (g : Nat) : Option Nat :=
  (List.find? (fun (x : Nat × Strand) => x.2.resident && !x.2.spilt.slot && gslot x.1 == gslot g && x.1 != g) s.strands).map (·.1)

/-- The blocks that a strand's window maps and that are spilt. -/
def State.blocksGone (s : State) (g : Nat) : List (Nat × Nat) :=
  if (s.strand g).info.spLog = 0 then [] else (s.strand g).info.segs.filter (fun x => !s.blockHere g x)

/-- What is left of a strand's refill is lines of the hold buffer. -/
def State.onlyLines (s : State) (g : Nat) : Bool :=
  let x := (s.strand g).spilt
  0 < x.lines && !x.slot && x.rows = 0 && x.ublks = 0 && x.tiles.isEmpty && (s.blocksGone g).isEmpty

/-- Join plans, when each can be met. -/
def joinPlans {α : Type} : List (Option (List α)) → Option (List α)
  | [] => some []
  | none :: _ => none
  | some a :: l => (joinPlans l).map (a ++ ·)

/-- R383. What must be claimed before a strand can be refilled; `none` while a place it needs is held by a running
strand. Its hold-buffer lines come back last and one at a time (R267): the next needs a free line of the core, or one to claim. -/
def State.refillPlan (s : State) (g : Nat) : Option (List (Nat × UnitKind)) :=
  let t := s.strand g
  let q := quarterOf g
  let x := s.quarter q
  let slot : Option (List (Nat × UnitKind)) :=
    if !t.spilt.slot then some []
    else
      match s.slotHolder g with
      | none => some []
      | some h => if (s.strand h).state = .halted then some ((s.unitsLeft h .slot).map (fun u => (h, u))) else none
  let block (b : Nat × Nat) : Option (List (Nat × UnitKind)) :=
    let met := (s.core b.1).blocks.filter (fun y => rangesMeet y.off (2 ^ y.lg) b.2 (2 ^ t.info.spLog))
    if met.all s.blockClaimable then some ((met.map (blockClaim b.1)).filter (fun k => s.claimsOf k.1 k.2 = 0)) else none
  let lines : Option (List (Nat × UnitKind)) :=
    if !(s.onlyLines g) || s.holdLinesUsed (coreOf g) < 1024 || (s.lineOwner g).isSome then some [] else none
  joinPlans ([slot, s.claimUnits q (x.rowsUsed + t.spilt.rows - 192) .rows (some g),
    s.claimUnits q (x.ublkUsed + t.spilt.ublks - 256) .ublock (some g),
    s.claimUnits q (x.tiles.length + t.spilt.tiles.length - 4) (.tile 0) (some g), lines] ++ (s.blocksGone g).map block)

/-- Free physical tiles of a quarter. -/
def QuarterSt.freeTiles (x : QuarterSt) : List Nat := (List.range 4).filter (fun p => !x.tiles.any (fun y => y.1 == p))

/-- R383, R295. A spilt tile goes into a free tile of the quarter, with its suspended and held words. An MMA that awaits a host
page tries again. -/
def State.refillTile (s : State) (g : Nat) (i : Nat) (d : TileSt) : State :=
  let q := quarterOf g
  let p := (s.quarter q).freeTiles.headD 0
  let mv (e : MEntry) : MEntry := { e with tile := p }
  let d : TileSt := { d with susp := d.susp.map (fun (m : MSuspend) => { m with entry := mv m.entry }), heldWords := d.heldWords.map mv }
  let s := s.modQuarter q (fun x => x.setTile p d)
  let s := s.modStrand g (fun t => { t with info := { t.info with tiles := t.info.tiles.set i p } })
  s.reenterPages q (fun e => e.tile == p)

/-- R383. A spilt block goes back to the same offset of its core, for every strand that uses it. -/
def State.refillBlock (s : State) (g : Nat) (b : Nat × Nat) : State :=
  let mine (y : SpiltBlock) : Bool := y.core == b.1 && y.off == b.2 && y.users.contains g
  match s.strands.findSome? (fun x => x.2.spilt.blocks.find? mine) with
  | none => s
  | some k =>
    let s : State := { s with strands := s.strands.map (fun (x : Nat × Strand) =>
      (x.1, { x.2 with spilt := { x.2.spilt with blocks := x.2.spilt.blocks.filter (fun y => !mine y) } })) }
    let t := s.strand g
    let users := k.users.filter (fun h => (s.strand h).resident)
    s.modCore b.1 (fun c =>
      let c := c.refill b.2 t.info.spLog
      { c with blocks := c.blocks ++ [{ off := b.2, lg := t.info.spLog, ctx := t.info.ctx, users := users, exitPending := false }],
               spad := k.bytes.foldl (fun (m : Bytes) x => Sp.set 0 m x.1 x.2) c.spad,
               fe := k.fe.foldl (fun (m : Assoc Bool) x => Sp.set false m x.1 x.2) c.fe,
               tags := k.tags.foldl (fun (m : Assoc (BitVec 4)) x => Sp.set 0 m x.1 x.2) c.tags,
               bbFar := k.bbFar ++ c.bbFar })

/-- R383. The units that a refill brings back. -/
def Spilt.units (x : Spilt) : List UnitKind :=
  (if x.slot then [.slot] else []) ++ List.replicate x.rows .rows ++ List.replicate x.ublks .ublock ++ x.tiles.map (fun y => .tile y.1)

/-- R383. Every spilt unit of a strand but its hold-buffer lines comes back, at its own context's charge. -/
def State.refillAll (s : State) (g : Nat) : State :=
  let t := s.strand g
  let q := quarterOf g
  let gone := s.blocksGone g
  let s := (t.spilt.units ++ gone.map (fun b => UnitKind.spad b.1 b.2)).foldl (fun (s : State) k => s.chargeUnit g t.info.ctx k false) s
  let s := s.modQuarter q (fun x => { x with rowsUsed := x.rowsUsed + t.spilt.rows, ublkUsed := x.ublkUsed + t.spilt.ublks })
  let s := t.spilt.tiles.foldl (fun (s : State) x => s.refillTile g x.1 x.2) s
  let s := gone.foldl (fun (s : State) b => s.refillBlock g b) s
  s.modStrand g (fun t => { t with spilt := { blocks := t.spilt.blocks, lines := t.spilt.lines } })

/-- R267, R383. One hold-buffer line of a strand comes back, at its own context's charge, into a free line of its core or one
that is claimed. -/
def State.refillLine (s : State) (g : Nat) : State :=
  let s := s.makeLineRoom g
  let n := (s.strand g).spilt.lines - 1
  let s := s.saveAccess (s.workOf g) (dieOf g) (s.frameAddr g (0x15800 + 64 * n)) false
  s.modStrand g (fun t => { t with spilt := { t.spilt with lines := n } })

/-- REFILL_COMPLETE: spilt units of a resuming strand are back and, when all of them are, it goes on; or the units it needs are
claimed. -/
def execRefillComplete (g : Nat) (s : State) : Host.Outcome State Fault Refusal :=
  let t := s.strand g
  if !t.resident || t.state != .halted || !t.resuming || t.aset.rolling || s.claimed g then .next s
  else
    match s.refillPlan g with
    | none => .next s
    | some [] =>
      let s := if s.onlyLines g then s.refillLine g else s.refillAll g
      let s := if (s.strand g).spilt.lines = 0 ∧ t.aset.committing ∧ t.exitStep = 1 then s.dueOnce (.holdBufferDrainComplete g) else s
      .next (if s.whole g then s.unhalt g else s)
    | some l => .next (s.beginClaims t.info.ctx l)

/-- A resuming strand's refill can make progress. -/
def State.refillReady (s : State) (g : Nat) (t : Strand) : Bool :=
  t.resident && t.state == .halted && t.resuming && !t.aset.rolling && !s.claimed g
    && (match s.refillPlan g with
        | none => false
        | some [] => true
        | some _ => !s.claims.any (fun c => c.claimer == t.info.ctx))

/-! ### The return of a block (R165, R167) -/

/-- R167. An exit-pending block that nothing touches. -/
def State.blockReady (s : State) (core : Nat) (b : SpBlock) : Bool :=
  b.exitPending && b.users.isEmpty && !s.blockTouched core b.off b.lg

/-- SCRATCHPAD_BLOCK_RETURN. -/
def execScratchpadBlockReturn (core off : Nat) (s : State) : Host.Outcome State Fault Refusal :=
  match (s.core core).blocks.find? (fun b => b.off == off) with
  | none => .next s
  | some b =>
    if !s.blockReady core b then .next s
    else
      let s := s.modCore core (fun c => { c with blocks := c.blocks.filter (fun x => x.off != off) })
      .next (s.coreReturned core)

end Sys2Proof.Machine
end

