-- ==== Sys2Proof/Machine/Place.lean ====
section
/-!
DEFINITION. The dispatcher (R13, R163, R322, R331, R332, R370 to R376, R381, R383): footprints and where they fit, the
allotment of cohorts, neighbourhoods and tasks, and the order in which contexts are served.
-/

namespace Sys2Proof.Machine

/-! ### Footprints (R13, R14) -/

/-- The footprint of one strand. -/
structure Foot where
  vrows : Nat
  ublk : Nat
  splog : Nat
  tiles : Nat
  deriving DecidableEq, Repr

def LaunchItem.foot (l : LaunchItem) : Foot :=
  { vrows := 8 * l.f 132 128, ublk := l.f 137 133, splog := l.f 142 138, tiles := l.f 145 143 }
def taskFoot (r : List Byte) : Foot :=
  { vrows := 8 * recField r 68 64, ublk := recField r 73 69, splog := recField r 78 74, tiles := recField r 81 79 }

/-- Units to claim: a strand and a kind. -/
abbrev Claims := List (Nat × UnitKind)

/-- R14, R383. What n strands of a footprint must claim in a quarter; `none` when they do not fit. -/
def State.quarterPlan (s : State) (q n : Nat) (f : Foot) : Option Claims :=
  if n = 0 then some []
  else
    let x := s.quarter q
    let used := (s.strands.filter (fun t => t.2.resident && !t.2.spilt.slot && quarterOf t.1 == q)).length
    joinPlans [s.claimUnits q (used + n - 32) .slot, s.claimUnits q (x.rowsUsed + n * poolUnits f.vrows - 192) .rows,
      s.claimUnits q (x.ublkUsed + n * f.ublk - 256) .ublock, s.claimUnits q (x.tiles.length + n * f.tiles - 4) (.tile 0)]

/-- Barrier instances of a scope in use at a place. -/
def State.barsAt (s : State) (scope place : Nat) : Nat :=
  (s.bars.filter (fun b => b.2.scope == scope && b.2.place == place)).length

/-- R412, R419, R433. The core may receive work of a partition. -/
def State.coreServes (s : State) (part core : Nat) : Bool :=
  let d := s.die (dieOfCore core)
  (s.part part).quads.contains (globalQuad core) && !(s.core core).retired && d.trained && !d.stopped

/-- R165. A standing reservation is held for the request of a place in the enqueue order, of this size. -/
def State.holdsReservation (s : State) (core order lg : Nat) : Bool :=
  (s.core core).reserved.any (fun r => r.lg == lg && r.order == order)

/-- Half of a cohort on a core: the core, the strand indices it receives, and the offset of its scratchpad block. -/
structure Half where
  core : Nat
  first : Nat
  count : Nat
  off : Nat := 0
  deriving DecidableEq, Repr

/-- R373. Whether n strands fit on a core, with the offset of their block and what they claim. -/
def State.halfPlan (s : State) (order part bcore : Nat) (f : Foot) (h : Half) : Option (Half × Claims) :=
  if !s.coreServes part h.core || 16 < s.barsAt 1 h.core + bcore then none
  else
    let qs := (List.range 4).map (fun i => s.quarterPlan (4 * h.core + i) ((h.count + 3 - i) / 4) f)
    match joinPlans qs, s.spadPlan h.core f.splog (s.holdsReservation h.core order f.splog) with
    | some l, some (o, k) => some ({ h with off := o }, l ++ k)
    | _, _ => none

/-- Bytes that the claims of a plan write out (R383). -/
def State.planBytes (s : State) (l : Claims) : Nat := (l.map (fun x => s.unitBytes x.1 x.2)).foldl (· + ·) 0

/-- R383. Of the places that fit, in preference order, the one that writes out the fewest bytes. -/
def State.cheapest {α : Type} (s : State) (l : List (α × Claims)) : Option (α × Claims) :=
  (l.foldl (fun (best : Option (Nat × α × Claims)) x =>
    let n := s.planBytes x.2
    match best with
    | none => some (n, x)
    | some y => if n < y.1 then some (n, x) else some y) none).map (·.2)

/-! ### Preference (R374) -/

/-- Cohort coordinates of a cohort number (R373). -/
def LaunchItem.coords (l : LaunchItem) (c : Nat) : Nat × Nat × Nat :=
  let gx := max 1 (l.f 79 64)
  let gy := max 1 (l.f 95 80)
  (c % gx, c / gx % gy, c / gx / gy)
/-- R374. The affinity key, and its die and slice. -/
def affKey (x y z : Nat) : Nat := (x * 0x9E3779B1 + y * 0x85EBCA77 + z * 0xC2B2AE3D) % 2 ^ 32
def affDie (k : Nat) : Nat := bitsOf k 3 0 ^^^ bitsOf k 11 8
def affSlice (k : Nat) : Nat := bitsOf k 7 4 ^^^ bitsOf k 15 12

/-- R374. The in-die indices in order from a slice: its two cores, then the others by distance, ties by number. -/
def dieOrder (sl : Nat) : List Nat :=
  let a := 2 * sl
  let dist (i : Nat) : Nat := natDist (i / 8) (a / 8) + natDist (i % 8) (a % 8)
  [a, a + 1] ++ sortBy (fun i j => dist i ≤ dist j) ((List.range 32).filter (fun i => i != a && i != a + 1))
/-- R374. The dies in order from one: by boundaries, ties by number. -/
def diesFrom (d : Nat) : List Nat := sortBy (fun i j => hops d i ≤ hops d j) (List.range 16)
/-- R374. Every core in preference order for an affinity key. -/
def coreOrder (k : Nat) : List Nat := (diesFrom (affDie k)).flatMap (fun d => (dieOrder (affSlice k)).map (fun i => 32 * d + i))

/-! ### Where a unit of a launch may go -/

/-- The strands of a cohort on its lower core. -/
def LaunchItem.lower (l : LaunchItem) : Nat := if l.nstr ≤ 128 then l.nstr else (l.nstr + 1) / 2
/-- The halves of a cohort on named cores (R373). -/
def LaunchItem.halves (l : LaunchItem) : List Nat → List Half
  | [a] => [{ core := a, first := 0, count := l.nstr }]
  | [a, b] => [{ core := a, first := 0, count := l.lower }, { core := b, first := l.lower, count := l.nstr - l.lower }]
  | _ => []

/-- R373, R374. The places a cohort may take, in preference order: each core, or the pairs of each quad. DESIGN CHOICE (log 116):
any two cores of a quad count as the adjacent cores of R12, a diagonal pair too. -/
def LaunchItem.places (l : LaunchItem) (order : List Nat) : List (List Nat) :=
  if l.nstr ≤ 128 then order.map (fun c => [c])
  else
    ((order.map globalQuad).eraseDups).flatMap (fun q =>
      let cs := coresOfQuad q
      cs.flatMap (fun a => (cs.filter (fun b => a < b)).map (fun b => [a, b])))

/-- R322, R323. The `.die`, `.quad`, `.pkg` and `.pod` instances that a unit needs beyond those its launch has. How many of the
pod's two the gangs of other packages hold is free (log 115). -/
def State.barsFit (s : State) (l : Nat) (it : LaunchItem) (cores : List Nat) : Bool :=
  let has (scope place : Nat) : Bool := s.bars.any (fun b => b.2.launch == l && b.2.scope == scope && b.2.place == place)
  let quads := (cores.map globalQuad).eraseDups
  let perQuad (q : Nat) : Nat := if it.nstr ≤ 128 then (cores.filter (fun c => globalQuad c == q)).length else 1
  let dies := (cores.map dieOfCore).eraseDups
  quads.all (fun q => s.barsAt 2 q + it.f 168 165 * perQuad q ≤ 8)
    && dies.all (fun d => (it.nbSize = 0 && has 3 d) || s.barsAt 3 d + it.f 172 169 ≤ 8)
    && (has 4 0 || s.barsAt 4 0 + it.f 175 173 ≤ 4)
    && (has 5 0 || it.f 177 176 = 0 || s.barsAt 5 0 + it.f 177 176 + Config.podHeld s.free ≤ 2)

/-- A cohort with its halves. -/
abbrev Placed := Nat × List Half

/-- Whether cohorts fit on named cores, all together. -/
def State.unitPlan (s : State) (l : Nat) (it : LaunchItem) (unit : List (Nat × List Nat)) : Option (List Placed × Claims) :=
  let ctx := s.ctx it.ctx
  let n := unit.length * it.nstr
  if !s.barsFit l it (unit.flatMap (·.2)) || s.nsf it.ctx < ctx.frames.length + n then none
  else
    let plans := unit.map (fun u => (it.halves u.2).map (fun h => (u.1, s.halfPlan it.order ctx.part (it.f 164 160) it.foot h)))
    if plans.any (fun p => p.any (fun x => x.2.isNone)) then none
    else
      some (plans.map (fun p => ((p.headD (0, none)).1, p.filterMap (fun x => x.2.map (·.1)))),
        (plans.flatMap (fun p => p.flatMap (fun x => ((x.2.map (·.2)).getD [])))))

/-- R375. The cores of a w by h rectangle of a die from its top-left core. -/
def rectangle (die w h row0 col0 : Nat) : List Nat :=
  (List.range (w * h)).map (fun i => 32 * die + 8 * (row0 + i / w) + col0 + i % w)

/-- R374 to R376. The places that the next unit of a launch may take, in preference order. -/
def LaunchItem.candidates (it : LaunchItem) : List (List (Nat × List Nat)) :=
  let c := it.next
  let xyz := it.coords c
  let k := affKey xyz.1 xyz.2.1 xyz.2.2
  let w := it.f 151 148
  let h := it.f 154 152
  let mapped (i : Nat) : List Nat :=
    let e := (it.map.getD i 0).toNat
    if it.nstr ≤ 128 then [bitsOf e 8 0] else [bitsOf e 8 0, bitsOf e 24 16]
  if it.nbSize = 0 then
    if it.f 146 146 = 1 then [[(c, mapped c)]] else (it.places (coreOrder k)).map (fun cs => [(c, cs)])
  else if it.f 146 146 = 1 then [(List.range it.nbSize).map (fun i => (c + i, mapped (c + i)))]
  else
    (diesFrom (affDie k)).flatMap (fun d =>
      (List.range (5 - h)).flatMap (fun r => (List.range (9 - w)).map (fun x =>
        (rectangle d w h r x).zipIdx.map (fun y => (c + y.2, [y.1])))))

/-- R374, R375, R383. Where the next unit of a launch goes. -/
def State.launchPlan (s : State) (l : Nat) (it : LaunchItem) : Option (List Placed × Claims) :=
  s.cheapest (it.candidates.filterMap (fun u => s.unitPlan l it u))

/-! ### Allotment -/

/-- The lowest strand slot of a quarter without a strand, and the key that its strand takes. -/
def State.newKey (s : State) (q : Nat) : Nat :=
  let taken (i : Nat) : Bool := s.strands.any (fun x => x.2.resident && !x.2.spilt.slot && gslot x.1 == 32 * q + i)
  let slot := ((List.range 32).find? (fun i => !taken i)).getD 0
  let gs := 32 * q + slot
  let n := (s.strands.filter (fun x => x.2.resident && gslot x.1 == gs)).length
  ((List.range (n + 1)).map (fun k => gs + 65536 * k)).find? (fun g => !(s.strand g).resident) |>.getD gs

/-- R252. The stamp of a strand dispatched now on a core. -/
def State.newStamp (s : State) (core : Nat) : DWord := (s.podTime <<< 12) ||| BitVec.ofNat 64 (core * 8)

/-- R13, R65, R117, R136, R275, R347, R380. A strand takes its slot, rows, blocks, tiles and frame in a quarter. A
dispatch takes at least one clock of more than a nanosecond (R252). -/
def State.placeStrand (s : State) (q : Nat) (info : StrandInfo) (f : Foot) (prior : Option PriorTask) : State × Nat :=
  let g := s.newKey q
  let x := s.quarter q
  let tiles := x.freeTiles.take f.tiles
  let frame := (prior.map (·.frame)).getD ((s.freeFrame info.ctx).getD 0)
  let stamp := (prior.map (·.stamp)).getD (s.newStamp (coreOf g))
  let info := { info with tiles := tiles, frame := frame, stamp := stamp, vrows := f.vrows, ublk := f.ublk, spLog := f.splog }
  let first := !(s.strands.any (fun y => y.2.resident && y.2.info.ctx == info.ctx && coreOf y.1 == coreOf g))
  let firstDie := !(s.strands.any (fun y => y.2.resident && y.2.info.ctx == info.ctx && dieOf y.1 == dieOf g))
  let bare : Strand := { info := info, inc := s.nextId }
  let s := (s.setStrand g bare.fresh).takeId
  let s := s.modQuarter q (fun x =>
    { x with rowsUsed := x.rowsUsed + poolUnits f.vrows, ublkUsed := x.ublkUsed + f.ublk,
             tiles := tiles.foldl (fun (m : Assoc TileSt) p => m.insert p { owner := some g }) x.tiles,
             purses := x.purses.insert info.ctx (((x.purses.find? info.ctx)).getD {}) })
  let s := s.modCtx info.ctx (fun c => { c with frames := frame :: c.frames.filter (· != frame) })
  let s := s.memWrite { host := false, addr := s.frameAddr g 0x400 } (natLe 1024 0)
  let s := (s.l1DropCtx (coreOf g) info.ctx).codeDropCtx (coreOf g) info.ctx
  let s := s.drawCheck q info.ctx
  let s := if first then s.serveUnit info.ctx (coreOf g) else s
  let s := if firstDie then s.serveUnit info.ctx (512 + dieOf g) else s
  ({ s with podTime := s.podTime + 1 }, g)

/-- R166. Allot a block on a core. -/
def State.allotBlock (s : State) (core off lg ctx : Nat) : State :=
  if lg = 0 then s
  else
    s.modCore core (fun c =>
      let c := c.refill off lg
      { c with blocks := c.blocks ++ [{ off := off, lg := lg, ctx := ctx, users := [], exitPending := false }] })

/-- R170. The strands whose windows map blocks use them. -/
def State.useBlocks (s : State) (segs : List (Nat × Nat)) (gs : List Nat) : State :=
  segs.foldl (fun (s : State) x =>
    let use (b : SpBlock) : SpBlock := if b.off = x.2 ∧ !b.exitPending then { b with users := b.users ++ gs } else b
    s.modCore x.1 (fun c => { c with blocks := c.blocks.map use })) s

/-- R170, R124. An address at which a window begins. -/
def State.newWindow (s : State) : DWord := (Config.windowBase s.free ++ 0#26).signExtend 64

/-- R6. The live slots of n threads. -/
def liveMask (n : Nat) : Word := BitVec.ofNat 32 (2 ^ n - 1)

/-- The ARG fields of a command or a record, from a bit up. -/
def argWords (bytes : List Byte) (from_ : Nat) : List Word := wordsOf ((bytes.drop from_).take 32)

/-- R373. Place the strands of half a cohort; their keys come back. -/
def State.placeHalf (s : State) (l : Nat) (it : LaunchItem) (c : Nat) (base : StrandInfo) (h : Half) : State × List Nat :=
  (List.range h.count).foldl (fun (r : State × List Nat) j =>
    let info : StrandInfo := { base with strandId := h.first + j, cohort := c, work := .cohort l c, spBase := h.off }
    let p := r.1.placeStrand (4 * h.core + j % 4) info it.foot none
    (p.1, r.2 ++ [p.2])) (s, [])

/-- What a launch gives every strand of a cohort. -/
def State.cohortInfo (s : State) (it : LaunchItem) (c : Nat) (segs : List (Nat × Nat)) (win : DWord) : StrandInfo :=
  let xyz := it.coords c
  { ctx := it.ctx, part := (s.ctx it.ctx).part, live := liveMask (it.f 126 121), cx := xyz.1, cy := xyz.2.1, cz := xyz.2.2,
    nstrand := it.nstr, neigh := if it.nbSize = 0 then none else some (c / it.nbSize),
    winBase := if it.f 142 138 = 0 then 0 else win, segs := if it.f 142 138 = 0 then [] else segs,
    entry := BitVec.ofNat 64 (it.f 63 0), args := argWords it.cmd 64, order := it.order }

/-- R322, R325. Fresh instances of a scope for a unit. -/
def State.makeBars (s : State) (scope place launch ctx unitKey n join reg : Nat) (gs : List Nat) : State :=
  (List.range n).foldl (fun (s : State) i =>
    let joined := bitsOf join i i == 1
    let b : BarInst := { scope := scope, place := place, ctx := ctx, launch := launch, unitKey := unitKey, num := i,
                         joinMode := joined, gen := 0, reg := if joined then 0 else reg, arr := 0, drop := 0, join := 0,
                         members := if joined then [] else gs.map (fun g => { g := g }) }
    ({ s with bars := s.bars.insert s.nextId b } : State).takeId) s

/-- R323, R325. Strands join the implicit instances of a scope that their launch already has: counted from the first
generation where they were registered at allotment, from the current one on a `.die` barrier. -/
def State.enrol (s : State) (launch scope place : Nat) (die : Bool) (gs : List Nat) : State :=
  { s with bars := s.bars.map (fun (x : Nat × BarInst) =>
      (x.1, if x.2.launch = launch ∧ x.2.scope = scope ∧ x.2.place = place ∧ !x.2.joinMode then
        { x.2 with members := x.2.members ++ gs.map (fun g => { g := g }),
                   reg := if die then x.2.reg + gs.length else x.2.reg }
        else x.2)) }

/-- The launch already has an instance of a scope at a place. -/
def State.hasBar (s : State) (launch scope place : Nat) : Bool :=
  s.bars.any (fun b => b.2.launch == launch && b.2.scope == scope && b.2.place == place)

/-- R322, R323. The barriers of one placed cohort: `.core` on each of its cores, `.quad`, and the wider scopes of its
launch. -/
def State.cohortBars (s : State) (l : Nat) (it : LaunchItem) (c : Nat) (halves : List (Half × List Nat)) : State :=
  let gs := halves.flatMap (·.2)
  let ctx := it.ctx
  let core := (halves.headD ({ core := 0, first := 0, count := 0 }, [])).1.core
  let all := it.cohorts * it.nstr
  let s := halves.foldl (fun (s : State) h =>
    s.makeBars 1 h.1.core l ctx c (it.f 164 160) (it.f 207 192) h.2.length h.2) s
  let s := s.makeBars 2 (globalQuad core) l ctx c (it.f 168 165) (it.f 215 208) it.nstr gs
  let s :=
    if it.nbSize ≠ 0 then s
    else if s.hasBar l 3 (dieOfCore core) then s.enrol l 3 (dieOfCore core) true gs
    else s.makeBars 3 (dieOfCore core) l ctx 0 (it.f 172 169) (it.f 223 216) gs.length gs
  let s := if s.hasBar l 4 0 then s.enrol l 4 0 false gs else s.makeBars 4 0 l ctx 0 (it.f 175 173) (it.f 227 224) all gs
  if s.hasBar l 5 0 then s.enrol l 5 0 false gs
  else s.makeBars 5 0 l ctx 0 (it.f 177 176) (it.f 229 228) (all * it.f 362 352) gs

/-- R375. The `.die` barriers of a neighbourhood. -/
def State.neighbourBars (s : State) (l : Nat) (it : LaunchItem) (unit : List (Placed × List Nat)) : State :=
  if it.nbSize = 0 then s
  else
    let gs := unit.flatMap (·.2)
    let p : Placed := (unit.headD ((0, []), [])).1
    let core := (p.2.headD { core := 0, first := 0, count := 0 }).core
    s.makeBars 3 (dieOfCore core) l it.ctx (p.1 / it.nbSize + 1) (it.f 172 169) (it.f 223 216) gs.length gs

/-- Place the cohorts of a unit, each with the keys of its strands. -/
def State.placeCohorts (s : State) (l : Nat) (it : LaunchItem) (segsOf : Placed → List (Nat × Nat)) (win : DWord) :
    List Placed → State × List (Placed × List Nat)
  | [] => (s, [])
  | p :: rest =>
    let base := s.cohortInfo it p.1 (segsOf p) win
    let r := p.2.foldl (fun (r : State × List (Half × List Nat)) h =>
      let x := r.1.placeHalf l it p.1 base h
      (x.1, r.2 ++ [(h, x.2)])) (s, [])
    let s := r.1.cohortBars l it p.1 r.2
    let s := s.useBlocks (if it.f 142 138 = 0 then [] else segsOf p) (r.2.flatMap (·.2))
    let more := s.placeCohorts l it segsOf win rest
    (more.1, (p, r.2.flatMap (·.2)) :: more.2)

/-- R377. Every other member has been heard from. -/
def LaunchItem.heard (it : LaunchItem) : Bool := it.peers.length + it.differ.length + 1 == it.f 362 352

/-- R377, R378. A frame goes to the members of a gang: those that have been heard from, once all have. DESIGN CHOICE (log
152): until then, to every package of the pod configuration, since the command gives their number only. -/
def State.gangSend (s : State) (it : LaunchItem) (f : PodFrame) : State :=
  (if it.heard then it.peers ++ it.differ else s.pkg.routes.map (·.1)).foldl (fun (s : State) p => s.sendPod p f) s

/-- R377, R378. A launch has a further unit placed; a gang member that has all of them sends READY. -/
def State.unitPlaced (s : State) (l n : Nat) : State :=
  match s.launch? l with
  | none => s
  | some it =>
    let it := { it with next := it.next + n, blocking := false, firstAt := some (it.firstAt.getD (s.ctxTime it.ctx)) }
    let ready := it.f 147 147 = 1 ∧ it.cohorts ≤ it.next
    let it := if ready then { it with ready := it.ready ++ [s.pkg.num] } else it
    let s := ({ s with launches := s.launches.insert l it } : State).freeBars l it
    if ready then s.gangSend it (.gangReady l) else s

/-- R13, R163, R170, R322. Allot a unit of a launch whole. -/
def State.placeUnit (s : State) (l : Nat) (it : LaunchItem) (unit : List Placed) : State :=
  let lg := it.f 142 138
  let segs (h : Half) : Nat × Nat := (h.core, h.off)
  let all := unit.flatMap (fun p => p.2.map segs)
  let win := s.newWindow
  let s := s.stepFree.dropReservations (fun r => r.order == it.order)
  let s := (unit.flatMap (·.2)).foldl (fun (s : State) h => s.allotBlock h.core h.off lg it.ctx) s
  let segsOf (p : Placed) : List (Nat × Nat) := if it.nbSize = 0 then p.2.map segs else all
  let r := s.placeCohorts l it segsOf win unit
  (r.1.neighbourBars l it r.2).unitPlaced l unit.length

/-! ### Tasks (R331, R332) -/

/-- R332. The places a task may take: every quarter of the partition where its footprint fits. -/
def State.taskPlaces (s : State) (ctx : Nat) (it : TaskItem) : List ((Nat × Nat) × Claims) :=
  let part := (s.ctx ctx).part
  let f := taskFoot it.bytes
  let cores := ((s.part part).quads.flatMap coresOfQuad).filter (s.coreServes part)
  if s.nsf ctx < (s.ctx ctx).frames.length + (if it.prior.isSome then 0 else 1) then []
  else
    cores.flatMap (fun c =>
      match s.spadPlan c f.splog (s.holdsReservation c it.order f.splog) with
      | none => []
      | some (o, k) => (List.range 4).filterMap (fun i => (s.quarterPlan (4 * c + i) 1 f).map (fun l => ((4 * c + i, o), l ++ k))))

/-- R332, R383. Where a task goes: any of the places that write out the fewest bytes, which the spec leaves open. -/
def State.taskPlan (s : State) (ctx : Nat) (it : TaskItem) : Option ((Nat × Nat) × Claims) :=
  match s.cheapest (s.taskPlaces ctx it) with
  | none => none
  | some x =>
    let l := (s.taskPlaces ctx it).filter (fun y => s.planBytes y.2 == s.planBytes x.2)
    l[Config.pick s.free % l.length]?

/-- R249, R252, R262, R331. Dispatch a task on a quarter with its block at an offset. -/
def State.placeTask (s : State) (ctx : Nat) (it : TaskItem) (q off : Nat) : State :=
  let f := taskFoot it.bytes
  let core := coreOfQuarter q
  let has : Bool := f.splog != 0
  let info : StrandInfo :=
    { ctx := ctx, part := (s.ctx ctx).part, work := .task it.id, live := 0xFFFFFFFF#32, spBase := if has then off else 0,
      winBase := if has then s.newWindow else 0, segs := if has then [(core, off)] else [],
      entry := BitVec.ofNat 64 (recField it.bytes 63 0), args := argWords it.bytes 32, depth := recField it.bytes 88 85,
      setCount := recField it.bytes 84 82, setPtr := recField it.bytes 191 128, order := it.order }
  let s := (s.stepFree.dropReservations (fun r => r.order == it.order)).allotBlock core off f.splog ctx
  let r := s.placeStrand q info f it.prior
  let s := r.1.useBlocks info.segs [r.2]
  let go (x : TaskItem) : TaskItem := if x.id = it.id then { x with running := true, blocking := false, prior := none } else x
  let s := s.modCtx ctx (fun c => { c with tasks := c.tasks.map go })
  let s := s.readSets r.2
  match it.prior with
  | none => s
  | some p =>
    let again (a : SetState) : SetState :=
      { a with restarts := p.restarts, reason := p.reason, serialised := p.serialised, retryAt := p.retryAt }
    (s.modStrand r.2 (fun t => { t with aset := again t.aset })).restart r.2

/-! ### The order (R381) -/

/-- An item that a context could have placed, with its order number. -/
inductive Item where
  | unit (l : Nat) (it : LaunchItem) (p : List Placed)
  | task (it : TaskItem) (q off : Nat)
  deriving Repr

/-- R381. The oldest launch of a context that still has unplaced cohorts. -/
def State.headLaunch (s : State) (ctx : Nat) : Option (Nat × LaunchItem) :=
  (s.launches.filter (fun x => x.2.ctx == ctx && (x.2.state == .queued || x.2.next < x.2.cohorts))).foldl
    (fun (b : Option (Nat × LaunchItem)) x =>
      match b with
      | none => some x
      | some y => if x.2.order < y.2.order then some x else some y) none

/-- R332. The tasks of a context that wait, oldest first; nothing later than a blocking record follows it. -/
def upToBlocking : List TaskItem → List TaskItem
  | [] => []
  | x :: l => if x.blocking then [x] else x :: upToBlocking l
/-- R262, R332. The order of a task queue: a rolled-back task stands ahead of every task younger than it, and one that has
not been dispatched yet is younger than any that has. -/
def TaskItem.before (a b : TaskItem) : Bool :=
  match a.prior, b.prior with
  | some x, some y => (x.stamp - y.stamp).toInt ≤ 0
  | some _, none => true
  | none, some _ => false
  | none, none => a.order ≤ b.order
def State.waitingTasks (s : State) (ctx : Nat) : List TaskItem :=
  upToBlocking (sortBy TaskItem.before ((s.ctx ctx).tasks.filter (fun x => !x.running)))

/-- R381. The head item of a context that fits, with what it claims: the earlier-enqueued of its oldest unfinished launch
and its oldest fitting record, nothing standing behind an item that blocks. -/
def State.headItem (s : State) (ctx : Nat) : Option (Item × Claims) :=
  let launch : Option (Nat × Bool × Option (Item × Claims)) :=
    match s.headLaunch ctx with
    | none => none
    | some (l, it) =>
      if it.state != .checked then some (it.order, it.blocking, none)
      else some (it.order, it.blocking, (s.launchPlan l it).map (fun p => (.unit l it p.1, p.2)))
  let tasks := s.waitingTasks ctx
  let task (before : Nat → Bool) : Option (Nat × Item × Claims) :=
    (tasks.filter (fun x => before x.order)).findSome? (fun x =>
      (s.taskPlan ctx x).map (fun p => (x.order, .task x p.1.1 p.1.2, p.2)))
  let blockedBefore (o : Nat) : Bool := tasks.any (fun x => x.blocking && x.order < o)
  match launch with
  | none => (task (fun _ => true)).map (·.2)
  | some (o, blocking, plan) =>
    let early := task (fun x => x < o)
    match early, plan with
    | some t, _ => some t.2
    | none, some p => if blockedBefore o then none else some p
    | none, none => if blocking then none else (task (fun _ => true)).map (·.2)

/-- The contexts of a partition that may place work now: running, and not waiting for units that they have claimed. -/
def State.placers (s : State) (part : Nat) : List (Nat × Ctx) :=
  s.ctxs.filter (fun x => x.2.part == part && x.2.state == .running && !s.claims.any (fun c => c.claimer == x.1))

/-- R381 step 1. The context with the greatest deficit among those whose head item fits, ties to the lowest number. -/
def State.pickItem (s : State) (part : Nat) : Option (Nat × Item × Claims) :=
  ((s.placers part).filterMap (fun x => (s.headItem x.1).map (fun i => (x.2.deficit, x.1, i)))).foldl
    (fun (b : Option (Int × Nat × Item × Claims)) x =>
      match b with
      | none => some x
      | some y => if y.1 < x.1 then some x else some y) none |>.map (·.2)

/-- DISPATCH_PLACEMENT. -/
def execDispatchPlacement (part : Nat) (s : State) : Host.Outcome State Fault Refusal :=
  match s.pickItem part with
  | none => .next s
  | some (ctx, item, claims) =>
    if !claims.isEmpty then .next (s.beginClaims ctx claims)
    else
      let s : State := match item with
        | .unit l it p => s.placeUnit l it p
        | .task it q off => s.stepFree.placeTask ctx it q off
      let s := match s.headLaunch ctx with
        | some (_, it) => if it.state = LaunchState.queued then s.dueOnce (.launchCommandCheck ctx) else s
        | none => s
      .next (s.dueOnce (.dispatchPlacement part))

/-- DISPATCH_PASSOVER_BLOCK: an item that has been passed over for 1 ms blocks later ones of its context. -/
def execDispatchPassoverBlock (ctx item : Nat) (s : State) : Host.Outcome State Fault Refusal :=
  let bar (x : TaskItem) : TaskItem := if x.id = item ∧ !x.running then { x with blocking := true } else x
  .next { s with
    ctxs := s.ctxs.map (fun (x : Nat × Ctx) => (x.1, if x.1 = ctx then { x.2 with tasks := x.2.tasks.map bar } else x.2)),
    launches := s.launches.map (fun (x : Nat × LaunchItem) =>
      (x.1, if x.1 = item ∧ x.2.ctx = ctx then { x.2 with blocking := true } else x.2)) }

/-- SCRATCHPAD_RESERVATION: a request that has waited 100 µs on a core reserves a range for the earliest-enqueued item of
its size (R165). -/
def execScratchpadReservation (core lg : Nat) (s : State) : Host.Outcome State Fault Refusal :=
  let c := s.core core
  match c.reserved, s.partOfCore core with
  | none, some part =>
    let wants (ctx : Nat) : List Nat :=
      (match s.headLaunch ctx with
       | some (_, it) => if it.state = .checked ∧ it.f 142 138 = lg then [it.order] else []
       | none => [])
        ++ ((s.waitingTasks ctx).filter (fun x => recField x.bytes 78 74 == lg)).map (·.order)
    let asks : List (Nat × Nat) :=
      (s.ctxs.filter (fun x => x.2.part == part && x.2.state == .running)).flatMap (fun x => (wants x.1).map (fun o => (o, x.1)))
    let stuck (b : SpBlock) : Bool := b.exitPending || b.users.any (fun g => (s.strand g).state == .halted)
    let range := ((List.range (2 ^ (21 - lg))).map (fun i => i * 2 ^ lg)).find? (fun o =>
      c.blocks.all (fun b => !(rangesMeet b.off (2 ^ b.lg) o (2 ^ lg) && stuck b)))
    (match asks.foldl (fun (b : Option (Nat × Nat)) x => match b with | none => some x | some y => if x.1 < y.1 then some x else some y) none,
        range with
     | some a, some o =>
       if 10 ≤ lg ∧ lg ≤ 21 then
         .next (s.setCore core { c with reserved := some { off := o, lg := lg, ctx := a.2, order := a.1 } })
       else .next s
     | _, _ => .next s)
  | _, _ => .next s

end Sys2Proof.Machine
end

