-- ==== Sys2Proof/Machine/Launch.lean ====
section
/-!
DEFINITION. Launch commands and gangs (R370 to R372, R376 to R379).
-/

namespace Sys2Proof.Machine

/-! ### The check of a command (R370, R372) -/

/-- The join-mode bits of a scope lie below its barrier count. -/
def joinOk (bits n : Nat) : Bool := bits < 2 ^ n

/-- R370, R372. Every field lies in its range, the reserved bits are zero, and the fields agree. -/
def LaunchItem.commandOk (l : LaunchItem) : Bool :=
  let f := l.f
  let within (x lo hi : Nat) : Bool := lo ≤ x && x ≤ hi
  pcValid (BitVec.ofNat 64 (f 63 0)) && 1 ≤ f 79 64 && 1 ≤ f 95 80 && 1 ≤ f 111 96 && within l.nstr 1 256
    && within (f 126 121) 1 32 && f 127 127 == 0 && within (f 132 128) 1 16 && within (f 137 133) 1 16
    && (f 142 138 == 0 || within (f 142 138) 10 21) && f 145 143 ≤ 4 && f 151 148 ≤ 8 && f 154 152 ≤ 4 && f 159 155 == 0
    && f 164 160 ≤ 16 && f 168 165 ≤ 8 && f 172 169 ≤ 8 && f 175 173 ≤ 4 && f 177 176 ≤ 2 && f 191 178 == 0
    && joinOk (f 207 192) (f 164 160) && joinOk (f 215 208) (f 168 165) && joinOk (f 223 216) (f 172 169)
    && joinOk (f 227 224) (f 175 173) && joinOk (f 229 228) (f 177 176) && f 239 230 == 0
    && (f 146 146 == 1 || f 319 256 == 0) && f 383 363 == 0 && f 1023 768 == 0
    && (if f 147 147 = 1 then within (f 362 352) 1 1024 else f 511 320 == 0 && f 177 176 == 0)
    && (f 151 148 == 0) == (f 154 152 == 0) && l.nbSize ≤ 24 && (l.nbSize == 0 || l.nstr ≤ 128)
    && (l.nbSize == 0 || l.cohorts % l.nbSize == 0) && !(f 146 146 == 1 && f 319 256 == 0)

/-- Why the dispatcher cannot read a byte: no translation or permission gives it, its bytes are bad, or it lies on a host page
that awaits its answer (R196). -/
inductive ReadStop where
  | bad
  | page (n : Nat)
  deriving DecidableEq, Repr

/-- R370. A byte read through a context's translation root with permission R. -/
def State.readVirt (s : State) (ctx va : Nat) : Except ReadStop Byte :=
  if !canonical va then .error .bad
  else
    match (s.walk ctx va).1 with
    | .error _ => .error .bad
    | .ok e =>
      if (denied e .load).isSome then .error .bad
      else
        match s.place 0 e va with
        | .ok p => .ok (s.memByte p)
        | .host n => .error (.page n)
        | _ => .error .bad

/-- Bytes read in the same way; the first that cannot be read stops it. -/
def State.readVirts (s : State) (ctx va : Nat) : Nat → Except ReadStop (List Byte)
  | 0 => .ok []
  | n + 1 =>
    match s.readVirt ctx va with
    | .error e => .error e
    | .ok b => (s.readVirts ctx (va + 1) n).map (b :: ·)

/-- R376. An entry of a placement map. DESIGN CHOICE (log 114): one with a reserved bit set, which R376 says must be zero and its
conditions do not list, is not legal, since no strand is there to take the trap of R3. -/
def mapEntryOk (quads : List Nat) (big : Bool) (w : Word) : Bool :=
  let a := bitsOf w.toNat 8 0
  let b := bitsOf w.toNat 24 16
  bitsOf w.toNat 15 9 == 0 && bitsOf w.toNat 31 25 == 0 && quads.contains (globalQuad a)
    && (if big then a < b && b != 0x1FF && globalQuad a == globalQuad b else b == 0x1FF)

/-- R375, R376. The members of a neighbourhood lie on a rectangle of one die. -/
def onRectangle (w h : Nat) (cores : List Nat) : Bool :=
  let c := cores.headD 0
  rowOfCore c + h ≤ 4 && colOfCore c + w ≤ 8 && cores == rectangle (dieOfCore c) w h (rowOfCore c) (colOfCore c)

/-- R376. The map is legal. -/
def State.mapOk (s : State) (it : LaunchItem) (m : List Word) : Bool :=
  let quads := (s.part (s.ctx it.ctx).part).quads
  m.all (mapEntryOk quads (128 < it.nstr))
    && (it.nbSize == 0 || (chunksOf it.nbSize m.length m).all (fun x =>
          onRectangle (it.f 151 148) (it.f 154 152) (x.map (fun e => bitsOf e.toNat 8 0))))

/-- R379. A group of the collective table: its timeout and members in rank order. -/
def State.readGroup (s : State) (it : LaunchItem) (g : Nat) : Except ReadStop (Nat × List (Nat × Nat × Nat)) :=
  match s.readVirts it.ctx (it.f 511 448 + 16 * g) 16 with
  | .error e => .error e
  | .ok e =>
    let v := leNat e
    let n := bitsOf v 15 0
    if bitsOf v 63 30 ≠ 0 || 1024 < n || (n ≠ 0 && !(1 ≤ bitsOf v 29 16 && bitsOf v 29 16 ≤ 10000)) then .error .bad
    else
      match s.readVirts it.ctx (bitsOf v 127 64) (8 * n) with
      | .error e => .error e
      | .ok l =>
        let ms := (chunksOf 8 n l).map leNat
        if ms.all (fun m => bitsOf m 63 50 == 0 && bitsOf m 31 0 < it.cohorts && bitsOf m 39 32 < it.nstr) then
          .ok (bitsOf v 29 16, ms.map (fun m => (bitsOf m 31 0, bitsOf m 39 32, bitsOf m 49 40)))
        else .error .bad

/-- The results of a list of readings, or the first stop among them. -/
def allRead {α : Type} : List (Except ReadStop α) → Except ReadStop (List α)
  | [] => .ok []
  | .error e :: _ => .error e
  | .ok a :: l => (allRead l).map (a :: ·)

/-- R379. The sixteen groups. -/
def State.readTable (s : State) (it : LaunchItem) : Except ReadStop (List (Nat × List (Nat × Nat × Nat))) :=
  if it.f 511 448 = 0 then .ok [] else allRead ((List.range 16).map (s.readGroup it))

/-- The placement map as the dispatcher reads it. -/
def State.readMap (s : State) (it : LaunchItem) : Except ReadStop (List Word) :=
  if it.f 146 146 = 0 then .ok []
  else
    match s.readVirts it.ctx (it.f 319 256) (4 * it.cohorts) with
    | .error e => .error e
    | .ok b => let m := wordsOf b; if s.mapOk it m then .ok m else .error .bad

/-- The next command of a context's launch queue is to be checked. -/
def State.nextCheck (s : State) (ctx : Nat) : State :=
  match s.headLaunch ctx with
  | some (_, it) => if it.state = LaunchState.queued then s.dueOnce (.launchCommandCheck ctx) else s
  | none => s

/-- R378. Return what a launch has been allotted; it completes with a status. -/
def State.failLaunch (s : State) (l status : Nat) : State :=
  match s.launch? l with
  | none => s
  | some it =>
    let gs := (s.strands.filter (fun x => x.2.resident && x.2.inLaunch l)).map (·.1)
    (gs.foldl (fun (s : State) g => s.reclaim g) (s.endLaunch l status)).nextCheck it.ctx

/-- R378. The gang aborts: the other members are told, and the launch fails. -/
def State.abortGang (s : State) (l : Nat) (status : Nat := 3) : State :=
  match s.launch? l with
  | none => s
  | some it => (s.gangSend it (.gangAbort l)).failLaunch l status

/-- R377, R378. A good command is ready to be placed; a gang member sends its GANGID and TICK. -/
def State.acceptLaunch (s : State) (l : Nat) (it : LaunchItem) (m : List Word) (coll : List (Nat × List (Nat × Nat × Nat))) : State :=
  let gang : Bool := it.f 147 147 == 1
  let it := { it with state := .checked, map := m, started := !gang, coll := coll.map (·.2), collTimeout := coll.map (·.1) }
  let s : State := { s with launches := s.launches.insert l it }
  let s := if gang then s.gangSend it (.gangFields l (BitVec.ofNat 32 (it.f 351 320)) (BitVec.ofNat 64 (it.f 447 384))) else s
  s.dueOnce (.dispatchPlacement (s.ctx it.ctx).part)

/-- R196, R370. What the check does about a table that it has not read: a bad one, or one on a host page that the host refuses,
ends the launch with a status; a host page without an answer is asked for, and the check is made again when it has come. -/
def State.checkStopped (s : State) (l : Nat) (it : LaunchItem) (status : Nat) (e : ReadStop) : State :=
  let fail (s : State) : State := (s.endLaunch l status).nextCheck it.ctx
  match e with
  | .bad => fail s
  | .page n =>
    let a : AskItem := { who := .launch l, ctx := it.ctx, host := true, page := n }
    match s.takeAnswer 0 a with
    | some (s, _) => fail s
    | none => (s.atsAsk 0 it.ctx n).listAsk 0 a

/-- LAUNCH_COMMAND_CHECK: the command at the head of a context's launch queue. -/
def execLaunchCommandCheck (ctx : Nat) (s : State) : Host.Outcome State Fault Refusal :=
  match s.headLaunch ctx with
  | none => .next s
  | some (l, it) =>
    if it.state ≠ LaunchState.queued then .next s
    else if !it.commandOk then .next ((s.endLaunch l 1).nextCheck ctx)
    else if it.f 147 147 = 1 ∧ it.f 447 384 ≤ s.podTime.toNat then .next (s.abortGang l)
    else
      match s.readMap it, s.readTable it with
      | .error e, _ => .next (s.checkStopped l it 2 e)
      | _, .error e => .next (s.checkStopped l it 1 e)
      | .ok m, .ok t => .next (s.acceptLaunch l it m t)

/-! ### Gangs (R377, R378) -/

/-- Change a launch. -/
def State.modLaunch (s : State) (l : Nat) (f : LaunchItem → LaunchItem) : State :=
  match s.launch? l with
  | none => s
  | some it => { s with launches := s.launches.insert l (f it) }

/-- R377. Once every member has been heard from, the gang's coordinator is known: a member whose fields differ from the
coordinator's fails with BAD_COMMAND, and one that agrees with it aborts when some other member does not. -/
def State.settleFields (s : State) (l : Nat) : State :=
  match s.launch? l with
  | none => s
  | some it =>
    if !it.heard || it.differ.isEmpty then s
    else
      let first := (it.peers ++ it.differ).foldl min s.pkg.num
      s.abortGang l (if it.differ.contains first then 1 else 3)

/-- GANG_FIELDS_MESSAGE: another member's fields come. -/
def execGangFieldsMessage (launch pkg : Nat) (gangId : BitVec 32) (tick : BitVec 64) (s : State) :
    Host.Outcome State Fault Refusal :=
  let note (x : LaunchItem) : LaunchItem :=
    let same : Bool := x.f 351 320 == gangId.toNat && x.f 447 384 == tick.toNat
    { x with peers := x.peers.filter (· != pkg) ++ (if same then [pkg] else []),
             differ := x.differ.filter (· != pkg) ++ (if same then [] else [pkg]) }
  .next ((s.modLaunch launch note).settleFields launch)

/-- GANG_READY: the coordinator receives READY. -/
def execGangReady (launch pkg : Nat) (s : State) : Host.Outcome State Fault Refusal :=
  .next (s.modLaunch launch (fun x => { x with ready := x.ready.filter (· != pkg) ++ [pkg] }))

/-- R377. This package has the lowest number of the members, all of which it has heard from. -/
def State.coordinates (s : State) (it : LaunchItem) : Bool := it.heard && (it.peers ++ it.differ).all (fun p => s.pkg.num < p)

/-- GANG_GO_CHECK: at TICK − 20 µs the coordinator sends GO when every member is ready, and ABORT otherwise. -/
def execGangGoCheck (launch : Nat) (s : State) : Host.Outcome State Fault Refusal :=
  match s.launch? launch with
  | none => .next s
  | some it =>
    if it.f 147 147 = 0 || !s.coordinates it then .next s
    else if it.ready.eraseDups.length = it.f 362 352 then
      .next ((s.modLaunch launch (fun x => { x with go := true })).gangSend it (.gangGo launch))
    else .next (s.abortGang launch)

/-- GANG_GO. -/
def execGangGo (launch : Nat) (s : State) : Host.Outcome State Fault Refusal :=
  .next (s.modLaunch launch (fun x => { x with go := true }))

/-- GANG_TICK: at TICK the strands of a member that has GO may issue; one without it aborts. -/
def execGangTick (launch : Nat) (s : State) : Host.Outcome State Fault Refusal :=
  match s.launch? launch with
  | none => .next s
  | some it =>
    if it.f 147 147 = 0 || it.started then .next s
    else if it.go then .next (s.modLaunch launch (fun x => { x with started := true }))
    else .next (s.abortGang launch)

end Sys2Proof.Machine
end

