-- ==== Sys2Proof/Machine/Rings.lean ====
section
/-!
DEFINITION. Queue interfaces (R401 to R407, R410): the control block and its doorbells, LOCK, START and STOP, the fetch
of entries, and the rings that the device fills: error logs and meter batches.
-/

namespace Sys2Proof.Machine

/-! ### The control block (R401) -/

/-- R401. The privileged fields of a control block, bits 191:0. -/
def Iface.privileged (f : Iface) : BitVec 192 :=
  BitVec.ofNat 192 (f.ring.toNat + f.cpl.toNat * 2 ^ 64 + f.lsize * 2 ^ 128 + f.esz * 2 ^ 132 + f.kind * 2 ^ 133
    + f.pasid * 2 ^ 136 + f.ctx * 2 ^ 156 + f.vector * 2 ^ 168)

/-- R401. The 512 bits of a control block. -/
def Iface.block (f : Iface) : Nat :=
  let st := match f.state with | .unlocked => 0 | .locked => 1 | .run => 2 | .error => 3
  f.privileged.toNat + f.tail.toNat * 2 ^ 192 + f.head.toNat * 2 ^ 224 + st * 2 ^ 256 + f.err * 2 ^ 260
    + f.cplTail.toNat * 2 ^ 288

/-- R399, R401. The control block at an offset in a function's BAR0. -/
def State.blockAt (s : State) (fn off : Nat) : Option (Nat × Iface) :=
  List.find? (fun (x : Nat × Iface) => x.2.func == fn && 0x10000 + 64 * x.2.index == off) s.ifaces

/-- R400, R401. The context that an interface names is the one the PF has assigned it to, of its function. -/
def State.ifaceCtxOk (s : State) (f : Iface) : Bool :=
  f.serves == some f.ctx && (s.ctxs.find? f.ctx).isSome && (s.ctx f.ctx).func == f.func

/-- R399, R401, R407, R410. The values that a LOCK accepts. Meter rings are the PF's, and so is the operator's error log, which
names no context. -/
def State.ifaceValid (s : State) (f : Iface) : Bool :=
  f.ring.toNat % 4096 == 0 && f.cpl.toNat % 4096 == 0 && 4 ≤ f.lsize
    && (match f.kind with
        | 0 => f.esz == 1 && s.ifaceCtxOk f
        | 1 => f.esz == 0 && s.ifaceCtxOk f
        | 2 => f.esz == 1 && 9 ≤ f.lsize && f.cpl == 0 && f.func == 0
        | 3 => f.esz == 1 && f.cpl == 0 && (s.ifaceCtxOk f || (f.serves.isNone && f.func == 0))
        | _ => false)

/-- R404. A write to a privileged field of an unlocked block. -/
def Iface.writeField (f : Iface) (x : QcbField) (v : BitVec 64) : Iface :=
  let n := v.toNat
  match x with
  | .ringBase => { f with ring := v }
  | .cplBase => { f with cpl := v }
  | .lsize => { f with lsize := n % 16 }
  | .esz => { f with esz := n % 2 }
  | .kind => { f with kind := n % 8 }
  | .pasid => { f with pasid := n % 2 ^ 20 }
  | .ctx => { f with ctx := n % 4096 }
  | .vector => { f with vector := n % 2048 }
  | .tail => { f with tail := BitVec.ofNat 32 n }
  | .head => { f with head := BitVec.ofNat 32 n }
  | .assigned => { f with func := n % 64, index := bitsOf n 17 6, serves := if bitsOf n 30 30 = 1 then some (bitsOf n 29 18) else none }

/-! ### Doorbells (R403, R405) -/

/-- R401. The guest or host produces the index TAIL for KIND 0 and 1, and HEAD for KIND 2 and 3. -/
def Iface.guestProduces (f : Iface) : Bool := f.kind ≤ 1

/-- R405. The write n of the producer's index is accepted. It never moves the index by more than the ring's size, and the
host's HEAD never passes TAIL. -/
def Iface.accepts (f : Iface) (n : Word) : Bool :=
  if f.guestProduces then (n - f.tail).toNat + (f.tail - f.head).toNat ≤ f.size
  else (n - f.head).toNat ≤ min f.size (f.tail - f.head).toNat

/-- The producer's index. -/
def Iface.setProducer (f : Iface) (n : Word) : Iface := if f.guestProduces then { f with tail := n } else { f with head := n }

/-- R403, R405. A write of the producer's index: as written while unlocked, a doorbell in RUN, and nothing otherwise. -/
def State.writeProducer (s : State) (i : Nat) (n : Word) : State :=
  let f := s.iface i
  if (s.func f.func).resetting then s
  else
    match f.state with
    | .unlocked => s.setIface i (f.setProducer n)
    | .locked | .error => s
    | .run =>
      if f.accepts n then (s.setIface i (f.setProducer n)).kickIface i
      else s.ifaceError i (if f.guestProduces then 1 else 2)

/-- DOORBELL. -/
def execDoorbell (i : Nat) (n : BitVec 32) (s : State) : Host.Outcome State Fault Refusal :=
  .next (if i < 4096 then s.writeProducer i n else s)

/-- QUEUE_CONTROL_BLOCK_WRITE: privileged fields and either index while unlocked; in RUN the producer's index is a
doorbell; every other write has no effect. -/
def execQueueControlBlockWrite (i : Nat) (x : QcbField) (v : BitVec 64) (s : State) : Host.Outcome State Fault Refusal :=
  let f := s.iface i
  .next (if 4096 ≤ i then s
    else if f.state = .unlocked then s.setIface i (f.writeField x v)
    else
      match x, f.guestProduces with
      | .tail, true | .head, false => s.writeProducer i (BitVec.ofNat 32 v.toNat)
      | _, _ => s)

/-! ### LOCK, START and STOP (R402 to R404, R418) -/

/-- R418. The bytes that measurement blocks 4 to 6 of a function cover: its interfaces as sealed, its contexts, and the
gate table entries that name its contexts. -/
def State.measuredBytes (s : State) (fn block : Nat) : List Byte :=
  match block with
  | 4 => (s.ifaces.filter (fun x => x.2.func == fn && x.2.attested.isSome)).flatMap (fun x => natLe 2 x.1 ++ natLe 24 x.2.latched.toNat)
  | 5 => (s.ctxs.filter (fun x => x.2.func == fn)).flatMap (fun x =>
      natLe 2 x.1 ++ natLe 1 x.2.part ++ natLe 1 (x.2.comp.toNat + 2 * x.2.prot.toNat) ++ x.2.keys.flatMap (natLe 2))
  | _ =>
    let base := Config.gateTableBase
    let gates := ((s.hbm.filter (fun c => base ≤ c.1 && c.1 < base + 64 * 65536)).map (fun c => (c.1 - base) / 64)).eraseDups
    let mine (g : Nat) : Bool := (s.ctx (s.hbmNat (base + 64 * g + 1) 2 % 4096)).func == fn
      && (s.ctxs.find? (s.hbmNat (base + 64 * g + 1) 2 % 4096)).isSome
    (gates.filter mine).flatMap (fun g => natLe 2 g ++ s.memBytes { host := false, addr := base + 64 * g } 64)

/-- R418. Seal blocks 4 to 6. -/
def State.sealFunc (s : State) (fn : Nat) : State :=
  s.modFunc fn (fun f => { f with meas := [(4, Config.digest (s.measuredBytes fn 4)), (5, Config.digest (s.measuredBytes fn 5)),
                                           (6, Config.digest (s.measuredBytes fn 6))] })

/-- R402, R418. The attach: the fields are latched and measured, and ERR becomes none. From the attach of the function's last
interface on, the function is sealed. -/
def State.attach (s : State) (i : Nat) (shadow : BitVec 192) : State :=
  let f := s.iface i
  let s := s.setIface i { f with state := .locked, err := 0, latched := shadow,
                                 attested := some (Config.digest (natLe 24 shadow.toNat)) }
  if (s.func f.func).meas.isEmpty && s.ifaces.any (fun x => x.2.func == f.func && x.2.attested.isNone) then s else s.sealFunc f.func

/-- R408. The PF, whose mailbox carries the commands on interfaces and contexts, or another function is being reset. -/
def State.shut (s : State) (fn : Nat) : Bool := (s.func 0).resetting || (s.func fn).resetting

/-- LOCK. The mailbox answers 0, or 1 when the command is refused. A block that does not match, or holds an invalid value, shows
what it last latched from then on (R404). -/
def execLock (i : Nat) (shadow : BitVec 192) (s : State) : Host.Outcome State Fault Refusal :=
  let f := s.iface i
  .next (if 4096 ≤ i || f.state != .unlocked || s.shut f.func then s.send (.mailbox 0 1)
    else if f.privileged = shadow ∧ s.ifaceValid f then (s.attach i shadow).send (.mailbox 0 0)
    else ((s.setIface i (f.withPrivileged f.latched)).ifaceError i 3).send (.mailbox 0 0))

/-- START: a locked interface runs, and goes on at HEAD. -/
def execStart (i : Nat) (s : State) : Host.Outcome State Fault Refusal :=
  let f := s.iface i
  .next (if 4096 ≤ i || f.state != .locked || s.shut f.func then s.send (.mailbox 0 1)
    else ((s.setIface i { f with state := .run }).kickIface i).send (.mailbox 0 0))

/-- STOP: the interface is detached, and its latched fields are written back. -/
def execStop (i : Nat) (s : State) : Host.Outcome State Fault Refusal :=
  let f := s.iface i
  .next (if 4096 ≤ i || f.state == .unlocked || (s.func 0).resetting then s.send (.mailbox 0 1)
    else ((s.setIface i { f.withPrivileged f.latched with state := .unlocked }).ringStopped f).send (.mailbox 0 0))

/-! ### Fetching entries (R406) -/

/-- R406. A launch command enters its context's launch queue. -/
def State.fetchLaunch (s : State) (i j ctx : Nat) (bytes : List Byte) : State :=
  let it : LaunchItem := { ctx := ctx, cmd := bytes, iface := some (i, j), order := s.nextId }
  ({ s with launches := s.launches.insert s.nextId it } : State).takeId.dueOnce (.launchCommandCheck ctx)

/-- R332, R406. A task record enters its context's task queue: it is discarded with a log entry when it is not valid,
and the completion says 2 when the queue is full. -/
def State.fetchTask (s : State) (i j ctx : Nat) (bytes : List Byte) : State :=
  let time := s.ctxTime ctx
  if !taskValid bytes then
    (s.addLog ctx (logBytes 4 0 0 ctx 0 s.podTime 0 [])).complete i j 1 time
  else if s.taskQueueFull ctx then s.complete i j 2 time
  else (s.enqueueTask ctx bytes).complete i j 0 time

/-- The interface has an entry to consume. -/
def State.ifaceReady (s : State) (f : Iface) : Bool :=
  f.state == .run && f.guestProduces && f.head != f.tail && !(s.func f.func).resetting && (s.ctxs.find? f.ctx).isSome

/-- QUEUE_INTERFACE_FETCH: the entry at HEAD is read under the interface's PASID, HEAD advances, and the entry takes
effect. A page that ATS has not answered is asked for. -/
def execQueueInterfaceFetch (i : Nat) (s : State) : Host.Outcome State Fault Refusal :=
  let f := s.iface i
  let va := f.entryVa f.head.toNat
  .next (if !s.ifaceReady f then s
    else
      match s.guestPlace f.pasid va with
      | none => s.atsAsk 0 (pasidKey f.pasid) (va / 65536)
      | some p =>
        let bytes := s.memBytes p f.entryBytes
        let s := s.setIface i { f with head := f.head + 1 }
        let s := if f.kind = 0 then s.fetchLaunch i f.head.toNat f.ctx bytes else s.fetchTask i f.head.toNat f.ctx bytes
        s.kickIface i)

/-! ### Rings that the device fills (R407, R410) -/

/-- R410. The oldest kept entry of a log with its count of drops, and the state without it. -/
def State.takeLog (s : State) (log : Nat) : Option (List Byte × State) :=
  let fill (e : List Byte) (d : Nat) : List Byte := natLe 8 (leNat (e.take 8) + d * 2 ^ 52) ++ e.drop 8
  if log = opLogKey then
    match s.pkg.opLog with
    | [] => none
    | e :: l => some (fill e s.pkg.opDrops, { s with pkg := { s.pkg with opLog := l, opDrops := 0 } })
  else
    match (s.ctx log).log with
    | [] => none
    | e :: l => some (fill e (s.ctx log).drops, s.modCtx log (fun c => { c with log := l, drops := 0 }))

/-- R410. The oldest kept entry of a log is written at TAIL when its ring runs and has room. -/
def State.writeLog (s : State) (log : Nat) : State :=
  match s.logIface log, s.takeLog log with
  | some (i, f), some (e, s') =>
    if f.size ≤ f.used then s
    else
      match s.guestPlace f.pasid (f.entryVa f.tail.toNat) with
      | none => s.atsAsk 0 (pasidKey f.pasid) (f.entryVa f.tail.toNat / 65536)
      | some p =>
        let s := (s'.memWrite p e).setIface i { f with tail := f.tail + 1 }
        (s.send (.msix f.func f.vector)).dueOnce (.errorLogEntryWrite log)
  | _, _ => s

/-- ERROR_LOG_ENTRY_WRITE. -/
def execErrorLogEntryWrite (log : Nat) (s : State) : Host.Outcome State Fault Refusal := .next (s.writeLog log)

/-- R410, R411. The entries of a log that can be written are written before its ring stops: up to n. -/
def State.flushLog (s : State) (log : Nat) : Nat → State
  | 0 => s
  | n + 1 => (s.writeLog log).flushLog log n

/-- R407. The places of the entries that a batch takes, or the first page that must be asked for. -/
def State.batchPlaces (s : State) (f : Iface) : Nat → Except Nat (List PAddr)
  | 0 => .ok []
  | n + 1 =>
    match s.batchPlaces f n with
    | .error p => .error p
    | .ok l =>
      let va := f.entryVa (f.tail.toNat + n)
      match s.guestPlace f.pasid va with
      | none => .error (va / 65536)
      | some p => .ok (l ++ [p])

/-- Write a batch's bytes entry by entry. -/
def State.writeBatch (s : State) : List PAddr → List Byte → State
  | [], _ => s
  | p :: l, b => (s.memWrite p ((b ++ natLe (128 - b.length) 0).take 128)).writeBatch l (b.drop 128)

/-- METER_BATCH_WRITE: the oldest kept batch is written from TAIL on when its entries are free, and TAIL then advances
over all of them at once. -/
def execMeterBatchWrite (s : State) : Host.Outcome State Fault Refusal :=
  .next (match List.find? (fun (x : Nat × Iface) => x.2.state == .run && x.2.kind == 2) s.ifaces, s.pkg.batches with
    | some (i, f), b :: rest =>
      let n := (b.length + 127) / 128
      if f.size < f.used + n then s
      else
        match s.batchPlaces f n with
        | .error page => s.atsAsk 0 (pasidKey f.pasid) page
        | .ok ps =>
          let s := (s.writeBatch ps b).setIface i { f with tail := f.tail + BitVec.ofNat 32 n }
          ((({ s with pkg := { s.pkg with batches := rest } } : State).send (.msix f.func f.vector)).send (.meter b)).dueOnce
            .meterBatchWrite
    | _, _ => s)

end Sys2Proof.Machine
end

