-- ==== Sys2Proof/Machine/Tenants.lean ====
section
/-!
DEFINITION. Partitions, contexts and their errors (R385, R391, R398 to R400, R408 to R419): what firmware and the PF
command, context errors, function-level resets, storage errors, keys, reclaim and attestation.
-/

namespace Sys2Proof.Machine

/-- TRAP_ENTRY: the strand takes its outstanding trap (R391). -/
def execTrapEntry (g : Nat) (s : State) : Host.Outcome State Fault Refusal := .next (s.takeTrap g)

/-! ### Partitions and contexts (R398, R400) -/

/-- R398, R433. What firmware may define: quads of trained dies that lie in no other partition. -/
def State.partOk (s : State) (d : PartDef) : Bool :=
  d.part < 64 && d.quads != [] && d.quads.eraseDups == d.quads && d.quads.all (fun q => q < 128 && (s.die (q / 8)).trained)
    && s.parts.all (fun p => p.1 == d.part || p.2.quads.all (fun q => !d.quads.contains q))
    && d.op ≤ d.maxop && d.maxop ≤ 7
    && (match d.holdLimit with | none => true | some h => 1 ≤ h && h ≤ 1000000)
    && s.ctxs.all (fun c => c.2.part != d.part
        || ((c.2.state == .idle || c.2.state == .halted) && !s.anyResident (fun _ t => t.info.ctx == c.1)))

/-- DEFINE_PARTITION: firmware defines or redefines a partition; one that R398 does not allow changes nothing. -/
def execDefinePartition (d : PartDef) (s : State) : Host.Outcome State Fault Refusal :=
  .next (if s.partOk d then
      (s.setPart d.part { quads := d.quads, op := d.op, maxop := d.maxop, holdLimit := d.holdLimit.getD 10000 }).dueOnce
        (.dispatchPlacement d.part)
    else s)

/-- R400. What a create command may name. -/
def State.ctxOk (s : State) (d : CtxDef) : Bool :=
  d.ctx < 4096 && (s.ctxs.find? d.ctx).isNone && d.func < 64 && !s.shut d.func && (s.parts.find? d.part).isSome
    && d.keys.all (fun k => 1 ≤ k && k < 1024) && 16 ≤ d.taskCap && d.taskCap ≤ 65536

/-- R400. A context as it is created: zero but for what the command gives, idle, with context time 0. -/
def newCtx (d : CtxDef) (time : DWord) : Ctx :=
  { func := d.func, part := d.part, root := d.root, keys := d.keys, comp := d.comp, prot := d.prot,
    energyAddr := d.energyAddr, schedAddr := d.schedAddr, trapAddr := d.trapAddr, taskCap := d.taskCap,
    created := time, meterEnd := time, ctoff := time }

/-- CREATE_CONTEXT: the device zeroes the context's state, its scheduling and trap blocks among it. -/
def execCreateContext (d : CtxDef) (s : State) : Host.Outcome State Fault Refusal :=
  .next (if s.ctxOk d then
      let s := s.setCtx d.ctx (newCtx d s.podTime)
      let s := s.memWrite { host := false, addr := d.schedAddr } (natLe 64 0)
      (s.memWrite { host := false, addr := d.trapAddr } (natLe 64 0)).send (.mailbox 0 0)
    else s.send (.mailbox 0 1))

/-- R369, R400. No strand of the context is resident and every charge of its work has landed. -/
def State.ctxQuiet (s : State) (ctx : Nat) : Bool :=
  let mine (w : Work) : Bool := w.ctx == ctx
  !s.anyResident (fun _ t => t.info.ctx == ctx) && !s.loads.any (fun r => mine r.work)
    && s.cores.all (fun c => !c.2.sq.any (fun e => mine e.work) && !c.2.cb.any (fun e => mine e.work)
        && !c.2.creq.any (fun r => mine r.work) && !c.2.remote.any (fun m => mine m.work))
    && s.quarters.all (fun q => !q.2.mq.any (fun m => mine m.work) && !(q.2.unit == .stopping && q.2.lastWork.ctx == ctx))
    && s.dies.all (fun d => !d.2.walks.any (fun w => w.ctx == ctx))
    && !s.colls.any (fun c => c.members.any (fun m => mine m.work)) && !s.claims.any (fun c => c.claimer == ctx)
    && !s.xfers.any (fun x => mine x.work) && s.windowCharge.all (fun x => x.1 % 4096 != ctx || x.2 == 0)

/-- R427. The sessions of a context that is killed or destroyed count no more. -/
def State.endSessions (s : State) (ctx : Nat) : List Session :=
  updWhere (fun (x : Session) => x.ctx == ctx) (fun x => { x with live := false }) s.sessions

/-- The context leaves the package: its queued launches complete with CONTEXT_ERROR, and its purses, draws and reservations go
with it. Its sessions stay readable by the mailbox until CLOSE, and count nothing (R427). -/
def State.dropCtx (s : State) (ctx : Nat) : State :=
  let ls := (s.launches.filter (fun l => l.2.ctx == ctx)).map (·.1)
  let s := (ls.foldl (fun (s : State) l => s.endLaunch l 4) s).dropReservations (fun r => r.ctx == ctx)
  { s with
    ctxs := s.ctxs.erase ctx,
    quarters := s.quarters.map (fun (q : Nat × QuarterSt) => (q.1, { q.2 with purses := q.2.purses.erase ctx, defs := q.2.defs.erase ctx })),
    draws := s.draws.filter (fun d => d.2 != ctx),
    sessions := s.endSessions ctx }

/-- DESTROY_CONTEXT. -/
def execDestroyContext (ctx : Nat) (s : State) : Host.Outcome State Fault Refusal :=
  .next (if (s.ctxs.find? ctx).isSome && s.ctxQuiet ctx && !(s.func 0).resetting then (s.dropCtx ctx).send (.mailbox 0 0) else s.send (.mailbox 0 1))

/-! ### Context errors (R385, R411) -/

/-- R411. The launches of a killed context complete with CONTEXT_ERROR; the other members of a gang are told. -/
def State.killLaunches (s : State) (ctx : Nat) : State :=
  (s.launches.filter (fun l => l.2.ctx == ctx)).foldl (fun (s : State) l =>
    let s := if l.2.f 147 147 = 1 then s.gangSend l.2 (.gangLost l.1) else s
    s.endLaunch l.1 4) s

/-- R402, R411. The running interfaces of a killed context go to ERROR. -/
def State.killIfaces (s : State) (ctx : Nat) : State :=
  (s.ifaces.filter (fun f => f.2.state == .run && f.2.kind != 2 && f.2.ctx == ctx)).foldl
    (fun (s : State) f => s.ifaceError f.1 5) s

/-- R382, R411. A switch that waited for the halt of a killed context goes on; one that would resume it does not. -/
def State.killSwitch (s : State) (ctx part : Nat) (halting : Bool) : State :=
  match (s.part part).incoming with
  | none => s
  | some i =>
    if i = ctx then s.modPart part (fun p => { p with incoming := none })
    else if halting then (s.modPart part (fun p => { p with incoming := none })).resumeContext i
    else s

/-- R411. A context error kills a context: strands end without handlers (R396), launches complete, STATE becomes error, and
interfaces stop, once the entries that its log's ring has room for are written. -/
def State.killContext (s : State) (ctx code : Nat) : State :=
  let c := s.ctx ctx
  if (s.ctxs.find? ctx).isNone || c.state == .error then s
  else
    let s := s.modCtx ctx (fun c => { c with state := .error, tasks := [], pausedAt := none })
    let s := s.killLaunches ctx
    let s := (s.strandsOf ctx).foldl (fun (s : State) x => s.terminate x.1 0 0) s
    let s := s.addLog ctx (logBytes 2 code 0 ctx 0 s.podTime 0 [])
    let s := (s.flushLog ctx (s.ctx ctx).log.length).killIfaces ctx
    let s : State := { s with sessions := s.endSessions ctx }
    let s := ({ s with claims := s.claims.filter (fun x => x.claimer != ctx) } : State).dropReservations (fun r => r.ctx == ctx)
    s.killSwitch ctx c.part (c.state == .halting)

/-- R256. The strand waits for a granule that a strand of another context holds. -/
def State.waitsForeign (s : State) (g : Nat) : Bool :=
  s.slices.any (fun x => x.2.waitList.any (fun w => w.task.work.g == g
    && x.2.holdTable.any (fun h => (h.gran == w.gran || w.slot) && h.task.work.ctx != w.task.work.ctx)))

/-- R385. The strand is in an external wait or Held: a timeline, an externally fed queue, a collective, a host page, or
a granule that another context holds. -/
def State.externalWait (s : State) (g : Nat) (t : Strand) : Bool :=
  let page : Bool := (s.die (dieOf g)).asks.any (fun a => a.host && (a.who == .rod g || a.who == .group g))
  let mma : Bool := (s.quarter (quarterOf g)).tiles.any (fun x => x.2.owner == some g && x.2.susp.any (fun m => m.trap.isNone))
  t.state == .held || s.waitsForeign g || page || mma
    || t.waitList.any (fun w => match w with
        | .timeline pa _ => (s.ctx t.info.ctx).fedLines.contains (pa / 64)
        | .queue hdr _ => (s.ctx t.info.ctx).fedLines.contains (hdr / 64)
        | .handle h _ => s.colls.any (fun c => c.members.any (fun m => m.own == s.workOf g && m.handle == h))
        | _ => false)

/-- WATCHDOG_IDLE_FIRE: 100 ms have passed in which the count of R385 ran. -/
def execWatchdogIdleFire (ctx : Nat) (s : State) : Host.Outcome State Fault Refusal :=
  let l := s.strandsOf ctx
  .next (if s.watchdogArmed ctx && (s.ctx ctx).state == .running && !l.isEmpty && !l.any (fun x => s.externalWait x.1 x.2)
    then s.killContext ctx 1 else s)

/-- R385. A launch with a limit has existed for TLIMIT ms of context time since its first dispatch. -/
def State.overLimit (s : State) (it : LaunchItem) : Bool :=
  match it.firstAt with
  | none => false
  | some t => it.f 255 240 != 0 && it.f 255 240 * 1000000 ≤ (s.ctxTime it.ctx - t).toNat

/-- WATCHDOG_RUN_FIRE. -/
def execWatchdogRunFire (launch : Nat) (s : State) : Host.Outcome State Fault Refusal :=
  .next (match s.launch? launch with
    | none => s
    | some it => if s.watchdogArmed it.ctx && s.overLimit it then s.killContext it.ctx 1 else s)

/-- HOST_KILL: a mailbox command of the PF. -/
def execHostKill (ctx : Nat) (s : State) : Host.Outcome State Fault Refusal :=
  .next (if (s.ctxs.find? ctx).isNone || (s.func 0).resetting then s.send (.mailbox 0 1)
    else (s.killContext ctx 6).send (.mailbox 0 0))

/-- GANG_ABORT: a member receives ABORT and returns its allotments (R378). DESIGN CHOICE (log 152): GANG_LOST, which the
table of words does not list, comes the same way; it kills the member's context (R409, R411). -/
def execGangAbort (e : GangEnd) (s : State) : Host.Outcome State Fault Refusal :=
  match s.launch? e.launch with
  | none => .next s
  | some it =>
    .next (if it.f 147 147 = 0 then s
      else if e.lost then s.killContext it.ctx 7
      else if it.started then s
      else s.failLaunch e.launch 3)

/-! ### Pages of a context (R191, R414) -/

/-- A leaf of a translation tree: the page's address, log2 size, type and key slot. -/
structure Leaf where
  pa : Nat
  lg : Nat
  typ : Nat
  key : Nat
  deriving DecidableEq, Repr

/-- The leaves under a table, by the levels of R190. -/
def leavesFrom (s : State) : List (Nat × Nat × Bool × Nat) → Nat → List Leaf
  | [], _ => []
  | (lo, bits, leafOk, _) :: ls, table =>
    (List.range (2 ^ bits)).flatMap (fun i =>
      let e := s.hbmNat (table + 8 * i) 8
      if !pteV e || pteRsv e || 2 ≤ pteType e then []
      else if pteLeaf e then
        if leafOk then [{ pa := pteAddr e, lg := lo, typ := pteType e, key := pteKey e }] else []
      else leavesFrom s ls (pteAddr e))

/-- The pages of a context that lie in device memory under its own key slots. -/
def State.ownPages (s : State) (ctx : Nat) : List Leaf :=
  let c := s.ctx ctx
  (leavesFrom s levels c.root).filter (fun l => l.typ == 0 && c.keys.contains l.key)

/-- The page holds an address. -/
def Leaf.holds (l : Leaf) (a : Nat) : Bool := l.pa ≤ a && a < l.pa + 2 ^ l.lg

/-- Write zeros to a range of device memory. DESIGN CHOICE (log 11): they read as zeros under every key slot. -/
def State.zeroRange (s : State) (lo len : Nat) : State :=
  { s with hbm := s.hbm.filter (fun c => !(lo ≤ c.1 && c.1 < lo + len)),
           keyed := s.keyed.filter (fun c => !(lo ≤ c.1 && c.1 < lo + len)) }

/-- R414. The pages of any context that key slots cover. -/
def State.pagesUnder (s : State) (keys : List Nat) : List Leaf :=
  s.ctxs.flatMap (fun c => (leavesFrom s levels c.2.root).filter (fun l => l.typ == 0 && keys.contains l.key))

/-- R414. What a stack stores under key slots has been encrypted with keys that are gone: it reads as an open value under every
slot from then on. Lines of the shared cache are not encrypted; those that stay are written back under the new key. -/
def State.staleKeys (s : State) (onDies keys : List Nat) (cached : Bool) : State :=
  let gone (x : Nat × Nat) : Bool := keys.contains x.2 && onDies.contains (bitsOf x.1 39 36)
    && (cached || (s.scache.find? (x.1 / 64)).isNone)
  { s with keyed := updWhere gone (fun x => (x.1, 1024)) s.keyed }

/-- R438. Before key slots are cleared, the dirty lines of their pages on a set of stacks are written back. -/
def State.cleanKeys (s : State) (onDies keys : List Nat) : State :=
  let ls := s.pagesUnder keys
  s.cleanLines (fun line => onDies.contains (homeDie { host := false, addr := line * 64 }) && ls.any (fun l => l.holds (line * 64)))

/-- R414. Clear key slots of every stack. -/
def State.clearKeys (s : State) (keys : List Nat) : State :=
  if keys.isEmpty then s
  else
    let s := (s.cleanKeys (List.range 16) keys).staleKeys (List.range 16) keys true
    { s with dies := s.dies.map (fun (d : Nat × DieSt) => (d.1, { d.2 with keys := d.2.keys.filter (fun k => !keys.contains k.1) })) }

/-- KEY_SLOT_WRITE: the monitor writes a key into a slot of a stack, or clears the slot. -/
def execKeySlotWrite (stack slot : Nat) (key : Option (BitVec 256)) (s : State) : Host.Outcome State Fault Refusal :=
  .next (if 16 ≤ stack ∨ 1024 ≤ slot then s
    else
      match key with
      | some k =>
        let s := if (s.die stack).keys.find? slot = some k then s else s.staleKeys [stack] [slot] false
        s.modDie stack (fun d => { d with keys := d.keys.insert slot k })
      | none => ((s.cleanKeys [stack] [slot]).staleKeys [stack] [slot] true).modDie stack (fun d => { d with keys := d.keys.erase slot }))

/-! ### Function-level reset (R408, R409) -/

/-- The functions that a reset of a function covers, in order: those of the PF cover every VF first. -/
def resetScope (fn : Nat) : List Nat := if fn = 0 then (List.range 63).map (· + 1) ++ [0] else [fn]

/-- The contexts of a function, and the PASIDs of its interfaces by the keys of their ATS answers. -/
def State.ctxsOf (s : State) (fn : Nat) : List Nat := (s.ctxs.filter (fun c => c.2.func == fn)).map (·.1)
def State.ifacesOf (s : State) (fn : Nat) : List (Nat × Iface) :=
  s.ifaces.filter (fun x => x.2.func == fn)
def State.linkKeys (s : State) (fn : Nat) : List Nat := s.ctxsOf fn ++ (s.ifacesOf fn).map (fun x => pasidKey x.2.pasid)

/-- R408. A function has a request outstanding on the link, or work of its contexts has reached it. -/
def State.linkBusy (s : State) (fn : Nat) : Bool :=
  let cs := s.ctxsOf fn
  let keys := s.linkKeys fn
  s.dies.any (fun d => (d.2.atsReqs ++ d.2.pri).any (fun r => keys.contains r.ctx))
    || s.loads.any (fun l => l.pa.host && cs.contains l.work.ctx)
    || s.cores.any (fun c => c.2.sq.any (fun e => cs.contains e.work.ctx && (match e.pa with | some p => p.host | none => false)))

/-- R408 step 2. Requests still outstanding are killed: reads complete with no data, and writes are dropped. -/
def State.killRequests (s : State) (fn : Nat) : State :=
  let cs := s.ctxsOf fn
  let keys := s.linkKeys fn
  let hostStore (e : SqEntry) : Bool := cs.contains e.work.ctx && (match e.pa with | some p => p.host | none => false)
  let mine := (s.ifacesOf fn).map (·.1)
  { s with
    loads := s.loads.filter (fun l => !(l.pa.host && cs.contains l.work.ctx)),
    cpls := s.cpls.filter (fun c => !mine.contains c.iface),
    cores := s.cores.map (fun (c : Nat × CoreSt) => (c.1, { c.2 with sq := c.2.sq.filter (fun e => !hostStore e) })),
    dies := s.dies.map (fun (d : Nat × DieSt) => (d.1, { d.2 with
      atsReqs := d.2.atsReqs.filter (fun r => !keys.contains r.ctx), pri := d.2.pri.filter (fun r => !keys.contains r.ctx),
      asks := d.2.asks.filter (fun a => !(a.host && keys.contains a.ctx)),
      answers := d.2.answers.filter (fun a => !(a.1.host && keys.contains a.1.ctx)) })) }

/-- R409. The save area of a context with spilt state is zeroed: its strand frames and its scratchpad save region. -/
def State.zeroSave (s : State) (ctx : Nat) : State :=
  if (s.strandsOf ctx).all (fun x => x.2.spilt == {}) then s
  else
    let s := (s.ctx ctx).frames.foldl (fun (s : State) f => s.zeroRange (s.saveBase ctx + f * 131072) 131072) s
    s.zeroRange (s.spSave ctx) ((s.part (s.ctx ctx).part).quads.length * 4 * 2097152)

/-- R408 steps 2 to 5 for one function: requests end, contexts are killed, translations go, key slots are cleared, and
interfaces and sessions end. -/
def State.resetFunction (s : State) (fn : Nat) : State :=
  let cs := s.ctxsOf fn
  let keys := s.linkKeys fn
  let s := s.killRequests fn
  let s := cs.foldl (fun (s : State) c => ((s.zeroSave c).killContext c 5).invalidate c none) s
  let s : State := { s with dies := s.dies.map (fun (d : Nat × DieSt) => (d.1, { d.2 with ats := d.2.ats.filter (fun a => !keys.contains a.ctx) })) }
  let s := s.clearKeys (cs.flatMap (fun c => (s.ctx c).keys))
  { s with
    ifaces := s.ifaces.map (fun (x : Nat × Iface) =>
      if x.2.func = fn then (x.1, { func := fn, index := x.2.index, serves := x.2.serves }) else x),
    sessions := s.sessions.filter (fun x => x.func != fn),
    funcs := s.funcs.erase fn,
    pkg := { s.pkg with flr := s.pkg.flr.filter (· != fn) } }

/-- R408. The reset of a function and of those it covers, once their requests have drained. -/
def State.finishReset (s : State) (fn : Nat) : State := (resetScope fn).foldl (fun (s : State) f => s.resetFunction f) s

/-- FLR: the function stops accepting doorbells and mailbox commands and drains; with nothing outstanding the reset
takes place at once. -/
def execFlr (fn : Nat) (s : State) : Host.Outcome State Fault Refusal :=
  .next (if 64 ≤ fn then s
    else
      let s := (resetScope fn).foldl (fun (s : State) f => s.modFunc f (fun x => { x with resetting := true })) s
      let s : State := { s with pkg := { s.pkg with flr := s.pkg.flr.filter (· != fn) ++ [fn] } }
      if (resetScope fn).any s.linkBusy then s else s.finishReset fn)

/-- FLR_DRAIN_TIMEOUT: 500 µs have passed. -/
def execFlrDrainTimeout (fn : Nat) (s : State) : Host.Outcome State Fault Refusal :=
  .next (if s.pkg.flr.contains fn then s.finishReset fn else s)

/-! ### Storage errors (R412, R413) -/

/-- The code of a structure in a log entry: its row in the table of R412, with the rows of several structures numbered
one after another. -/
def eccCode : EccUnit → Nat
  | .hbmLine _ => 0 | .scData _ => 1 | .scTag _ => 2 | .coreTlb _ => 3 | .dieTlb _ => 4 | .holdTable _ => 5
  | .storeQueue _ => 6 | .sfrq _ => 7 | .vectorFile _ => 8 | .uniformFile _ => 9 | .tile _ _ => 10 | .spadBank _ _ => 11
  | .l1 _ => 12 | .icache _ => 13

/-- The address concerned, where there is one. -/
def eccAddr : EccUnit → Nat
  | .hbmLine l | .scData l | .scTag l => l * 64
  | .spadBank _ off => off
  | _ => 0

/-- R412. The owner of data whose owner is trustworthy. -/
def State.eccOwner (s : State) : EccUnit → List Nat
  | .hbmLine l => (s.ctxs.filter (fun c => (s.ownPages c.1).any (fun p => p.holds (l * 64)))).map (·.1)
  | .scData l => match s.scache.find? l with | some x => [x.owner] | none => []
  | .vectorFile g | .uniformFile g => if (s.strand g).resident then [(s.strand g).info.ctx] else []
  | .tile q t =>
    match ((s.quarter q).tiles.find? t).bind (·.owner) with
    | some g => [(s.strand g).info.ctx]
    | none => []
  | .spadBank core off => ((s.core core).blocks.filter (fun b => b.off ≤ off && off < b.off + 2 ^ b.lg)).map (·.ctx)
  | _ => []

/-- R413. The blast set of a shared-cache slice. -/
def State.sliceSet (s : State) (slice : Nat) : List Nat :=
  (s.scache.filter (fun x => homeSlice { host := false, addr := x.1 * 64 } == slice)).map (fun x => x.2.owner)

/-- R413. The blast set of a structure: the contexts that have an entry in it. -/
def State.blastSet (s : State) : EccUnit → List Nat
  | .scTag l => s.sliceSet (homeSlice { host := false, addr := l * 64 })
  | .coreTlb c => (s.core c).tlb.map (·.ctx)
  | .dieTlb d => (s.die d).tlb.map (·.ctx) ++ (s.die d).ats.map (·.ctx)
  | .holdTable sl => (s.slice sl).holdTable.map (fun h => h.task.work.ctx)
  | .storeQueue c => (s.core c).sq.map (fun e => e.work.ctx)
  | .sfrq c => (s.core c).sfrq.filterMap (fun r => r.map (fun x => x.work.ctx))
  | _ => []

/-- The core that a lasting error retires (R412). -/
def eccCore : EccUnit → Option Nat
  | .vectorFile g | .uniformFile g => some (coreOf g)
  | .tile q _ => some (coreOfQuarter q)
  | .spadBank c _ => some c
  | _ => none

/-- R412. Deliver a lasting error: owners are killed with MEMORY_ERROR, and blast sets with BLAST. -/
def State.deliverError (s : State) (u : EccUnit) : State :=
  let s1 := (s.eccOwner u).eraseDups.foldl (fun (t : State) c => t.killContext c 8) s
  (s.blastSet u).eraseDups.foldl (fun (t : State) c => t.killContext c 2) s1

/-- R412. An L1 or instruction cache is refetched. -/
def State.refetch (s : State) : EccUnit → State
  | .l1 c => s.modCore c (fun x => { x with l1 := [] })
  | .icache c =>
    { s.modCore c (fun x => { x with icache := [] }) with
      strands := s.strands.map (fun (x : Nat × Strand) => (x.1, if coreOf x.1 = c then { x.2 with line := none } else x.2)) }
  | _ => s

/-- R412. The data of a line that a lasting error has taken: the shared cache no longer holds it, and what memory holds then is
an open value where the error took it, or had not been written back. -/
def State.loseLine (s : State) (l : Nat) (whole : Bool) : State :=
  let dirty : Bool := match s.scache.find? l with | some x => x.dirty | none => false
  let lost : Bytes := (List.range 64).foldl (fun (m : Bytes) i =>
    Sp.set 0 m (l * 64 + i) (Config.cipherByte s.free (l * 64 + i) (Sp.get 0 m (l * 64 + i)))) s.hbm
  let s : State := { s with scache := s.scache.erase l }
  if whole || dirty then ({ s with hbm := lost } : State).stepFree else s

/-- R412. A lasting error: the storage is retired, a type-7 entry is written, and the error is delivered. -/
def State.lastingError (s : State) (u : EccUnit) : State :=
  match u with
  | .l1 _ | .icache _ => s.refetch u
  | _ =>
    let s := s.addLog opLogKey (logBytes 7 (eccCode u) 0 0 0 s.podTime (eccAddr u) [])
    let s : State := { s with pkg := { s.pkg with retired := s.pkg.retired ++ [u] } }
    let s := s.deliverError u
    match eccCore u with
    | some c => s.modCore c (fun x => { x with retired := true })
    | none =>
      match u with
      | .scData l | .scTag l => s.loseLine l false
      | .hbmLine l => s.loseLine l true
      | _ => s

/-- R412. The instance of a structure: the stack, slice, core, die, strand slot, tile or bank. -/
def eccInstance : EccUnit → Nat
  | .hbmLine l => homeDie { host := false, addr := l * 64 }
  | .scData l | .scTag l => homeSlice { host := false, addr := l * 64 }
  | .coreTlb c | .storeQueue c | .sfrq c | .l1 c | .icache c => c
  | .dieTlb d => d
  | .holdTable sl => sl
  | .vectorFile g | .uniformFile g => gslot g
  | .tile q t => 32 * q + t
  | .spadBank c off => 32 * c + bitsOf off 6 2

/-- Count a corrected error of a structure instance (R412). -/
def countCorrected (u : Nat × Nat) : List ((Nat × Nat) × Nat) → List ((Nat × Nat) × Nat)
  | [] => [(u, 1)]
  | x :: l => if x.1 = u then (u, x.2 + 1) :: l else x :: countCorrected u l

/-- UNCORRECTABLE_READ: the read is retried once. -/
def execUncorrectableRead (u : EccUnit) (s : State) : Host.Outcome State Fault Refusal :=
  .next { s with pkg := { s.pkg with ecc := s.pkg.ecc ++ [u] } }

/-- ECC_RETRY_RESULT of the oldest retry. -/
def execEccRetryResult (ok : Bool) (s : State) : Host.Outcome State Fault Refusal :=
  .next (match s.pkg.ecc with
    | [] => s
    | u :: l =>
      let s : State := { s with pkg := { s.pkg with ecc := l } }
      if ok then { s with pkg := { s.pkg with corrected := countCorrected (eccCode u, eccInstance u) s.pkg.corrected } } else s.lastingError u)

/-- CORRECTED_ERROR_REPORT: each minute one type-6 entry for each structure instance that has a count. -/
def execCorrectedErrorReport (s : State) : Host.Outcome State Fault Refusal :=
  let s' := s.pkg.corrected.foldl (fun (t : State) x =>
    t.addLog opLogKey (logBytes 6 x.1.1 0 0 0 s.podTime 0 [])) s
  .next { s' with pkg := { s'.pkg with corrected := [] } }

/-! ### The link to a stack (R415) -/

/-- LINK_KEY_PROGRAM: both ends switch to the new key, and what stalled goes on with the counter at 0. -/
def execLinkKeyProgram (die : Nat) (key : BitVec 128) (s : State) : Host.Outcome State Fault Refusal :=
  .next (s.modDie die (fun d => { d with linkKey := key, linkDown := 0, linkUp := 0, linkStopped := false }))

/-- R415. A link's counter of one direction has at least reached a value. -/
def DieSt.linkAt (d : DieSt) (up : Bool) (n : Nat) : DieSt :=
  if up then { d with linkUp := max n d.linkUp } else { d with linkDown := max n d.linkDown }

/-- LINK_REKEY_INTERRUPT: the counter of a direction has reached 2^48 − 2^32. -/
def execLinkRekeyInterrupt (w : LinkWay) (s : State) : Host.Outcome State Fault Refusal :=
  .next ((s.modDie w.die (fun d => d.linkAt w.up rekeyAt)).send (.rekey w.die))

/-- LINK_COUNTER_EXHAUSTED: the counter of a direction has reached 2^48, and the link carries no further flit. -/
def execLinkCounterExhausted (w : LinkWay) (s : State) : Host.Outcome State Fault Refusal :=
  .next (s.modDie w.die (fun d => { d.linkAt w.up linkEnd with linkStopped := true }))

/-- LINK_KEY_TIMEOUT: 1 ms after the stop without a new key, every context with a page on the stack is killed. -/
def execLinkKeyTimeout (die : Nat) (s : State) : Host.Outcome State Fault Refusal :=
  let onStack (c : Nat × Ctx) : Bool :=
    (leavesFrom s levels c.2.root).any (fun l => l.typ == 0 && homeDie { host := false, addr := l.pa } == die)
  .next (if (s.die die).linkStopped then
      ((s.ctxs.filter onStack).map (·.1)).foldl (fun (t : State) c => t.killContext c 3) s
    else s)

/-! ### Gates and reclaim (R416, R417) -/

/-- GATE_ENTRY_WRITE. -/
def execGateEntryWrite (gate : Nat) (v : BitVec 512) (s : State) : Host.Outcome State Fault Refusal :=
  .next (s.memWrite { host := false, addr := Config.gateTableBase + 64 * gate } (natLe 64 v.toNat))

/-- The page of a context that holds a virtual address, where a walk finds one. -/
def State.pageAt (s : State) (ctx va : Nat) : Option TlbEntry := (s.walk ctx va).1.toOption

/-- R417 step 3. The page's translations are invalidated, its lines are zeroed, and it is reported free. -/
def State.freePage (s : State) (ctx page : Nat) : State :=
  let e := s.pageAt ctx page
  let s := s.invalidate ctx (match e with | some x => some (x.base, 2 ^ x.lg) | none => some (page, 1))
  let s := match e with
    | some x => if x.typ = 0 then s.zeroRange x.pa (2 ^ x.lg) else s
    | none => s
  (s.modCtx ctx (fun c => { c with reclaim := c.reclaim.filter (· != page) })).send (.reclaimed ctx page)

/-- R410, R417. What a type-5 entry says of a page: its size, and its permissions R, W and X. -/
def pageData (e : Option TlbEntry) : List Byte :=
  match e with
  | some x => natLe 8 (2 ^ x.lg) ++ natLe 8 (x.r.toNat + 2 * x.w.toNat + 4 * x.x.toNat)
  | none => natLe 16 0

/-- RECLAIM: a protected context is asked, and the page of another is freed. -/
def execReclaim (ctx page : Nat) (s : State) : Host.Outcome State Fault Refusal :=
  .next (if (s.ctxs.find? ctx).isNone || (s.func 0).resetting then s.send (.mailbox 0 1)
    else if (s.ctx ctx).prot then
      let s' := s.addLog ctx (logBytes 5 0 0 ctx 0 s.podTime page (pageData (s.pageAt ctx page)))
      s'.modCtx ctx (fun c => { c with reclaim := c.reclaim.filter (· != page) ++ [page] })
    else s.freePage ctx page)

/-- ACCEPT: the tenant answers for a page that was asked for. -/
def execAccept (ctx page : Nat) (s : State) : Host.Outcome State Fault Refusal :=
  .next (if (s.ctx ctx).reclaim.contains page && !s.shut (s.ctx ctx).func then s.freePage ctx page
    else s.send (.mailbox (s.ctx ctx).func 1))

/-- FORCE: the context is killed, every page under its key slots is zeroed, and the slots are cleared before the page is
free. -/
def execForce (ctx page : Nat) (s : State) : Host.Outcome State Fault Refusal :=
  .next (if (s.ctxs.find? ctx).isNone || !(s.ctx ctx).prot || (s.func 0).resetting then s.send (.mailbox 0 1)
    else
      let pages := s.pagesUnder (s.ctx ctx).keys
      let s := s.killContext ctx 4
      let s := s.invalidate ctx none
      let s := pages.foldl (fun (s : State) l => s.zeroRange l.pa (2 ^ l.lg)) s
      let s := s.clearKeys (s.ctx ctx).keys
      (s.modCtx ctx (fun c => { c with reclaim := c.reclaim.filter (· != page) })).send (.reclaimed ctx page))

/-! ### Attestation and firmware (R418, R419) -/

/-- R418. A signed answer of a function. -/
def State.answerSpdm (s : State) (fn code : Nat) (body : List Byte) : State :=
  if 64 ≤ fn then s else s.send (.spdm fn code body (Config.signature 2 body))

/-- R418. GET_VERSION. -/
def execGetVersion (fn : Nat) (s : State) : Host.Outcome State Fault Refusal := .next (s.answerSpdm fn 0x04 (natLe 2 0x1300))
/-- R418. GET_CAPABILITIES. -/
def execGetCapabilities (fn : Nat) (s : State) : Host.Outcome State Fault Refusal :=
  .next (s.answerSpdm fn 0x61 (Config.spdmBody 0x61))
/-- R418. NEGOTIATE_ALGORITHMS. -/
def execNegotiateAlgorithms (fn : Nat) (s : State) : Host.Outcome State Fault Refusal :=
  .next (s.answerSpdm fn 0x63 (Config.spdmBody 0x63))
/-- R418. GET_DIGESTS: the digest of the certificate chain. -/
def execGetDigests (fn : Nat) (s : State) : Host.Outcome State Fault Refusal :=
  .next (s.answerSpdm fn 0x01 (natLe 48 (Config.digest (Config.spdmBody 0x02)).toNat))
/-- R418. GET_CERTIFICATE: the chain. -/
def execGetCertificate (fn : Nat) (s : State) : Host.Outcome State Fault Refusal :=
  .next (s.answerSpdm fn 0x02 (Config.spdmBody 0x02))
/-- R418. CHALLENGE: the nonce is within the signed answer. -/
def execChallenge (fn : Nat) (nonce : BitVec 256) (s : State) : Host.Outcome State Fault Refusal :=
  .next (s.answerSpdm fn 0x03 (natLe 48 (Config.digest (Config.spdmBody 0x02)).toNat ++ natLe 32 nonce.toNat))

/-- R418. A measurement block of a function: firmware measures blocks 1 to 3, and blocks 4 to 6 are those sealed. -/
def State.measurementOf (s : State) (fn index : Nat) : Option (BitVec 384) :=
  if index = 0 ∨ 6 < index then none
  else if index ≤ 3 then some (Config.measurement index (if index = 3 then fn else 0))
  else (s.func fn).meas.find? index

/-- R418. The flags of the vendor field: bit 0 DESCHEDULED, no context of the function runs; bit 1 GATED, the quads of its
contexts' partitions are power-gated. DESIGN CHOICE (log 154): no quad with a resident strand is, and of others it is open. -/
def State.measurementFlags (s : State) (fn : Nat) : Nat :=
  let cs := s.ctxs.filter (fun c => c.2.func == fn)
  (!cs.isEmpty && cs.all (fun c => c.2.state != .running)).toNat
    + 2 * (!cs.isEmpty && !s.anyResident (fun g _ => cs.any (fun c => (s.part c.2.part).quads.contains (globalQuad (coreOf g))))
        && Config.quadsGated fn s.clock).toNat

/-- GET_MEASUREMENTS: a block that is not there is answered with an error. The function's state does not change. -/
def execGetMeasurements (fn index : Nat) (s : State) : Host.Outcome State Fault Refusal :=
  .next (match s.measurementOf fn index with
    | some m => s.answerSpdm fn 0x60 (natLe 1 index ++ natLe 1 (s.measurementFlags fn) ++ natLe 48 m.toNat)
    | none => s.answerSpdm fn 0x7F [])

/-- PLUGIN_FAULT: the plug-in of a tenant is stopped; its contexts keep running. -/
def execPluginFault (tenant : BitVec 32) (s : State) : Host.Outcome State Fault Refusal :=
  .next { s with pkg := { s.pkg with plugins := s.pkg.plugins.filter (· != tenant) ++ [tenant] } }

/-- SCHEDULER_FAULT: the die's dispatchers stop, and the PF is told. -/
def execSchedulerFault (die : Nat) (s : State) : Host.Outcome State Fault Refusal :=
  .next ((s.modDie die (fun d => { d with stopped := true })).send (.deviceError die))

end Sys2Proof.Machine
end

