-- ==== Sys2Proof/Machine/Platform.lean ====
section
/-!
DEFINITION. What happens to the package as a whole: host accesses to device memory (R243), die boundaries and pod ports
(R421, R422), power-down of a stack (R424), the freeze and its debug port (R431, R432), bring-up, power and temperature
(R433, R434), and the migration of a context (R384).
-/

namespace Sys2Proof.Machine

/-! ### Host accesses (R243) -/

/-- The work of an agent outside every context: no context has this number. -/
def noWork : Work := { ctx := 4096 }

/-- The lines that a range of bytes meets. -/
def linesOf (a n : Nat) : List Nat := if n = 0 then [] else (List.range ((a + n - 1) / 64 + 1 - a / 64)).map (· + a / 64)

/-- R209, R438. A line that the shared cache holds becomes dirty, written by no context; another wakes its stack. -/
def State.hostTouch (s : State) (write : Bool) (line : Nat) : State :=
  match s.scache.find? line with
  | some l => if write then { s with scache := s.scache.insert line { l with dirty := true, writer := noWork } } else s
  | none => s.needStack (homeDie { host := false, addr := line * 64 }) write

/-- R337. Lines that a host agent writes are externally fed for every context. -/
def State.feedLines (s : State) (ls : List Nat) : State :=
  { s with ctxs := s.ctxs.map (fun (c : Nat × Ctx) =>
      (c.1, { c.2 with fedLines := c.2.fedLines ++ ls.filter (fun l => !c.2.fedLines.contains l) })) }

/-- HOST_ACCESS: a transaction of a host agent, or of firmware, on device memory, with the energy blocks of R345 and
the read-only part of the scheduling blocks of R380 in it. No device address lies at or above
2^40 (R188). -/
def execHostAccess (t : HostTxn) (s : State) : Host.Outcome State Fault Refusal :=
  let n := if t.write then t.data.length else t.len
  let ls := linesOf t.addr n
  if 2 ^ 40 < t.addr + n then .fault .noSuchAddress
  else
    let s := ls.foldl (fun (s : State) l => s.hostTouch t.write l) s
    if t.write then
      let s := s.memWrite { host := false, addr := t.addr } t.data
      .next (if t.firmware then { s with ctxs := s.ctxs.map (fun (c : Nat × Ctx) => (c.1, c.2.writeEnergy t.addr t.data)) }
        else s.feedLines ls)
    else
      let read (x : Byte × Nat) : Byte := (s.protByte (t.addr + x.2)).getD x.1
      .next (s.send (.hostData ((s.memBytes { host := false, addr := t.addr } n).zipIdx.map read)))

/-! ### Die boundaries and pod ports (R421, R422) -/

/-- R8, R421. The two dies of a boundary: 0 to 13 lie within the rows, 14 to 21 between them. -/
def boundaryDies (b : Nat) : Nat × Nat := if b < 14 then (b / 7 * 8 + b % 7, b / 7 * 8 + b % 7 + 1) else (b - 14, b - 6)

/-- R421. A lasting error of the uncore of a die: the blast set of each of its shared-cache slices. -/
def State.uncoreError (s : State) (die : Nat) : State :=
  ((List.range 16).flatMap (fun i => s.sliceSet (die * 16 + i))).eraseDups.foldl
    (fun (s : State) c => s.killContext c 2) s

/-- DIE_BOUNDARY_RETRY: a flit is resent; 16 failures in succession are a lasting error of both dies. -/
def execDieBoundaryRetry (b : Nat) (failed : Bool) (s : State) : Host.Outcome State Fault Refusal :=
  let n := if failed then (s.pkg.retries.find? b).getD 0 + 1 else 0
  let count (m : Nat) : State := { s with pkg := { s.pkg with retries := if m = 0 then s.pkg.retries.erase b else s.pkg.retries.insert b m } }
  .next (if 22 ≤ b then s
    else if n < 16 then count n
    else ((count 0).uncoreError (boundaryDies b).1).uncoreError (boundaryDies b).2)

/-- POD_PORT_DOWN. -/
def execPodPortDown (port : Nat) (s : State) : Host.Outcome State Fault Refusal :=
  .next { s with pkg := { s.pkg with portsUp := s.pkg.portsUp.filter (· != port) } }

/-- POD_PORT_UP. -/
def execPodPortUp (port : Nat) (s : State) : Host.Outcome State Fault Refusal :=
  .next (if 16 ≤ port then s else { s with pkg := { s.pkg with portsUp := s.pkg.portsUp.filter (· != port) ++ [port] } })

/-- R341. A collective that includes a package ends with ABORTED for every member here. -/
def State.loseRanks (s : State) (pkg : Nat) (c : Collective) : State :=
  let missing := ((s.collGroup c.launch c.grp).zipIdx.filter (fun x => x.1.2.2 == pkg)).map (·.2)
  if missing.isEmpty then s
  else
    c.members.foldl (fun (s : State) m => s.collAbort c m missing) { s with colls := s.colls.filter (fun x => x.id != c.id) }

/-- R327. The contexts of a gang that includes a package. -/
def State.gangsWith (s : State) (pkg : Nat) : List Nat :=
  ((s.launches.filter (fun l => l.2.f 147 147 == 1 && l.2.peers.contains pkg)).map (fun l => l.2.ctx)).eraseDups

/-- PACKAGE_LOST: 1 ms without a reachable port. Its collectives end ABORTED, and its gangs with GANG_LOST. -/
def execPackageLost (pkg : Nat) (s : State) : Host.Outcome State Fault Refusal :=
  .next (if (s.portTo pkg).isSome then s
    else
      let s : State := { s with pkg := { s.pkg with lost := s.pkg.lost.filter (· != pkg) ++ [pkg] } }
      let s := s.colls.foldl (fun (s : State) c => s.loseRanks pkg c) s
      (s.gangsWith pkg).foldl (fun (s : State) c => s.killContext c 7) s)

/-- HBM_POWER_DOWN: the stack has been idle for 1 ms; the next access wakes it. -/
def execHbmPowerDown (die : Nat) (s : State) : Host.Outcome State Fault Refusal :=
  .next (s.modDie die (fun d => { d with hbmDown := true }))

/-! ### The freeze and the debug port (R431, R432) -/

/-- R432. The device issues a nonce to its debug port. DESIGN CHOICE (log 157): at a freeze, and after each use of the last. -/
def State.issueNonce (s : State) : State :=
  let n := Config.nonce s.free
  (({ s with pkg := { s.pkg with nonce := some n } } : State).stepFree).send (.nonce n)

/-- FREEZE: every clock stops, and the pod ports with them. -/
def execFreeze (s : State) : Host.Outcome State Fault Refusal :=
  .next (if s.power = .on then ({ s with power := .frozen, pkg := { s.pkg with portsUp := [] } } : State).issueNonce else s)

/-- UNLOCK: the token must be valid for the package's serial and the nonce that the device has issued. -/
def execUnlock (token : BitVec 256) (nonce : BitVec 64) (s : State) : Host.Outcome State Fault Refusal :=
  .next (if s.power = .off then s
    else
      let ok := s.pkg.nonce == some nonce && Config.tokenValid token Config.serial nonce
      ({ s with pkg := { s.pkg with debug := s.pkg.debug || ok } } : State).issueNonce)

/-- R432. What a scan command reads: the state of a unit, whose keys lie outside every chain, or device memory as ciphertext. -/
def State.scan (s : State) : ScanCmd → ScanData
  | .strand g => .strand (s.strand g)
  | .core c => .core (s.core c)
  | .quarter q => .quarter (s.quarter q)
  | .die d => .die { s.die d with linkKey := 0, keys := [] }
  | .memory addr len =>
    .bytes ((List.range len).map (fun i => Config.cipherByte (Sp.get 0 s.keyed (addr + i)) (addr + i) (Sp.get 0 s.hbm (addr + i))))

/-- SCAN_COMMAND: only on a frozen package, after a valid token. -/
def execScanCommand (cmd : ScanCmd) (s : State) : Host.Outcome State Fault Refusal :=
  .next (s.send (if s.power = .frozen && s.pkg.debug then .scan cmd (s.scan cmd) else .scanRefused))

/-! ### Power (R431, R433, R434) -/

/-- R414, R431. Device memory whose keys are gone: every byte that was written reads as an open value. -/
def scrambled (free : Nat) (m : Bytes) : Bytes := m.foldl (fun (n : Bytes) c => Sp.set 0 n c.1 (Config.cipherByte free c.1 c.2)) []

/-- The package without power: nothing is left but its fuses, what lies outside it and the model's own counters. -/
def State.poweredOff (s : State) (hbm : Bytes) (thermal : Bool) : State :=
  { State.reset with
    power := .off, clock := s.clock, dies := [], free := s.free + 1, nextId := s.nextId, hbm := hbm, hostMem := s.hostMem,
    inputs := s.inputs, out := s.out, pkg := { thermal := thermal } }

/-- COLD_RESET: every SRAM, key slot and link key is cleared; device memory is kept as ciphertext. Bring-up follows. -/
def execColdReset (s : State) : Host.Outcome State Fault Refusal :=
  .next (s.poweredOff (scrambled s.free s.hbm) s.pkg.thermal)

/-- POWER_OFF. -/
def execPowerOff (s : State) : Host.Outcome State Fault Refusal := .next (s.poweredOff [] s.pkg.thermal)

/-- THERMAL_TRIP: at 115 °C the package powers off; the PF reports it after the next bring-up. -/
def execThermalTrip (s : State) : Host.Outcome State Fault Refusal := .next (s.poweredOff [] true)

/-- R414, R415, R433. A die after bring-up: trained or not, with its link's key and the firmware's key slot. -/
def bringUpDie (b : BringUp) (d : Nat) : DieSt :=
  { trained := !b.untrained.contains d, linkKey := (b.linkKeys[d]?).getD 0,
    keys := match b.firmwareKeys[d]? with | some k => [(0, k)] | none => [] }

/-- POWER_ON: bring-up (R433), with the operator's pod configuration and the pod ports that come up (R422). A monitor image
that does not verify does not run, and no function is exposed. A die that fails its training is left out, and the PF
reports it. -/
def execPowerOn (b : BringUp) (s : State) : Host.Outcome State Fault Refusal :=
  .next (if s.power = .off ∧ b.verified then
      let bad := (List.range 16).filter (fun d => b.untrained.contains d)
      let s' : State := { s with
        power := .on, podTime := b.podTime, dies := (List.range 16).map (fun d => (d, bringUpDie b d)),
        pkg := { s.pkg with thermal := false, num := b.num % 1024, master := b.capMaster,
                            capMaster := !b.routes.isEmpty && b.capMaster == b.num % 1024,
                            routes := b.routes.foldl (fun (m : Assoc (List Nat)) r => m.insert r.1 r.2) [],
                            portsUp := (b.ports.filter (· < 16)).eraseDups } }
      let s' := bad.foldl (fun (t : State) d => t.send (.dieOut d)) s'
      if s.pkg.thermal then s'.send .thermalTrip else s'
    else s)

/-- THERMAL_THROTTLE: firmware lowers MAXOP of the hottest partitions by one step. -/
def execThermalThrottle (parts : List Nat) (s : State) : Host.Outcome State Fault Refusal :=
  .next (parts.foldl (fun (s : State) p => s.setAllowance p none (some ((s.part p).maxop - 1))) s)

/-! ### Migration (R384) -/

/-- CONTEXT_MIGRATION: firmware sets CTOFF of the migrated context so that its time goes on from the saved value, plus
the time elapsed in wall mode. -/
def execContextMigration (ctx : Nat) (savedTime : BitVec 64) (elapsed : Nat) (s : State) : Host.Outcome State Fault Refusal :=
  let add := if s.frozenTime ctx then 0 else BitVec.ofNat 64 elapsed
  .next (if (s.ctxs.find? ctx).isSome && ((s.ctx ctx).state == .idle || (s.ctx ctx).state == .halted) then
      s.modCtx ctx (fun c => { c with ctoff := s.podTime - (savedTime + add), pausedAt := some s.podTime })
    else s)

end Sys2Proof.Machine
end

