-- ==== Sys2Proof/Machine/Uniform.lean ====
section
/-!
DEFINITION. The uniform words of majors 0x00 to 0x1C (R33, R127 to R131) and UPFX. Every word runs once for the strand
and writes its result for the next issue group.
-/

namespace Sys2Proof.Machine

/-- R33. UNOP has no effect and no charge of its own. -/
def execUnop (s : State) : Host.Outcome State Fault Refusal := .next s.done

/-- R39. UPFX sets the fields of the next word. -/
def execUpfx (d a b w : BitVec 2) (i : BitVec 16) (s : State) : Host.Outcome State Fault Refusal :=
  .next ({ s with iss := { s.iss with up := some { xd := d, xa := a, xb := b, w := w, imm := i } } } : State).done

/-! ### Shared courses -/

/-- R123, R127. A three-operand integer word at the width of W. -/
def State.uThree (s : State) (f : Alu2) (d a b : BitVec 8) : State :=
  let p := s.up
  let n := wcount p.w
  let rd := ureg p.xd d
  let ra := ureg p.xa a
  let rb := ureg p.xb b
  s.uWord (p.w.toNat ≤ 1 && p.imm == 0) [(rd, n), (ra, n), (rb, n)] (fun s =>
    (if n = 1 then s.setU rd (f 32 (s.u ra) (s.u rb)) else s.setU2 rd (f 64 (s.u2 ra) (s.u2 rb))).done)

/-- R123, R129. A unary integer word at the width of W; XB must be zero (R40). -/
def State.uOne (s : State) (f : Alu1) (d a : BitVec 8) : State :=
  let p := s.up
  let n := wcount p.w
  let rd := ureg p.xd d
  let ra := ureg p.xa a
  s.uWord (p.w.toNat ≤ 1 && p.imm == 0 && p.xb == 0) [(rd, n), (ra, n)] (fun s =>
    (if n = 1 then s.setU rd (f 32 (s.u ra)) else s.setU2 rd (f 64 (s.u2 ra))).done)

/-- R130, R131. A three-operand word of 32 bits that may also read D and raise flags. -/
def State.uThree32 (s : State) (f : Word → Word → Word → Word × Nat) (d a b : BitVec 8) : State :=
  let p := s.up
  let rd := ureg p.xd d
  let ra := ureg p.xa a
  let rb := ureg p.xb b
  s.uWord (p.w == 0 && p.imm == 0) [(rd, 1), (ra, 1), (rb, 1)] (fun s =>
    let r := f (s.u rd) (s.u ra) (s.u rb)
    ((s.setU rd r.1).raiseFlags r.2).done)

/-- R128. The immediate of UADDI and UMOVI, as 32 bits: IMM16 extended, or IMMHI:IMM16 under UPFX. -/
def State.uImm (s : State) (i : BitVec 16) : Word :=
  match s.iss.up with
  | none => i.signExtend 32
  | some p => p.imm ++ i

/-- R128. An immediate word: its result from the old value of D and the sign-extended immediate. -/
def State.uImmediate (s : State) (f : Alu2) (d : BitVec 8) (i : BitVec 16) : State :=
  let p := s.up
  let n := wcount p.w
  let rd := ureg p.xd d
  let v := s.uImm i
  s.uWord (p.w.toNat ≤ 1 && p.xa == 0 && p.xb == 0) [(rd, n)] (fun s =>
    (if n = 1 then s.setU rd (f 32 (s.u rd) v) else s.setU2 rd (f 64 (s.u2 rd) (v.signExtend 64))).done)

/-! ### Integer words (R127) -/

def execUadd (_c : Bool) (d a b : BitVec 8) (s : State) : Host.Outcome State Fault Refusal := .next (s.uThree aluAdd d a b)
def execUsub (_c : Bool) (d a b : BitVec 8) (s : State) : Host.Outcome State Fault Refusal := .next (s.uThree aluSub d a b)
def execUmul (_c : Bool) (d a b : BitVec 8) (s : State) : Host.Outcome State Fault Refusal := .next (s.uThree aluMul d a b)
def execUmulhI (_c : Bool) (d a b : BitVec 8) (s : State) : Host.Outcome State Fault Refusal := .next (s.uThree aluMulhI d a b)
def execUmulhN (_c : Bool) (d a b : BitVec 8) (s : State) : Host.Outcome State Fault Refusal := .next (s.uThree aluMulhN d a b)
def execUand (_c : Bool) (d a b : BitVec 8) (s : State) : Host.Outcome State Fault Refusal := .next (s.uThree aluAnd d a b)
def execUor (_c : Bool) (d a b : BitVec 8) (s : State) : Host.Outcome State Fault Refusal := .next (s.uThree aluOr d a b)
def execUxor (_c : Bool) (d a b : BitVec 8) (s : State) : Host.Outcome State Fault Refusal := .next (s.uThree aluXor d a b)
def execUandn (_c : Bool) (d a b : BitVec 8) (s : State) : Host.Outcome State Fault Refusal := .next (s.uThree aluAndn d a b)
def execUshl (_c : Bool) (d a b : BitVec 8) (s : State) : Host.Outcome State Fault Refusal := .next (s.uThree aluShl d a b)
def execUshr (_c : Bool) (d a b : BitVec 8) (s : State) : Host.Outcome State Fault Refusal := .next (s.uThree aluShr d a b)
def execUsar (_c : Bool) (d a b : BitVec 8) (s : State) : Host.Outcome State Fault Refusal := .next (s.uThree aluSar d a b)
def execUminI (_c : Bool) (d a b : BitVec 8) (s : State) : Host.Outcome State Fault Refusal := .next (s.uThree aluMinI d a b)
def execUminN (_c : Bool) (d a b : BitVec 8) (s : State) : Host.Outcome State Fault Refusal := .next (s.uThree aluMinN d a b)
def execUmaxI (_c : Bool) (d a b : BitVec 8) (s : State) : Host.Outcome State Fault Refusal := .next (s.uThree aluMaxI d a b)
def execUmaxN (_c : Bool) (d a b : BitVec 8) (s : State) : Host.Outcome State Fault Refusal := .next (s.uThree aluMaxN d a b)
def execUsltI (_c : Bool) (d a b : BitVec 8) (s : State) : Host.Outcome State Fault Refusal := .next (s.uThree aluSltI d a b)
def execUsltN (_c : Bool) (d a b : BitVec 8) (s : State) : Host.Outcome State Fault Refusal := .next (s.uThree aluSltN d a b)
def execUseq (_c : Bool) (d a b : BitVec 8) (s : State) : Host.Outcome State Fault Refusal := .next (s.uThree aluSeq d a b)

/-! ### Immediate words (R128) -/

def execUaddi (_c : Bool) (d : BitVec 8) (i : BitVec 16) (s : State) : Host.Outcome State Fault Refusal := .next (s.uImmediate aluAdd d i)
def execUmovi (_c : Bool) (d : BitVec 8) (i : BitVec 16) (s : State) : Host.Outcome State Fault Refusal :=
  .next (s.uImmediate (fun _ _ v => v) d i)
/-- ULUI: the immediate is IMM16 in the upper half; W and IMMHI must be zero. -/
def execUlui (_c : Bool) (d : BitVec 8) (i : BitVec 16) (s : State) : Host.Outcome State Fault Refusal :=
  let p := s.up
  let rd := ureg p.xd d
  .next (s.uWord (p.w == 0 && p.imm == 0 && p.xa == 0 && p.xb == 0) [(rd, 1)] (fun s => (s.setU rd (i ++ 0#16)).done))

/-! ### Unary words (R129) -/

def execUclz (_c : Bool) (d a : BitVec 8) (s : State) : Host.Outcome State Fault Refusal := .next (s.uOne aluClz d a)
def execUpopc (_c : Bool) (d a : BitVec 8) (s : State) : Host.Outcome State Fault Refusal := .next (s.uOne aluPopc d a)
def execUbrev (_c : Bool) (d a : BitVec 8) (s : State) : Host.Outcome State Fault Refusal := .next (s.uOne aluBrev d a)
def execUsext8 (_c : Bool) (d a : BitVec 8) (s : State) : Host.Outcome State Fault Refusal := .next (s.uOne aluSext8 d a)
def execUsext16 (_c : Bool) (d a : BitVec 8) (s : State) : Host.Outcome State Fault Refusal := .next (s.uOne aluSext16 d a)
def execUneg (_c : Bool) (d a : BitVec 8) (s : State) : Host.Outcome State Fault Refusal := .next (s.uOne aluNeg d a)
def execUabs (_c : Bool) (d a : BitVec 8) (s : State) : Host.Outcome State Fault Refusal := .next (s.uOne aluAbs d a)

/-! ### Bit fields (R130) and floating point (R131) -/

def execUbfe (_c : Bool) (d a b : BitVec 8) (s : State) : Host.Outcome State Fault Refusal :=
  .next (s.uThree32 (fun _ x y => (bitExtract x y, 0)) d a b)
def execUbfi (_c : Bool) (d a b : BitVec 8) (s : State) : Host.Outcome State Fault Refusal :=
  .next (s.uThree32 (fun z x y => (bitInsert z x y, 0)) d a b)
/-- An FP32 result as a register and its flags. -/
def asWord (r : Nat × Nat) : Word × Nat := (BitVec.ofNat 32 r.1, r.2)
def execUfadd (_c : Bool) (d a b : BitVec 8) (s : State) : Host.Outcome State Fault Refusal :=
  .next (s.uThree32 (fun _ x y => asWord (f32.add rne x.toNat y.toNat)) d a b)
def execUfmul (_c : Bool) (d a b : BitVec 8) (s : State) : Host.Outcome State Fault Refusal :=
  .next (s.uThree32 (fun _ x y => asWord (f32.mul rne x.toNat y.toNat)) d a b)
def execUfslt (_c : Bool) (d a b : BitVec 8) (s : State) : Host.Outcome State Fault Refusal :=
  .next (s.uThree32 (fun _ x y => let r := fcmp 2 x y; (if r.1 then 1 else 0, r.2)) d a b)

end Sys2Proof.Machine
end

