-- ==== Sys2Proof/Machine/VecCourse.lean ====
section
/-!
DEFINITION. The course that the arithmetic V words of majors 0x20 to 0x4F share (R67 to R74, R138 to R140, R162): their
checks, the pass over the active slots with `cy` and draws, the write of the results at their distance, zero mode, the
latches and the charges.
-/

namespace Sys2Proof.Machine

/-- The rules that a word's form sets. -/
structure VForm where
  cls : Nat                                        -- weight class per slot (R138)
  widths : BitVec 2 → BitVec 2 → BitVec 2 → Bool   -- legal (WD, WA, WB)
  rounds : Bool := false                           -- RM 0 to 5 select a mode; else RM must be 0
  fp : Bool := false                               -- results pass the write buffer (R73)
  cy : Bool := true                                -- A and B may name `cy` (R139)
  fourth : Nat := 0                                -- C: 0 seed only, 1 a source, 2 a source unless it is 0x00
  readsD : Bool := false                           -- D is also a source
  ok : Bool := true                                -- a further check of the word

/-- Only single registers. -/
def widthsNone (wd wa wb : BitVec 2) : Bool := wd == 0 && wa == 0 && wb == 0

/-- What the pass over the slots gives. -/
structure VPass where
  res : List (Nat × DWord) := []                   -- by slot, ascending
  flags : Nat := 0
  ctr : DWord := 0
  carry : Word := 0
  deriving DecidableEq, Repr

/-- R103, R140. The pass over the active slots: each takes its draw, sees the carry, and leaves the next carry. -/
def vPass (key : DWord) (draws : Bool) (f : Nat → Word → Word → DWord × Nat) : List Nat → VPass → VPass
  | [], p => p
  | k :: ks, p =>
    let draw := if draws then randWord key p.ctr else 0
    let r := f k p.carry draw
    vPass key draws f ks
      { res := p.res ++ [(k, r.1)], flags := p.flags ||| r.2, ctr := if draws then p.ctr + 1 else p.ctr, carry := loWord r.1 }

/-- R69, R71, R73. Write n registers of a destination for a slot: at distance 1, or through the write buffer. -/
def Strand.vWrite (t : Strand) (fp : Bool) (d : BitVec 8) (n k : Nat) (v : DWord) : Strand :=
  if dstN d then t
  else if fp then t.bufV (dstReg d) k (loWord v) t.vseq
  else
    let t := t.writeV (dstReg d) k (loWord v)
    if n = 2 then t.writeV (dstReg d + 1) k (hiWord v) else t

/-- R69, R72. The results of a word enter the registers and, when it writes them, the latches; zero mode clears the
live slots outside the active mask. -/
def Strand.vFinish (t : Strand) (fp latch zm : Bool) (d : BitVec 8) (n : Nat) (active : Word) (res : List (Nat × DWord)) :
    Strand :=
  let t := if latch then t.rotate (fun k => (res.find? (fun x => x.1 == k)).map (fun x => loWord x.2)) else t
  let t := res.foldl (fun t x => t.vWrite fp d n x.1 x.2) t
  if zm then (t.inactive active).foldl (fun t k => t.vWrite fp d n k 0) t else t

/-- R44. The seed operand of a word that reads `cy`: the C field when it names a uniform register, else zero. -/
def seedSrc (lit : Word) (c : BitVec 8) : Option VSrc :=
  if c = 0 then some (.const 0) else if 0xC0#8 ≤ c then vSrcOf lit c 0 else none

/-- All the sources of a word in the order A, B, C, D, and its seed; `none` when a code is illegal. -/
def State.vSources (s : State) (fm : VForm) (d : BitVec 8) (codes : List (BitVec 8 × BitVec 2)) : Option (List VSrc × VSrc) :=
  let p := s.vp
  let lit := s.iss.lit
  let ab := codes.map (fun x => vSrcOf lit x.1 x.2)
  let cy := ab.any (· == some .cy)
  let c : Option (Option VSrc) :=
    if fm.fourth = 1 ∨ (fm.fourth = 2 ∧ p.c ≠ 0) then
      (match vSrcOf lit p.c 0 with | none => none | some .cy => none | some x => some (some x))
    else if fm.fourth = 2 then some none
    else if cy then some none
    else if p.c = 0 then some none else none
  let seed := if cy && fm.fourth == 0 then seedSrc lit p.c else some (.const 0)
  let dsrc : List VSrc := if fm.readsD then [if dstN d then .const 0 else .reg (dstReg d) 1] else []
  if ab.any Option.isNone || (cy && (!fm.cy || !widthsNone p.wd p.wa p.wb)) then none
  else
    match c, seed with
    | some c, some sd => some (ab.filterMap id ++ c.toList ++ dsrc, sd)
    | _, _ => none

/-- The course of an arithmetic word with a register destination: `f` gives a slot's result and flags from its first
three operands and its draw. -/
def State.vArith (s : State) (fm : VForm) (i : Instr) (d : BitVec 8) (codes : List (BitVec 8 × BitVec 2))
    (f : DWord → DWord → DWord → Word → DWord × Nat) : State :=
  let p := s.vp
  let n := wcount p.wd
  match s.vSources fm d codes with
  | none => s.enc .illegalOperand
  | some (srcs, seed) =>
    let ok := fm.ok && fm.widths p.wd p.wa p.wb && s.old.vDstOk d n true
      && (if fm.rounds then p.rm.toNat ≤ 5 else p.rm == 0)
    s.vWord ok (seed :: srcs) (if dstN d then none else some (dstReg d, n)) (fun t s =>
      let act := s.active
      let s := s.takeRod i act none
      if act = 0 then s.done
      else
        let arg (carry : Word) (k j : Nat) : DWord := (srcs[j]?.map (fun x => t.vVal carry x k)).getD 0
        let pass := vPass s.old.rngKey (fm.rounds && p.rm == 5)
          (fun k carry draw => f (arg carry k 0) (arg carry k 1) (arg carry k 2) draw)
          (slotsOf act) { ctr := s.old.rngCtr, carry := t.vRead 0 seed 0 0 }
        let s := (s.modMe (fun t => t.vFinish fm.fp true p.zm d n act pass.res)).setRngCtr pass.ctr
        let s := s.raiseFlags pass.flags
        let cnt := popCount act
        (({ s with iss := { s.iss with slots := cnt } } : State).vCharge fm.cls cnt
          (srcs.map VSrc.accesses ++ [dstAccesses d n])).done)

end Sys2Proof.Machine
end

