-- ==== Sys2Proof/Machine/Vector.lean ====
section
/-!
DEFINITION. The integer, bit-field, select, unary and compare words of the V pipe (R141 to R146), and VPFX.
-/

namespace Sys2Proof.Machine

/-- R37. VPFX sets the fields of the next word. -/
def execVpfx (m r : BitVec 3) (z : BitVec 1) (d a b : BitVec 2) (c : BitVec 8) (s : State) : Host.Outcome State Fault Refusal :=
  .next ({ s with iss := { s.iss with vp := some { msk := m, rm := r, zm := z == 1, wd := d, wa := a, wb := b, c := c } } } :
    State).done

/-! ### Widths (R141) -/

/-- All single, or all pairs. -/
def widthsLogic (wd wa wb : BitVec 2) : Bool := widthsNone wd wa wb || (wd == 1 && wa == 1 && wb == 1)
/-- The shifts: a pair and a single count. -/
def widthsShift (wd wa wb : BitVec 2) : Bool := widthsNone wd wa wb || (wd == 1 && wa == 1 && wb == 0)
/-- The sums: also a pair and a single that is sign-extended. -/
def widthsSum (wd wa wb : BitVec 2) : Bool := widthsLogic wd wa wb || widthsShift wd wa wb

def formInt (widths : BitVec 2 → BitVec 2 → BitVec 2 → Bool) : VForm := { cls := 2, widths := widths }

/-! ### Shared courses -/

/-- R141. An integer word of two operands; `ext` says that a single B beside a pair is sign-extended. -/
def State.vInt (s : State) (fm : VForm) (ext : Bool) (f : Alu2) (i : Instr) (d a b : BitVec 8) : State :=
  let p := s.vp
  s.vArith fm i d [(a, p.wa), (b, p.wb)] (fun x y _ _ =>
    if p.wd = 0 then ((f 32 (loWord x) (loWord y)).setWidth 64, 0)
    else (f 64 x (if p.wb = 0 && ext then (loWord y).signExtend 64 else y), 0))

/-- A word of single registers that raises no flag, from its operands A, B and C or D. -/
def State.vSingle (s : State) (fm : VForm) (f : Word → Word → Word → Word) (i : Instr) (d : BitVec 8)
    (codes : List (BitVec 8 × BitVec 2)) : State :=
  s.vArith fm i d codes (fun x y z _ => ((f (loWord x) (loWord y) (loWord z)).setWidth 64, 0))

/-- R146. A unary integer word. -/
def State.vUnary (s : State) (f : Alu1) (i : Instr) (d a : BitVec 8) : State :=
  s.vSingle (formInt widthsNone) (fun x _ _ => f 32 x) i d [(a, s.vp.wa)]

/-! ### Integer words (R141) -/

def execVadd (c : Bool) (d a b : BitVec 8) (s : State) : Host.Outcome State Fault Refusal :=
  .next (s.vInt (formInt widthsSum) true aluAdd (.vadd c d a b) d a b)
def execVsub (c : Bool) (d a b : BitVec 8) (s : State) : Host.Outcome State Fault Refusal :=
  .next (s.vInt (formInt widthsSum) true aluSub (.vsub c d a b) d a b)
def execVmul (c : Bool) (d a b : BitVec 8) (s : State) : Host.Outcome State Fault Refusal :=
  .next (s.vInt (formInt widthsNone) false aluMul (.vmul c d a b) d a b)
def execVmulhI (c : Bool) (d a b : BitVec 8) (s : State) : Host.Outcome State Fault Refusal :=
  .next (s.vInt (formInt widthsNone) false aluMulhI (.vmulhI c d a b) d a b)
def execVmulhN (c : Bool) (d a b : BitVec 8) (s : State) : Host.Outcome State Fault Refusal :=
  .next (s.vInt (formInt widthsNone) false aluMulhN (.vmulhN c d a b) d a b)
def execVand (c : Bool) (d a b : BitVec 8) (s : State) : Host.Outcome State Fault Refusal :=
  .next (s.vInt (formInt widthsLogic) false aluAnd (.vand c d a b) d a b)
def execVor (c : Bool) (d a b : BitVec 8) (s : State) : Host.Outcome State Fault Refusal :=
  .next (s.vInt (formInt widthsLogic) false aluOr (.vor c d a b) d a b)
def execVxor (c : Bool) (d a b : BitVec 8) (s : State) : Host.Outcome State Fault Refusal :=
  .next (s.vInt (formInt widthsLogic) false aluXor (.vxor c d a b) d a b)
def execVandn (c : Bool) (d a b : BitVec 8) (s : State) : Host.Outcome State Fault Refusal :=
  .next (s.vInt (formInt widthsLogic) false aluAndn (.vandn c d a b) d a b)
def execVshl (c : Bool) (d a b : BitVec 8) (s : State) : Host.Outcome State Fault Refusal :=
  .next (s.vInt (formInt widthsShift) false aluShl (.vshl c d a b) d a b)
def execVshr (c : Bool) (d a b : BitVec 8) (s : State) : Host.Outcome State Fault Refusal :=
  .next (s.vInt (formInt widthsShift) false aluShr (.vshr c d a b) d a b)
def execVsar (c : Bool) (d a b : BitVec 8) (s : State) : Host.Outcome State Fault Refusal :=
  .next (s.vInt (formInt widthsShift) false aluSar (.vsar c d a b) d a b)
def execVminI (c : Bool) (d a b : BitVec 8) (s : State) : Host.Outcome State Fault Refusal :=
  .next (s.vInt (formInt widthsLogic) false aluMinI (.vminI c d a b) d a b)
def execVminN (c : Bool) (d a b : BitVec 8) (s : State) : Host.Outcome State Fault Refusal :=
  .next (s.vInt (formInt widthsLogic) false aluMinN (.vminN c d a b) d a b)
def execVmaxI (c : Bool) (d a b : BitVec 8) (s : State) : Host.Outcome State Fault Refusal :=
  .next (s.vInt (formInt widthsLogic) false aluMaxI (.vmaxI c d a b) d a b)
def execVmaxN (c : Bool) (d a b : BitVec 8) (s : State) : Host.Outcome State Fault Refusal :=
  .next (s.vInt (formInt widthsLogic) false aluMaxN (.vmaxN c d a b) d a b)
def execVmad (c : Bool) (d a b : BitVec 8) (s : State) : Host.Outcome State Fault Refusal :=
  .next (s.vSingle { formInt widthsNone with fourth := 1 } (fun x y z => x * y + z) (.vmad c d a b) d [(a, s.vp.wa), (b, s.vp.wb)])

/-! ### Bit fields (R142) -/

def execVbfe (c : Bool) (d a b : BitVec 8) (s : State) : Host.Outcome State Fault Refusal :=
  .next (s.vSingle (formInt widthsNone) (fun x y _ => bitExtract x y) (.vbfe c d a b) d [(a, s.vp.wa), (b, s.vp.wb)])
def execVbfi (c : Bool) (d a b : BitVec 8) (s : State) : Host.Outcome State Fault Refusal :=
  .next (s.vSingle { formInt widthsNone with readsD := true } (fun x y z => bitInsert z x y) (.vbfi c d a b) d
    [(a, s.vp.wa), (b, s.vp.wb)])

/-! ### Unary words (R146) -/

def execVclz (c : Bool) (d a : BitVec 8) (s : State) : Host.Outcome State Fault Refusal :=
  .next (s.vUnary aluClz (.vclz c d a) d a)
def execVpopc (c : Bool) (d a : BitVec 8) (s : State) : Host.Outcome State Fault Refusal :=
  .next (s.vUnary aluPopc (.vpopc c d a) d a)
def execVbrev (c : Bool) (d a : BitVec 8) (s : State) : Host.Outcome State Fault Refusal :=
  .next (s.vUnary aluBrev (.vbrev c d a) d a)
def execVsext8 (c : Bool) (d a : BitVec 8) (s : State) : Host.Outcome State Fault Refusal :=
  .next (s.vUnary aluSext8 (.vsext8 c d a) d a)
def execVsext16 (c : Bool) (d a : BitVec 8) (s : State) : Host.Outcome State Fault Refusal :=
  .next (s.vUnary aluSext16 (.vsext16 c d a) d a)
def execVneg (c : Bool) (d a : BitVec 8) (s : State) : Host.Outcome State Fault Refusal :=
  .next (s.vUnary aluNeg (.vneg c d a) d a)
def execVabs (c : Bool) (d a : BitVec 8) (s : State) : Host.Outcome State Fault Refusal :=
  .next (s.vUnary aluAbs (.vabs c d a) d a)

/-- Write the n registers of a widened move for a slot. -/
def Strand.vWriteAll (t : Strand) (d : BitVec 8) (k : Nat) : Nat → List Word → Strand
  | _, [] => t
  | i, w :: l => (t.writeV (dstReg d + i) k w).vWriteAll d k (i + 1) l

/-- R146. VMOV of a group of registers; `v(D)` alone enters the latches. A move of one register may read `cy`. -/
def State.vMove (s : State) (i : Instr) (d a : BitVec 8) : State :=
  let p := s.vp
  let n := wcount p.wd
  if p.wd = 0 then s.vUnary aluMov i d a
  else
    match vSrcOf s.iss.lit a p.wa with
    | none => s.enc .illegalOperand
    | some x =>
      s.vWord (p.wa == p.wd && p.wb == 0 && p.rm == 0 && p.c == 0 && s.old.vDstOk d n false) [x] (some (dstReg d, n))
        (fun t s =>
          let act := s.active
          let s := s.takeRod i act none
          if act = 0 then s.done
          else
            let cnt := popCount act
            let vals (k : Nat) : List Word := (List.range n).map (fun j => t.vRead 0 x k j)
            let s := s.modMe (fun t =>
              let t := t.rotate (fun k => if act.getLsbD k then (vals k).head? else none)
              let t := (slotsOf act).foldl (fun t k => t.vWriteAll d k 0 (vals k)) t
              if p.zm then (t.inactive act).foldl (fun t k => t.vWriteAll d k 0 (List.replicate n 0)) t else t)
            (({ s with iss := { s.iss with slots := cnt } } : State).vCharge 2 cnt [x.accesses, dstAccesses d n]).done)

def execVmov (c : Bool) (d a : BitVec 8) (s : State) : Host.Outcome State Fault Refusal := .next (s.vMove (.vmov c d a) d a)

/-! ### Select (R143) -/

/-- R143. VSEL: `em` alone is the active mask; each slot reads only the source that m(MSK) selects. -/
def State.vSelect (s : State) (i : Instr) (d a b : BitVec 8) : State :=
  let p := s.vp
  let ops := [vSrcOf s.iss.lit a p.wa, vSrcOf s.iss.lit b p.wb]
  let cy := ops.any (· == some .cy)
  let seed := if cy then seedSrc s.iss.lit p.c else if p.c = 0 then some (.const 0) else none
  match ops, seed with
  | [some x, some y], some sd =>
    let ok := p.msk != 0 && p.rm == 0 && widthsNone p.wd p.wa p.wb && s.old.vDstOk d 1 true
    s.vWord ok [sd, x, y] (if dstN d then none else some (dstReg d, 1)) (fun t s =>
      let act := s.mask 0
      let sel := s.mask p.msk.toNat
      let s := s.takeRod i act none
      if act = 0 then s.done
      else
        let pass := vPass 0 false (fun k carry _ => (t.vVal carry (if sel.getLsbD k then x else y) k, 0)) (slotsOf act)
          { carry := t.vRead 0 sd 0 0 }
        let s := s.modMe (fun t => t.vFinish false true p.zm d 1 act pass.res)
        let cnt := popCount act
        let nx := popCount (act &&& sel)
        let s := (({ s with iss := { s.iss with slots := cnt } } : State).vCharge 2 cnt [dstAccesses d 1])
        (s.raw 5 (nx * x.accesses.1 + (cnt - nx) * y.accesses.1)).raw 6
          (nx * x.accesses.2 + (cnt - nx) * y.accesses.2) |>.done)
  | _, _ => s.enc .illegalOperand

def execVsel (c : Bool) (d a b : BitVec 8) (s : State) : Host.Outcome State Fault Refusal :=
  .next (s.vSelect (.vsel c d a b) d a b)

/-! ### Compares (R144, R145) -/

/-- R144, R145. A compare: its mask is written at issue and pends until the word's last slot has run. -/
def State.vCompare (s : State) (cls : Nat) (ok : Bool) (f : Word → Word → Bool × Nat) (i : Instr) (m : BitVec 3)
    (a b : BitVec 8) : State :=
  let p := s.vp
  match vSrcOf s.iss.lit a p.wa, vSrcOf s.iss.lit b p.wb with
  | some x, some y =>
    let ok := ok && x != .cy && y != .cy && widthsNone p.wd p.wa p.wb && p.rm == 0 && p.c == 0
    s.vWord ok [x, y] none (fun t s =>
      let act := s.active
      let s := s.takeRod i act (if act = 0 then none else some m.toNat)
      if act = 0 then s.done
      else
        let rs := (slotsOf act).map (fun k => (k, f (t.vRead 0 x k 0) (t.vRead 0 y k 0)))
        let tr := rs.foldl (fun v r => if r.2.1 then v ||| BitVec.ofNat 32 (2 ^ r.1) else v) 0#32
        let old := if p.zm then 0#32 else s.mask m.toNat &&& ~~~act
        let s := s.modMe (fun t => t.setMask m.toNat (old ||| tr))
        let s := s.raiseFlags (rs.foldl (fun v r => v ||| r.2.2) 0)
        let cnt := popCount act
        (({ s with iss := { s.iss with slots := cnt } } : State).vCharge cls cnt [x.accesses, y.accesses]).done)
  | _, _ => s.enc .illegalOperand

def execVcmpI (c : Bool) (k m : BitVec 3) (a b : BitVec 8) (s : State) : Host.Outcome State Fault Refusal :=
  .next (s.vCompare 2 (k.toNat ≤ 5) (fun x y => (intCond true k.toNat x y, 0)) (.vcmpI c k m a b) m a b)
def execVcmpN (c : Bool) (k m : BitVec 3) (a b : BitVec 8) (s : State) : Host.Outcome State Fault Refusal :=
  .next (s.vCompare 2 (k.toNat ≤ 5) (fun x y => (intCond false k.toNat x y, 0)) (.vcmpN c k m a b) m a b)
def execVfcmpF32 (c : Bool) (k m : BitVec 3) (a b : BitVec 8) (s : State) : Host.Outcome State Fault Refusal :=
  .next (s.vCompare 3 true (fun x y => fcmp k.toNat x y) (.vfcmpF32 c k m a b) m a b)

end Sys2Proof.Machine
end

