-- ==== Sys2Proof/Machine/VectorFp.lean ====
section
/-!
DEFINITION. The floating-point, conversion, special-function, cross-thread and random words of the V pipe (R147 to R161).
-/

namespace Sys2Proof.Machine

/-! ### Floating point (R147 to R150) -/

def formFp (rounds : Bool) : VForm := { cls := 3, widths := widthsNone, rounds := rounds, fp := true }

/-- An FP32 word: its result bits and flags from its operands' bits and the mode of R38 with the slot's draw. -/
def State.vFloat (s : State) (fm : VForm) (f : RMode → Nat → Nat → Nat → Nat × Nat) (i : Instr) (d : BitVec 8)
    (codes : List (BitVec 8 × BitVec 2)) : State :=
  let rm := s.vp.rm.toNat
  s.vArith fm i d codes (fun x y z draw =>
    let r := f (modeOf rm 32 draw) (loWord x).toNat (loWord y).toNat (loWord z).toNat
    (BitVec.ofNat 64 r.1, r.2))

/-- R148. A packed word: each lane in its own format, with its own flags. -/
def State.vPacked (s : State) (fm : VForm) (f : RMode → Nat → Nat → Nat → Nat × Nat) (i : Instr) (d : BitVec 8)
    (codes : List (BitVec 8 × BitVec 2)) : State :=
  let rm := s.vp.rm.toNat
  s.vArith fm i d codes (fun x y z draw =>
    let lo (v : DWord) : Nat := v.toNat % 2 ^ 16
    let hi (v : DWord) : Nat := v.toNat / 2 ^ 16 % 2 ^ 16
    let r0 := f (modeOf rm 16 draw) (lo x) (lo y) (lo z)
    let r1 := f (modeHi rm draw) (hi x) (hi y) (hi z)
    (BitVec.ofNat 64 (r0.1 + 2 ^ 16 * r1.1), r0.2 ||| r1.2))

/-- R149. A dot word of a format, with an addend when `add` is set. -/
def dot2 (f : FFmt) (add : Bool) (rm : RMode) (a b c : Nat) : Nat × Nat :=
  let lane (v j : Nat) : FVal := f.decode (v / 2 ^ (16 * j) % 2 ^ 16)
  let z := f32.decode c
  let ops := [lane a 0, lane a 1, lane b 0, lane b 1] ++ (if add then [z] else [])
  f32.sum rm ops ([(lane a 0).mul (lane b 0), (lane a 1).mul (lane b 1)] ++ (if add then [some z] else []))

def execVfaddF32 (c : Bool) (d a b : BitVec 8) (s : State) : Host.Outcome State Fault Refusal :=
  .next (s.vFloat (formFp true) (fun rm x y _ => f32.add rm x y) (.vfaddF32 c d a b) d [(a, s.vp.wa), (b, s.vp.wb)])
def execVfsubF32 (c : Bool) (d a b : BitVec 8) (s : State) : Host.Outcome State Fault Refusal :=
  .next (s.vFloat (formFp true) (fun rm x y _ => f32.sub rm x y) (.vfsubF32 c d a b) d [(a, s.vp.wa), (b, s.vp.wb)])
def execVfmulF32 (c : Bool) (d a b : BitVec 8) (s : State) : Host.Outcome State Fault Refusal :=
  .next (s.vFloat (formFp true) (fun rm x y _ => f32.mul rm x y) (.vfmulF32 c d a b) d [(a, s.vp.wa), (b, s.vp.wb)])
def execVfmaF32 (c : Bool) (d a b : BitVec 8) (s : State) : Host.Outcome State Fault Refusal :=
  .next (s.vFloat { formFp true with fourth := 1 } (fun rm x y z => f32.fma rm x y z) (.vfmaF32 c d a b) d [(a, s.vp.wa), (b, s.vp.wb)])
def execVfminF32 (c : Bool) (d a b : BitVec 8) (s : State) : Host.Outcome State Fault Refusal :=
  .next (s.vFloat (formFp false)
    (fun _ x y _ => let r := minMax false (BitVec.ofNat 32 x) (BitVec.ofNat 32 y); (r.1.toNat, r.2)) (.vfminF32 c d a b) d
    [(a, s.vp.wa), (b, s.vp.wb)])
def execVfmaxF32 (c : Bool) (d a b : BitVec 8) (s : State) : Host.Outcome State Fault Refusal :=
  .next (s.vFloat (formFp false)
    (fun _ x y _ => let r := minMax true (BitVec.ofNat 32 x) (BitVec.ofNat 32 y); (r.1.toNat, r.2)) (.vfmaxF32 c d a b) d
    [(a, s.vp.wa), (b, s.vp.wb)])
def execVfaddF16x2 (c : Bool) (d a b : BitVec 8) (s : State) : Host.Outcome State Fault Refusal :=
  .next (s.vPacked (formFp true) (fun rm x y _ => f16.add rm x y) (.vfaddF16x2 c d a b) d [(a, s.vp.wa), (b, s.vp.wb)])
def execVfmulF16x2 (c : Bool) (d a b : BitVec 8) (s : State) : Host.Outcome State Fault Refusal :=
  .next (s.vPacked (formFp true) (fun rm x y _ => f16.mul rm x y) (.vfmulF16x2 c d a b) d [(a, s.vp.wa), (b, s.vp.wb)])
def execVfmaF16x2 (c : Bool) (d a b : BitVec 8) (s : State) : Host.Outcome State Fault Refusal :=
  .next (s.vPacked { formFp true with fourth := 1 } (fun rm x y z => f16.fma rm x y z) (.vfmaF16x2 c d a b) d
    [(a, s.vp.wa), (b, s.vp.wb)])
def execVfaddBf16x2 (c : Bool) (d a b : BitVec 8) (s : State) : Host.Outcome State Fault Refusal :=
  .next (s.vPacked (formFp true) (fun rm x y _ => bf16.add rm x y) (.vfaddBf16x2 c d a b) d [(a, s.vp.wa), (b, s.vp.wb)])
def execVfmulBf16x2 (c : Bool) (d a b : BitVec 8) (s : State) : Host.Outcome State Fault Refusal :=
  .next (s.vPacked (formFp true) (fun rm x y _ => bf16.mul rm x y) (.vfmulBf16x2 c d a b) d [(a, s.vp.wa), (b, s.vp.wb)])
def execVfmaBf16x2 (c : Bool) (d a b : BitVec 8) (s : State) : Host.Outcome State Fault Refusal :=
  .next (s.vPacked { formFp true with fourth := 1 } (fun rm x y z => bf16.fma rm x y z) (.vfmaBf16x2 c d a b) d
    [(a, s.vp.wa), (b, s.vp.wb)])
def execVdot2F16 (c : Bool) (d a b : BitVec 8) (s : State) : Host.Outcome State Fault Refusal :=
  .next (s.vFloat { formFp true with fourth := 2 } (fun rm x y z => dot2 f16 (s.vp.c != 0) rm x y z) (.vdot2F16 c d a b) d
    [(a, s.vp.wa), (b, s.vp.wb)])
def execVdot2Bf16 (c : Bool) (d a b : BitVec 8) (s : State) : Host.Outcome State Fault Refusal :=
  .next (s.vFloat { formFp true with fourth := 2 } (fun rm x y z => dot2 bf16 (s.vp.c != 0) rm x y z) (.vdot2Bf16 c d a b) d
    [(a, s.vp.wa), (b, s.vp.wb)])

def execVfabs (c : Bool) (d a : BitVec 8) (s : State) : Host.Outcome State Fault Refusal :=
  .next (s.vFloat (formFp false) (fun _ x _ _ => (x % 2 ^ 31, 0)) (.vfabs c d a) d [(a, s.vp.wa)])
def execVfneg (c : Bool) (d a : BitVec 8) (s : State) : Host.Outcome State Fault Refusal :=
  .next (s.vFloat (formFp false) (fun _ x _ _ => (x ^^^ 2 ^ 31, 0)) (.vfneg c d a) d [(a, s.vp.wa)])
def execVfclass (c : Bool) (d a : BitVec 8) (s : State) : Host.Outcome State Fault Refusal :=
  .next (s.vFloat (formFp false) (fun _ x _ _ => (2 ^ fclass (BitVec.ofNat 32 x), 0)) (.vfclass c d a) d [(a, s.vp.wa)])
def execVfrnd (c : Bool) (d a : BitVec 8) (s : State) : Host.Outcome State Fault Refusal :=
  .next (s.vFloat (formFp true) (fun rm x _ _ => let r := frnd rm (BitVec.ofNat 32 x); (r.1.toNat, r.2)) (.vfrnd c d a) d
    [(a, s.vp.wa)])

/-! ### Conversions (R151 to R153) -/

/-- The fixed float format of a format code of R50. -/
def fmtOfCode (c : Nat) : FFmt := if c = 1 then f16 else if c = 2 then bf16 else f32

/-- R151. The value of a source of a format code. -/
def cvtSource (src x : Nat) : FVal :=
  if src = 3 then (let v := signedOf 32 x; .fin (v < 0) v.natAbs 0)
  else if src = 4 then .fin false x 0
  else (fmtOfCode src).decode (if src = 0 then x else x % 2 ^ 16)

/-- R109, R151. A conversion between fixed formats: bits and flags. -/
def cvt (sat : Bool) (src dst : Nat) (rm : RMode) (x : Nat) : Nat × Nat :=
  let ints := 3 ≤ src && 3 ≤ dst
  if ints then
    if !sat then (x, 0)
    else if src = 3 then (if 2 ^ 31 ≤ x then (0, flagSAT) else (x, 0))
    else (if 2 ^ 31 ≤ x then (2 ^ 31 - 1, flagSAT) else (x, 0))
  else if 3 ≤ dst then toInteger rm (dst == 3) sat (cvtSource src x)
  else (fmtOfCode dst).convert rm (sat && src ≤ 2) (cvtSource src x)

/-- R151. The conversions that are exact and take no mode. -/
def cvtExact (src dst : Nat) : Bool := ((src == 1 || src == 2) && dst == 0) || (3 ≤ src && 3 ≤ dst)

/-- R50, R151. VCVT; a pair of equal formats or an unassigned format is an unassigned function code. -/
def State.vConvert (s : State) (i : Instr) (sat : Bool) (src dst : Nat) (d a : BitVec 8) : State :=
  if src = dst ∨ 5 ≤ src ∨ 5 ≤ dst then s.enc .illegalOpcode
  else
    let rm := s.vp.rm.toNat
    let w := if dst = 1 ∨ dst = 2 then 16 else 32
    s.vArith (formFp (!cvtExact src dst)) i d [(a, s.vp.wa)] (fun x _ _ draw =>
      let r := cvt sat src dst (modeOf rm w draw) (loWord x).toNat
      (BitVec.ofNat 64 r.1, r.2))

def execVcvt (c : Bool) (d a : BitVec 8) (x : BitVec 1) (f t : BitVec 3) (s : State) : Host.Outcome State Fault Refusal :=
  .next (s.vConvert (.vcvt c d a x f t) (x == 1) f.toNat t.toNat d a)

/-- R51. The lane fits the container of the format. -/
def laneOk (f : Word) (l : Nat) : Bool := fmContainer f == 4 || l < 4

/-- R152. VQCVT: a code into one lane of D. -/
def State.vPackCode (s : State) (i : Instr) (l f : Nat) (d a : BitVec 8) : State :=
  let fm := s.old.fm.get f
  let rm := s.vp.rm.toNat
  let cw := fmContainer fm
  let form : VForm := { formFp true with readsD := true, ok := fmUsable s.old.fm f && laneOk fm l }
  s.vArith form i d [(a, s.vp.wa)] (fun x y _ draw =>
    let r := narrowEncode fm (modeOf rm 16 draw) (f32.decode (loWord x).toNat)
    let old := (loWord y).toNat
    let lane := old / 2 ^ (cw * l) % 2 ^ cw
    (BitVec.ofNat 64 (old - lane * 2 ^ (cw * l) + r.1 * 2 ^ (cw * l)), r.2))

/-- R153. VQEXP: one lane's code as FP32. -/
def State.vExpandCode (s : State) (i : Instr) (l f : Nat) (d a : BitVec 8) : State :=
  let fm := s.old.fm.get f
  let rm := s.vp.rm.toNat
  let cw := fmContainer fm
  let form : VForm := { formFp true with ok := fmUsable s.old.fm f && laneOk fm l }
  s.vArith form i d [(a, s.vp.wa)] (fun x _ _ draw =>
    let r := match narrowDecode fm ((loWord x).toNat / 2 ^ (cw * l) % 2 ^ cw) with
      | .nan _ => (f32.nanBits, 0)
      | .inf n => (f32.infBits n, 0)
      | .fin n m e => f32.round (modeOf rm 32 draw) n m e
    (BitVec.ofNat 64 r.1, r.2))

def execVqcvt (c : Bool) (d a : BitVec 8) (l f : BitVec 3) (s : State) : Host.Outcome State Fault Refusal :=
  .next (s.vPackCode (.vqcvt c d a l f) l.toNat f.toNat d a)
def execVqexp (c : Bool) (d a : BitVec 8) (l f : BitVec 3) (s : State) : Host.Outcome State Fault Refusal :=
  .next (s.vExpandCode (.vqexp c d a l f) l.toNat f.toNat d a)

/-! ### Special functions (R154, R155) -/

/-- R154, R155. VSFU: each slot's result is on its way at once and is delivered later, with its flags; the zeros of zero
mode commit with the results (R69). -/
def State.vSpecial (s : State) (i : Instr) (fn : Nat) (d a : BitVec 8) : State :=
  let p := s.vp
  match vSrcOf s.iss.lit a p.wa with
  | none => s.enc .illegalOperand
  | some x =>
    let ok := x != .cy && widthsNone p.wd p.wa p.wb && p.rm == 0 && p.c == 0 && s.old.vDstOk d 1 false
    s.vWord ok [x] (some (dstReg d, 1)) (fun t s =>
      let act := s.active
      let s := s.takeRod i act none
      if act = 0 then s.done
      else
        let r := dstReg d
        let seq := s.me.vseq
        let lates := (slotsOf act).map (fun k =>
          let v := sfu fn (t.vRead 0 x k 0)
          ({ reg := r, slot := k, val := v.1, flags := v.2, seq := seq, sfu := true, delivered := false } : Late))
        let zeros := if p.zm then (t.inactive act).map (fun k =>
          ({ reg := r, slot := k, val := 0, flags := 0, seq := seq, sfu := true, delivered := true } : Late)) else []
        let s := s.modMe (fun t => (lates ++ zeros).foldl Strand.lateV t)
        let s := lates.foldl (fun (s : State) x => s.due (.specialFunctionDelivery s.iss.g x.slot)) s
        let cnt := popCount act
        (({ s with iss := { s.iss with slots := cnt } } : State).vCharge 4 cnt [x.accesses, dstAccesses d 1]).done)

def execVrcp (c : Bool) (d a : BitVec 8) (s : State) : Host.Outcome State Fault Refusal :=
  .next (s.vSpecial (.vrcp c d a) 0 d a)
def execVrsq (c : Bool) (d a : BitVec 8) (s : State) : Host.Outcome State Fault Refusal :=
  .next (s.vSpecial (.vrsq c d a) 1 d a)
def execVsqrt (c : Bool) (d a : BitVec 8) (s : State) : Host.Outcome State Fault Refusal :=
  .next (s.vSpecial (.vsqrt c d a) 2 d a)
def execVexp2 (c : Bool) (d a : BitVec 8) (s : State) : Host.Outcome State Fault Refusal :=
  .next (s.vSpecial (.vexp2 c d a) 3 d a)
def execVlog2 (c : Bool) (d a : BitVec 8) (s : State) : Host.Outcome State Fault Refusal :=
  .next (s.vSpecial (.vlog2 c d a) 4 d a)
def execVsin (c : Bool) (d a : BitVec 8) (s : State) : Host.Outcome State Fault Refusal :=
  .next (s.vSpecial (.vsin c d a) 5 d a)
def execVcos (c : Bool) (d a : BitVec 8) (s : State) : Host.Outcome State Fault Refusal :=
  .next (s.vSpecial (.vcos c d a) 6 d a)
def execVtanh (c : Bool) (d a : BitVec 8) (s : State) : Host.Outcome State Fault Refusal :=
  .next (s.vSpecial (.vtanh c d a) 7 d a)

/-! ### Cross-thread words (R156 to R159) -/

/-- A word whose slots may read registers of other slots: `f` gives a slot's result from the strand as it read it. DESIGN CHOICE
(log 121): every active slot is charged its operand accesses, a VSHFL slot that names a slot outside LIVE among them. -/
def State.vCross (s : State) (i : Instr) (ok : Bool) (x y : VSrc) (d : BitVec 8) (f : Strand → Word → Nat → Word) : State :=
  let p := s.vp
  let ok := ok && x != .cy && y != .cy && widthsNone p.wd p.wa p.wb && p.rm == 0 && p.c == 0 && s.old.vDstOk d 1 true
  s.vWord ok [x, y] (if dstN d then none else some (dstReg d, 1)) (fun t s =>
    let act := s.active
    let s := s.takeRod i act none
    if act = 0 then s.done
    else
      let res := (slotsOf act).map (fun k => (k, (f t act k).setWidth 64))
      let s := s.modMe (fun t => t.vFinish false true p.zm d 1 act res)
      let cnt := popCount act
      (({ s with iss := { s.iss with slots := cnt } } : State).vCharge 2 cnt [x.accesses, y.accesses, dstAccesses d 1]).done)

/-- R156. VSHFL. DESIGN CHOICE (log 138): an index outside LIVE gives 0 also where A is a uniform or constant code; the rule's
pseudocode says so, and its words give every slot A's value. -/
def State.vShuffle (s : State) (i : Instr) (d a b : BitVec 8) : State :=
  match vSrcOf s.iss.lit a s.vp.wa, vSrcOf s.iss.lit b s.vp.wb with
  | some x, some y =>
    s.vCross i true x y d (fun t _ k =>
      let j := (t.vRead 0 y k 0).toNat % 32
      if t.info.live.getLsbD j then t.vRead 0 x j 0 else 0)
  | _, _ => s.enc .illegalOperand

/-- R157. VROT; B is an inline integer, a uniform register or the line literal. -/
def State.vRotate (s : State) (i : Instr) (d a b : BitVec 8) : State :=
  match vSrcOf s.iss.lit a s.vp.wa, vSrcOf s.iss.lit b s.vp.wb with
  | some x, some y =>
    let bOk := (0xA0#8 ≤ b && b ≤ 0xAF#8) || 0xBF#8 ≤ b
    s.vCross i bOk x y d (fun t act k =>
      let l := slotsOf act
      let r := (t.vRead 0 y 0 0).toInt
      let pos : Int := (l.idxOf k : Nat)
      t.vRead 0 x (l.getD ((pos + r) % (l.length : Nat)).toNat 0) 0)
  | _, _ => s.enc .illegalOperand

def execVshfl (c : Bool) (d a b : BitVec 8) (s : State) : Host.Outcome State Fault Refusal :=
  .next (s.vShuffle (.vshfl c d a b) d a b)
def execVrot (c : Bool) (d a b : BitVec 8) (s : State) : Host.Outcome State Fault Refusal :=
  .next (s.vRotate (.vrot c d a b) d a b)

/-- R158. One combination of VREDU, with its flags. -/
def reduOp (f : Nat) (x y : Word) : Word × Nat :=
  match f with
  | 0 => (x + y, 0)
  | 1 => (aluMinI 32 x y, 0)
  | 2 => (aluMaxI 32 x y, 0)
  | 3 => (aluMinN 32 x y, 0)
  | 4 => (aluMaxN 32 x y, 0)
  | 5 => (x &&& y, 0)
  | 6 => (x ||| y, 0)
  | 7 => (x ^^^ y, 0)
  | 8 => let r := f32.add rne x.toNat y.toNat; (BitVec.ofNat 32 r.1, r.2)
  | 9 => minMax false x y
  | _ => minMax true x y

/-- The reduction of a list in order. -/
def reduce (f : Nat) : List Word → Word × Nat
  | [] => (0, 0)
  | x :: l => l.foldl (fun a y => let r := reduOp f a.1 y; (r.1, a.2 ||| r.2)) (x, 0)

/-- R158. VREDU: every active slot gets the reduction over the active slots. RM is 0 to 5 and is ignored. -/
def State.vReduce (s : State) (i : Instr) (f : Nat) (d a : BitVec 8) : State :=
  let p := s.vp
  if 0x0A < f then s.enc .illegalOpcode
  else
    match vSrcOf s.iss.lit a p.wa with
    | none => s.enc .illegalOperand
    | some x =>
      let ok := x != .cy && widthsNone p.wd p.wa p.wb && p.rm.toNat ≤ 5 && p.c == 0 && s.old.vDstOk d 1 false
      s.vWord ok [x] (some (dstReg d, 1)) (fun t s =>
        let act := s.active
        let s := s.takeRod i act none
        if act = 0 then s.done
        else
          let r := reduce f ((slotsOf act).map (fun k => t.vRead 0 x k 0))
          let s := s.modMe (fun t => t.vFinish false false p.zm d 1 act ((slotsOf act).map (fun k => (k, r.1.setWidth 64))))
          let s := s.raiseFlags r.2
          let cnt := popCount act
          (({ s with iss := { s.iss with slots := cnt } } : State).vCharge (if 8 ≤ f then 3 else 2) cnt
            [x.accesses, dstAccesses d 1]).done)

def execVredu (c : Bool) (d a f : BitVec 8) (s : State) : Host.Outcome State Fault Refusal :=
  .next (s.vReduce (.vredu c d a f) f.toNat d a)

/-- R159. Element i of e bytes of an octet of words. -/
def octetElem (e : Nat) (o : List Word) (i : Nat) : List Byte := ((bytesOfWords o).drop (e * i)).take e

/-- R159. Write a group of registers for a slot. -/
def Strand.writeOctet (t : Strand) (r k : Nat) : Nat → List Word → Strand
  | _, [] => t
  | i, w :: l => (t.writeV (r + i) k w).writeOctet r k (i + 1) l

/-- R159. VTRANS of elements of e bytes. -/
def State.vTranspose (s : State) (i : Instr) (e : Nat) (d a : BitVec 8) : State :=
  let p := s.vp
  match vSrcOf s.iss.lit a p.wa with
  | none => s.enc .illegalOperand
  | some x =>
    let ok := p.wd == 3 && p.wa == 3 && p.wb == 0 && p.rm == 0 && p.c == 0 && s.old.vDstOk d 8 false
    s.vWord ok [x] (some (dstReg d, 8)) (fun t s =>
      let act := s.active
      let s := s.takeRod i act none
      if act = 0 then s.done
      else
        let g := 32 / e
        let octet (k : Nat) : List Word := (List.range 8).map (fun j => t.vRead 0 x k j)
        let row (k : Nat) : List Word :=
          let base := g * (k / g)
          wordsOf ((List.range g).map (fun j =>
            if t.info.live.getLsbD (base + j) then octetElem e (octet (base + j)) (k % g) else natLe e 0)).flatten
        let s := s.modMe (fun t =>
          let t := (slotsOf act).foldl (fun t k => t.writeOctet (dstReg d) k 0 (row k)) t
          if p.zm then (t.inactive act).foldl (fun t k => t.writeOctet (dstReg d) k 0 (List.replicate 8 0)) t else t)
        let cnt := popCount act
        (({ s with iss := { s.iss with slots := cnt } } : State).vCharge 2 cnt [x.accesses, dstAccesses d 8]).done)

/-- The element size code of VTRANS; code 3 is unassigned. -/
def execVtrans (c : Bool) (d a : BitVec 8) (e : BitVec 2) (s : State) : Host.Outcome State Fault Refusal :=
  .next (if e = 3 then s.enc .illegalOpcode else s.vTranspose (.vtrans c d a e) (4 / 2 ^ e.toNat) d a)

/-! ### The generator (R160, R161) -/

def execVrand (c : Bool) (d : BitVec 8) (s : State) : Host.Outcome State Fault Refusal :=
  let p := s.vp
  let ok := widthsNone p.wd p.wa p.wb && p.rm == 0 && p.c == 0 && s.old.vDstOk d 1 true
  .next (s.vWord ok [] (if dstN d then none else some (dstReg d, 1)) (fun _ s =>
    let act := s.active
    let s := s.takeRod (.vrand c d) act none
    if act = 0 then s.done
    else
      let pass := vPass s.old.rngKey true (fun _ _ draw => (draw.setWidth 64, 0)) (slotsOf act) { ctr := s.old.rngCtr }
      let s := (s.modMe (fun t => t.vFinish false true p.zm d 1 act pass.res)).setRngCtr pass.ctr
      let cnt := popCount act
      (({ s with iss := { s.iss with slots := cnt } } : State).vCharge 2 cnt [dstAccesses d 1]).done))

end Sys2Proof.Machine
end

