-- ==== Sys2Proof/Machine/Dispatch.lean ====
section
/-!
DEFINITION. One arm for each constructor of `Instr`.
-/

namespace Sys2Proof.Machine

def exec (i : Instr) (s : State) : Host.Outcome State Fault Refusal :=
  match i with
  | .unop => Sys2Proof.Machine.execUnop s
  | .uadd c d a b => Sys2Proof.Machine.execUadd c d a b s
  | .usub c d a b => Sys2Proof.Machine.execUsub c d a b s
  | .umul c d a b => Sys2Proof.Machine.execUmul c d a b s
  | .umulhI c d a b => Sys2Proof.Machine.execUmulhI c d a b s
  | .umulhN c d a b => Sys2Proof.Machine.execUmulhN c d a b s
  | .uand c d a b => Sys2Proof.Machine.execUand c d a b s
  | .uor c d a b => Sys2Proof.Machine.execUor c d a b s
  | .uxor c d a b => Sys2Proof.Machine.execUxor c d a b s
  | .uandn c d a b => Sys2Proof.Machine.execUandn c d a b s
  | .ushl c d a b => Sys2Proof.Machine.execUshl c d a b s
  | .ushr c d a b => Sys2Proof.Machine.execUshr c d a b s
  | .usar c d a b => Sys2Proof.Machine.execUsar c d a b s
  | .uminI c d a b => Sys2Proof.Machine.execUminI c d a b s
  | .uminN c d a b => Sys2Proof.Machine.execUminN c d a b s
  | .umaxI c d a b => Sys2Proof.Machine.execUmaxI c d a b s
  | .umaxN c d a b => Sys2Proof.Machine.execUmaxN c d a b s
  | .usltI c d a b => Sys2Proof.Machine.execUsltI c d a b s
  | .usltN c d a b => Sys2Proof.Machine.execUsltN c d a b s
  | .useq c d a b => Sys2Proof.Machine.execUseq c d a b s
  | .uaddi c d imm => Sys2Proof.Machine.execUaddi c d imm s
  | .umovi c d imm => Sys2Proof.Machine.execUmovi c d imm s
  | .ului c d imm => Sys2Proof.Machine.execUlui c d imm s
  | .uclz c d a => Sys2Proof.Machine.execUclz c d a s
  | .upopc c d a => Sys2Proof.Machine.execUpopc c d a s
  | .ubrev c d a => Sys2Proof.Machine.execUbrev c d a s
  | .usext8 c d a => Sys2Proof.Machine.execUsext8 c d a s
  | .usext16 c d a => Sys2Proof.Machine.execUsext16 c d a s
  | .uneg c d a => Sys2Proof.Machine.execUneg c d a s
  | .uabs c d a => Sys2Proof.Machine.execUabs c d a s
  | .ubfe c d a b => Sys2Proof.Machine.execUbfe c d a b s
  | .ubfi c d a b => Sys2Proof.Machine.execUbfi c d a b s
  | .ufadd c d a b => Sys2Proof.Machine.execUfadd c d a b s
  | .ufmul c d a b => Sys2Proof.Machine.execUfmul c d a b s
  | .ufslt c d a b => Sys2Proof.Machine.execUfslt c d a b s
  | .uld c d a o => Sys2Proof.Machine.execUld c d a o s
  | .ust c d a o => Sys2Proof.Machine.execUst c d a o s
  | .usr c d a => Sys2Proof.Machine.execUsr c d a s
  | .usw c d a => Sys2Proof.Machine.execUsw c d a s
  | .returnStackRegisterWrite r v => Sys2Proof.Machine.execReturnStackRegisterWrite r v s
  | .rngkeyWrite r v => Sys2Proof.Machine.execRngkeyWrite r v s
  | .sfAccess op => Sys2Proof.Machine.execSfAccess op s
  | .upfx d a b w imm => Sys2Proof.Machine.execUpfx d a b w imm s
  | .vpfx m r z d a b c => Sys2Proof.Machine.execVpfx m r z d a b c s
  | .vadd c d a b => Sys2Proof.Machine.execVadd c d a b s
  | .vsub c d a b => Sys2Proof.Machine.execVsub c d a b s
  | .vmul c d a b => Sys2Proof.Machine.execVmul c d a b s
  | .vmulhI c d a b => Sys2Proof.Machine.execVmulhI c d a b s
  | .vmulhN c d a b => Sys2Proof.Machine.execVmulhN c d a b s
  | .vmad c d a b => Sys2Proof.Machine.execVmad c d a b s
  | .vand c d a b => Sys2Proof.Machine.execVand c d a b s
  | .vor c d a b => Sys2Proof.Machine.execVor c d a b s
  | .vxor c d a b => Sys2Proof.Machine.execVxor c d a b s
  | .vandn c d a b => Sys2Proof.Machine.execVandn c d a b s
  | .vshl c d a b => Sys2Proof.Machine.execVshl c d a b s
  | .vshr c d a b => Sys2Proof.Machine.execVshr c d a b s
  | .vsar c d a b => Sys2Proof.Machine.execVsar c d a b s
  | .vminI c d a b => Sys2Proof.Machine.execVminI c d a b s
  | .vminN c d a b => Sys2Proof.Machine.execVminN c d a b s
  | .vmaxI c d a b => Sys2Proof.Machine.execVmaxI c d a b s
  | .vmaxN c d a b => Sys2Proof.Machine.execVmaxN c d a b s
  | .vbfe c d a b => Sys2Proof.Machine.execVbfe c d a b s
  | .vbfi c d a b => Sys2Proof.Machine.execVbfi c d a b s
  | .vsel c d a b => Sys2Proof.Machine.execVsel c d a b s
  | .vcmpI c k m a b => Sys2Proof.Machine.execVcmpI c k m a b s
  | .vcmpN c k m a b => Sys2Proof.Machine.execVcmpN c k m a b s
  | .vfcmpF32 c k m a b => Sys2Proof.Machine.execVfcmpF32 c k m a b s
  | .vclz c d a => Sys2Proof.Machine.execVclz c d a s
  | .vpopc c d a => Sys2Proof.Machine.execVpopc c d a s
  | .vbrev c d a => Sys2Proof.Machine.execVbrev c d a s
  | .vsext8 c d a => Sys2Proof.Machine.execVsext8 c d a s
  | .vsext16 c d a => Sys2Proof.Machine.execVsext16 c d a s
  | .vneg c d a => Sys2Proof.Machine.execVneg c d a s
  | .vabs c d a => Sys2Proof.Machine.execVabs c d a s
  | .vmov c d a => Sys2Proof.Machine.execVmov c d a s
  | .vfaddF32 c d a b => Sys2Proof.Machine.execVfaddF32 c d a b s
  | .vfsubF32 c d a b => Sys2Proof.Machine.execVfsubF32 c d a b s
  | .vfmulF32 c d a b => Sys2Proof.Machine.execVfmulF32 c d a b s
  | .vfmaF32 c d a b => Sys2Proof.Machine.execVfmaF32 c d a b s
  | .vfminF32 c d a b => Sys2Proof.Machine.execVfminF32 c d a b s
  | .vfmaxF32 c d a b => Sys2Proof.Machine.execVfmaxF32 c d a b s
  | .vfaddF16x2 c d a b => Sys2Proof.Machine.execVfaddF16x2 c d a b s
  | .vfmulF16x2 c d a b => Sys2Proof.Machine.execVfmulF16x2 c d a b s
  | .vfmaF16x2 c d a b => Sys2Proof.Machine.execVfmaF16x2 c d a b s
  | .vfaddBf16x2 c d a b => Sys2Proof.Machine.execVfaddBf16x2 c d a b s
  | .vfmulBf16x2 c d a b => Sys2Proof.Machine.execVfmulBf16x2 c d a b s
  | .vfmaBf16x2 c d a b => Sys2Proof.Machine.execVfmaBf16x2 c d a b s
  | .vdot2F16 c d a b => Sys2Proof.Machine.execVdot2F16 c d a b s
  | .vdot2Bf16 c d a b => Sys2Proof.Machine.execVdot2Bf16 c d a b s
  | .vfabs c d a => Sys2Proof.Machine.execVfabs c d a s
  | .vfneg c d a => Sys2Proof.Machine.execVfneg c d a s
  | .vfclass c d a => Sys2Proof.Machine.execVfclass c d a s
  | .vfrnd c d a => Sys2Proof.Machine.execVfrnd c d a s
  | .vcvt c d a x sc t => Sys2Proof.Machine.execVcvt c d a x sc t s
  | .vqcvt c d a l f => Sys2Proof.Machine.execVqcvt c d a l f s
  | .vqexp c d a l f => Sys2Proof.Machine.execVqexp c d a l f s
  | .vrcp c d a => Sys2Proof.Machine.execVrcp c d a s
  | .vrsq c d a => Sys2Proof.Machine.execVrsq c d a s
  | .vsqrt c d a => Sys2Proof.Machine.execVsqrt c d a s
  | .vexp2 c d a => Sys2Proof.Machine.execVexp2 c d a s
  | .vlog2 c d a => Sys2Proof.Machine.execVlog2 c d a s
  | .vsin c d a => Sys2Proof.Machine.execVsin c d a s
  | .vcos c d a => Sys2Proof.Machine.execVcos c d a s
  | .vtanh c d a => Sys2Proof.Machine.execVtanh c d a s
  | .vshfl c d a b => Sys2Proof.Machine.execVshfl c d a b s
  | .vrot c d a b => Sys2Proof.Machine.execVrot c d a b s
  | .vredu c d a f => Sys2Proof.Machine.execVredu c d a f s
  | .vtrans c d a e => Sys2Proof.Machine.execVtrans c d a e s
  | .vrand c d => Sys2Proof.Machine.execVrand c d s
  | .vld c d a o => Sys2Proof.Machine.execVld c d a o s
  | .vst c d a o => Sys2Proof.Machine.execVst c d a o s
  | .vlds c d a o => Sys2Proof.Machine.execVlds c d a o s
  | .vsts c d a o => Sys2Proof.Machine.execVsts c d a o s
  | .vatom c d a sc r p => Sys2Proof.Machine.execVatom c d a sc r p s
  | .vred c d a sc r p => Sys2Proof.Machine.execVred c d a sc r p s
  | .vatoms c d a sc r p => Sys2Proof.Machine.execVatoms c d a sc r p s
  | .vcas c d a b => Sys2Proof.Machine.execVcas c d a b s
  | .vcass c d a b => Sys2Proof.Machine.execVcass c d a b s
  | .vldfe c d a o => Sys2Proof.Machine.execVldfe c d a o s
  | .vstef c d a o => Sys2Proof.Machine.execVstef c d a o s
  | .vpref c l a o => Sys2Proof.Machine.execVpref c l a o s
  | .vldpk c d a o => Sys2Proof.Machine.execVldpk c d a o s
  | .vspfeEmpty c a => Sys2Proof.Machine.execVspfeEmpty c a s
  | .vspfeFull c a => Sys2Proof.Machine.execVspfeFull c a s
  | .vspfeGet c d a => Sys2Proof.Machine.execVspfeGet c d a s
  | .mma c t f a b => Sys2Proof.Machine.execMma c t f a b s
  | .mzero c t => Sys2Proof.Machine.execMzero c t s
  | .mtov c t k a => Sys2Proof.Machine.execMtov c t k a s
  | .mfromv c t k a => Sys2Proof.Machine.execMfromv c t k a s
  | .mdrain c t a x h => Sys2Proof.Machine.execMdrain c t a x h s
  | .mrp c t a => Sys2Proof.Machine.execMrp c t a s
  | .cpyG2s c h a => Sys2Proof.Machine.execCpyG2s c h a s
  | .cpyS2g c h a => Sys2Proof.Machine.execCpyS2g c h a s
  | .cpyS2gAdd c h a => Sys2Proof.Machine.execCpyS2gAdd c h a s
  | .cpyG2g c h a => Sys2Proof.Machine.execCpyG2g c h a s
  | .cpyS2s c h a => Sys2Proof.Machine.execCpyS2s c h a s
  | .cpyGate c h a => Sys2Proof.Machine.execCpyGate c h a s
  | .ckick c h a b => Sys2Proof.Machine.execCkick c h a b s
  | .hwait c d h => Sys2Proof.Machine.execHwait c d h s
  | .htest c d h => Sys2Proof.Machine.execHtest c d h s
  | .hcancel c h => Sys2Proof.Machine.execHcancel c h s
  | .hmove c g h => Sys2Proof.Machine.execHmove c g h s
  | .hexport c d h => Sys2Proof.Machine.execHexport c d h s
  | .himport c g a => Sys2Proof.Machine.execHimport c g a s
  | .bbinit c d a => Sys2Proof.Machine.execBbinit c d a s
  | .bbexpect c d a => Sys2Proof.Machine.execBbexpect c d a s
  | .bbarrive c d a => Sys2Proof.Machine.execBbarrive c d a s
  | .bbwait c d a => Sys2Proof.Machine.execBbwait c d a s
  | .bbtest c d a => Sys2Proof.Machine.execBbtest c d a s
  | .br c a k o => Sys2Proof.Machine.execBr c a k o s
  | .jmp c o => Sys2Proof.Machine.execJmp c o s
  | .call c o => Sys2Proof.Machine.execCall c o s
  | .loop c d imm => Sys2Proof.Machine.execLoop c d imm s
  | .ret c => Sys2Proof.Machine.execRet c s
  | .bri c a => Sys2Proof.Machine.execBri c a s
  | .calli c a => Sys2Proof.Machine.execCalli c a s
  | .yield c => Sys2Proof.Machine.execYield c s
  | .exit c => Sys2Proof.Machine.execExit c s
  | .tret c => Sys2Proof.Machine.execTret c s
  | .sdrain c => Sys2Proof.Machine.execSdrain c s
  | .fence c sc k => Sys2Proof.Machine.execFence c sc k s
  | .trap c d => Sys2Proof.Machine.execTrap c d s
  | .mget c d a => Sys2Proof.Machine.execMget c d a s
  | .mset c d a => Sys2Proof.Machine.execMset c d a s
  | .mand c d a => Sys2Proof.Machine.execMand c d a s
  | .mandn c d a => Sys2Proof.Machine.execMandn c d a s
  | .mor c d a => Sys2Proof.Machine.execMor c d a s
  | .mxor c d a => Sys2Proof.Machine.execMxor c d a s
  | .mlive c d => Sys2Proof.Machine.execMlive c d s
  | .mpopc c d a => Sys2Proof.Machine.execMpopc c d a s
  | .mfirst c d a => Sys2Proof.Machine.execMfirst c d a s
  | .mput c d a => Sys2Proof.Machine.execMput c d a s
  | .mtake c d a => Sys2Proof.Machine.execMtake c d a s
  | .bar c sc n => Sys2Proof.Machine.execBar c sc n s
  | .bara c sc n a => Sys2Proof.Machine.execBara c sc n a s
  | .barw c sc n a => Sys2Proof.Machine.execBarw c sc n a s
  | .bard c sc n => Sys2Proof.Machine.execBard c sc n s
  | .barj c sc n a => Sys2Proof.Machine.execBarj c sc n a s
  | .spawn c d a => Sys2Proof.Machine.execSpawn c d a s
  | .qpush c d a => Sys2Proof.Machine.execQpush c d a s
  | .qpop c d a => Sys2Proof.Machine.execQpop c d a s
  | .qtrypush c d a => Sys2Proof.Machine.execQtrypush c d a s
  | .qtrypop c d a => Sys2Proof.Machine.execQtrypop c d a s
  | .tlsig c d a => Sys2Proof.Machine.execTlsig c d a s
  | .tlwait c d a => Sys2Proof.Machine.execTlwait c d a s
  | .tlread c d a => Sys2Proof.Machine.execTlread c d a s
  | .coll c h a => Sys2Proof.Machine.execColl c h a s
  | .asdef c n a => Sys2Proof.Machine.execAsdef c n a s
  | .astouch c d a => Sys2Proof.Machine.execAstouch c d a s
  | .asage c d => Sys2Proof.Machine.execAsage c d s
  | .asq c d a => Sys2Proof.Machine.execAsq c d a s
  | .asretry c a => Sys2Proof.Machine.execAsretry c a s
  | .erd c d a => Sys2Proof.Machine.execErd c d a s
  | .ebkt c d a => Sys2Proof.Machine.execEbkt c d a s
  | .eop c d a => Sys2Proof.Machine.execEop c d a s
  | .cntrd c d a => Sys2Proof.Machine.execCntrd c d a s
  | .tstamp c d => Sys2Proof.Machine.execTstamp c d s
  | .trd c d a => Sys2Proof.Machine.execTrd c d a s
  | .twr c d a => Sys2Proof.Machine.execTwr c d a s
  | .packetFetch g => Sys2Proof.Machine.execPacketFetch g s
  | .vWordCompletion g => Sys2Proof.Machine.execVWordCompletion g s
  | .specialFunctionDelivery g k => Sys2Proof.Machine.execSpecialFunctionDelivery g k s
  | .scratchpadResultDelivery g k => Sys2Proof.Machine.execScratchpadResultDelivery g k s
  | .globalLoadCompletion id => Sys2Proof.Machine.execGlobalLoadCompletion id s
  | .yieldWindowExpiry g => Sys2Proof.Machine.execYieldWindowExpiry g s
  | .issueStarvationPromotion g => Sys2Proof.Machine.execIssueStarvationPromotion g s
  | .storeQueueTranslation g => Sys2Proof.Machine.execStoreQueueTranslation g s
  | .storeArrivesHome core id => Sys2Proof.Machine.execStoreArrivesHome core id s
  | .pageWalkStart die => Sys2Proof.Machine.execPageWalkStart die s
  | .pageWalkComplete die id => Sys2Proof.Machine.execPageWalkComplete die id s
  | .priResponse die id granted hpa => Sys2Proof.Machine.execPriResponse die id granted hpa s
  | .priTimeout die id => Sys2Proof.Machine.execPriTimeout die id s
  | .atsInvalidate die ctx base len => Sys2Proof.Machine.execAtsInvalidate die ctx base len s
  | .translationInvalidateCommand ctx range => Sys2Proof.Machine.execTranslationInvalidateCommand ctx range s
  | .combiningEntryTimeout core id => Sys2Proof.Machine.execCombiningEntryTimeout core id s
  | .combiningFlushApplied core id => Sys2Proof.Machine.execCombiningFlushApplied core id s
  | .sharedCacheWriteback line => Sys2Proof.Machine.execSharedCacheWriteback line s
  | .sharedCacheFlush die => Sys2Proof.Machine.execSharedCacheFlush die s
  | .remoteMessage core => Sys2Proof.Machine.execRemoteMessage core s
  | .remoteReply g k => Sys2Proof.Machine.execRemoteReply g k s
  | .fullEmptyWake g => Sys2Proof.Machine.execFullEmptyWake g s
  | .scratchpadReservation core lg => Sys2Proof.Machine.execScratchpadReservation core lg s
  | .scratchpadBlockReturn core off => Sys2Proof.Machine.execScratchpadBlockReturn core off s
  | .launchCommandCheck ctx => Sys2Proof.Machine.execLaunchCommandCheck ctx s
  | .dispatchPlacement part => Sys2Proof.Machine.execDispatchPlacement part s
  | .dispatchPassoverBlock ctx item => Sys2Proof.Machine.execDispatchPassoverBlock ctx item s
  | .gangFieldsMessage launch pkg gangId tick => Sys2Proof.Machine.execGangFieldsMessage launch pkg gangId tick s
  | .gangReady launch pkg => Sys2Proof.Machine.execGangReady launch pkg s
  | .gangGoCheck launch => Sys2Proof.Machine.execGangGoCheck launch s
  | .gangGo launch => Sys2Proof.Machine.execGangGo launch s
  | .gangAbort frame => Sys2Proof.Machine.execGangAbort frame s
  | .gangTick launch => Sys2Proof.Machine.execGangTick launch s
  | .granuleRequest slice => Sys2Proof.Machine.execGranuleRequest slice s
  | .granuleGrant g base glog => Sys2Proof.Machine.execGranuleGrant g base glog s
  | .granuleRelease slice => Sys2Proof.Machine.execGranuleRelease slice s
  | .wound stamp restart => Sys2Proof.Machine.execWound stamp restart s
  | .rollback g => Sys2Proof.Machine.execRollback g s
  | .rollbackRestart g => Sys2Proof.Machine.execRollbackRestart g s
  | .irrevocableTokenGrant => Sys2Proof.Machine.execIrrevocableTokenGrant s
  | .holdBufferDrainComplete g => Sys2Proof.Machine.execHoldBufferDrainComplete g s
  | .asretryDelayExpiry g => Sys2Proof.Machine.execAsretryDelayExpiry g s
  | .mmaStagingComplete q id => Sys2Proof.Machine.execMmaStagingComplete q id s
  | .mmaStart q => Sys2Proof.Machine.execMmaStart q s
  | .mmaRowCommit q => Sys2Proof.Machine.execMmaRowCommit q s
  | .mmaComplete q => Sys2Proof.Machine.execMmaComplete q s
  | .mmaSuspension q => Sys2Proof.Machine.execMmaSuspension q s
  | .tilePortComplete q tile => Sys2Proof.Machine.execTilePortComplete q tile s
  | .governorStepBoundary die => Sys2Proof.Machine.execGovernorStepBoundary die s
  | .copyRequestStart core id => Sys2Proof.Machine.execCopyRequestStart core id s
  | .ckickEntryFetch core id => Sys2Proof.Machine.execCkickEntryFetch core id s
  | .copyChunkComplete core id => Sys2Proof.Machine.execCopyChunkComplete core id s
  | .copyRequestComplete core id => Sys2Proof.Machine.execCopyRequestComplete core id s
  | .copyFailure core id => Sys2Proof.Machine.execCopyFailure core id s
  | .copyCancelEffect core id => Sys2Proof.Machine.execCopyCancelEffect core id s
  | .byteBarrierWake g => Sys2Proof.Machine.execByteBarrierWake g s
  | .barrierStep inst g op => Sys2Proof.Machine.execBarrierStep inst g op s
  | .barrierWake g => Sys2Proof.Machine.execBarrierWake g s
  | .queueHomeStep g => Sys2Proof.Machine.execQueueHomeStep g s
  | .queueEntryWritten id => Sys2Proof.Machine.execQueueEntryWritten id s
  | .queueEntryRead id => Sys2Proof.Machine.execQueueEntryRead id s
  | .queueWaiterServe hdr pop => Sys2Proof.Machine.execQueueWaiterServe hdr pop s
  | .timelineWake g => Sys2Proof.Machine.execTimelineWake g s
  | .taskWordHomeReply g => Sys2Proof.Machine.execTaskWordHomeReply g s
  | .collectiveComplete id contribs => Sys2Proof.Machine.execCollectiveComplete id contribs s
  | .collectiveTimeout id missing => Sys2Proof.Machine.execCollectiveTimeout id missing s
  | .drawServed => Sys2Proof.Machine.execDrawServed s
  | .holdLimitExpiry g => Sys2Proof.Machine.execHoldLimitExpiry g s
  | .residentIdleCharge g => Sys2Proof.Machine.execResidentIdleCharge g s
  | .refillTick measured => Sys2Proof.Machine.execRefillTick measured s
  | .reckoningWindowClose measured => Sys2Proof.Machine.execReckoningWindowClose measured s
  | .meterRecordSecond => Sys2Proof.Machine.execMeterRecordSecond s
  | .meterBatchWrite => Sys2Proof.Machine.execMeterBatchWrite s
  | .opChangeClockRestart part => Sys2Proof.Machine.execOpChangeClockRestart part s
  | .wyariRound demand floor => Sys2Proof.Machine.execWyariRound demand floor s
  | .demand round pkg demand floor => Sys2Proof.Machine.execDemand round pkg demand floor s
  | .grant round pkg cap podcap => Sys2Proof.Machine.execGrant round pkg cap podcap s
  | .firmwareSetAllowance part op maxop => Sys2Proof.Machine.execFirmwareSetAllowance part op maxop s
  | .energyBlockWrite ctx w => Sys2Proof.Machine.execEnergyBlockWrite ctx w s
  | .partitionSwitch part out inc => Sys2Proof.Machine.execPartitionSwitch part out inc s
  | .partitionHaltComplete ctx => Sys2Proof.Machine.execPartitionHaltComplete ctx s
  | .spillComplete id => Sys2Proof.Machine.execSpillComplete id s
  | .refillComplete g => Sys2Proof.Machine.execRefillComplete g s
  | .watchdogIdleFire ctx => Sys2Proof.Machine.execWatchdogIdleFire ctx s
  | .watchdogRunFire launch => Sys2Proof.Machine.execWatchdogRunFire launch s
  | .trapEntry g => Sys2Proof.Machine.execTrapEntry g s
  | .definePartition d => Sys2Proof.Machine.execDefinePartition d s
  | .createContext d => Sys2Proof.Machine.execCreateContext d s
  | .destroyContext ctx => Sys2Proof.Machine.execDestroyContext ctx s
  | .lock imm shadow => Sys2Proof.Machine.execLock imm shadow s
  | .start imm => Sys2Proof.Machine.execStart imm s
  | .stop imm => Sys2Proof.Machine.execStop imm s
  | .doorbell imm n => Sys2Proof.Machine.execDoorbell imm n s
  | .queueInterfaceFetch imm => Sys2Proof.Machine.execQueueInterfaceFetch imm s
  | .errorLogEntryWrite log => Sys2Proof.Machine.execErrorLogEntryWrite log s
  | .queueControlBlockWrite imm f v => Sys2Proof.Machine.execQueueControlBlockWrite imm f v s
  | .flr fn => Sys2Proof.Machine.execFlr fn s
  | .flrDrainTimeout fn => Sys2Proof.Machine.execFlrDrainTimeout fn s
  | .hostKill ctx => Sys2Proof.Machine.execHostKill ctx s
  | .uncorrectableRead u => Sys2Proof.Machine.execUncorrectableRead u s
  | .eccRetryResult ok => Sys2Proof.Machine.execEccRetryResult ok s
  | .correctedErrorReport => Sys2Proof.Machine.execCorrectedErrorReport s
  | .keySlotWrite stack slot key => Sys2Proof.Machine.execKeySlotWrite stack slot key s
  | .linkKeyProgram die key => Sys2Proof.Machine.execLinkKeyProgram die key s
  | .linkRekeyInterrupt way => Sys2Proof.Machine.execLinkRekeyInterrupt way s
  | .linkCounterExhausted way => Sys2Proof.Machine.execLinkCounterExhausted way s
  | .linkKeyTimeout die => Sys2Proof.Machine.execLinkKeyTimeout die s
  | .gateEntryWrite gate v => Sys2Proof.Machine.execGateEntryWrite gate v s
  | .reclaim ctx page => Sys2Proof.Machine.execReclaim ctx page s
  | .accept ctx page => Sys2Proof.Machine.execAccept ctx page s
  | .force ctx page => Sys2Proof.Machine.execForce ctx page s
  | .getVersion fn => Sys2Proof.Machine.execGetVersion fn s
  | .getCapabilities fn => Sys2Proof.Machine.execGetCapabilities fn s
  | .negotiateAlgorithms fn => Sys2Proof.Machine.execNegotiateAlgorithms fn s
  | .getDigests fn => Sys2Proof.Machine.execGetDigests fn s
  | .getCertificate fn => Sys2Proof.Machine.execGetCertificate fn s
  | .challenge fn nonce => Sys2Proof.Machine.execChallenge fn nonce s
  | .getMeasurements fn index => Sys2Proof.Machine.execGetMeasurements fn index s
  | .pluginFault tenant => Sys2Proof.Machine.execPluginFault tenant s
  | .schedulerFault die => Sys2Proof.Machine.execSchedulerFault die s
  | .hostAccess t => Sys2Proof.Machine.execHostAccess t s
  | .dieBoundaryRetry b failed => Sys2Proof.Machine.execDieBoundaryRetry b failed s
  | .packageLost pkg => Sys2Proof.Machine.execPackageLost pkg s
  | .hbmPowerDown die => Sys2Proof.Machine.execHbmPowerDown die s
  | .openCounterSession d => Sys2Proof.Machine.execOpenCounterSession d s
  | .closeCounterSession id => Sys2Proof.Machine.execCloseCounterSession id s
  | .readcnt id => Sys2Proof.Machine.execReadcnt id s
  | .counterWrap id entry => Sys2Proof.Machine.execCounterWrap id entry s
  | .freeze => Sys2Proof.Machine.execFreeze s
  | .unlock token nonce => Sys2Proof.Machine.execUnlock token nonce s
  | .scanCommand cmd => Sys2Proof.Machine.execScanCommand cmd s
  | .coldReset => Sys2Proof.Machine.execColdReset s
  | .powerOn b => Sys2Proof.Machine.execPowerOn b s
  | .thermalThrottle parts => Sys2Proof.Machine.execThermalThrottle parts s
  | .thermalTrip => Sys2Proof.Machine.execThermalTrip s
  | .atsTranslationCompletion die id present hpa => Sys2Proof.Machine.execAtsTranslationCompletion die id present hpa s
  | .contextMigration ctx savedTime elapsed => Sys2Proof.Machine.execContextMigration ctx savedTime elapsed s
  | .podPortDown port => Sys2Proof.Machine.execPodPortDown port s
  | .podPortUp port => Sys2Proof.Machine.execPodPortUp port s
  | .powerOff => Sys2Proof.Machine.execPowerOff s

end Sys2Proof.Machine
end

