-- ==== Sys2Proof/Machine/Issue.lean ====
section
/-!
DEFINITION. Issue (R29 to R34, R57, R77, R84): the group at a strand's position, its legality, its trial and its
effects together, and the order in which a quarter picks among its strands (R77, R90, R354).
-/

namespace Sys2Proof.Machine

/-! ### Legality of a group (R30) -/

/-- Registers of a file from one number up: file 0 uniform, 1 vector, 2 mask, 3 handle, 4 system. -/
structure RegRange where
  file : Nat
  start : Nat
  len : Nat
  deriving DecidableEq, Repr

def RegRange.meets (a b : RegRange) : Bool := a.file == b.file && a.start < b.start + b.len && b.start < a.start + a.len

def uDst (d : BitVec 8) (n : Nat := 1) : List RegRange := [{ file := 0, start := d.toNat, len := n }]
def mDst (d : BitVec 3) : List RegRange := [{ file := 2, start := d.toNat, len := 1 }]
def hDst (h : BitVec 4) : List RegRange := [{ file := 3, start := h.toNat, len := 1 }]

/-- R30, R336. The most registers that the entry of a queue word can have: D is a multiple of their number, which only the
queue's header tells. DESIGN CHOICE (log 113): for rule 5 such a word writes every register that an entry of any size
would make it write. -/
def queueSpan (d : Nat) : Nat := if d % 8 = 0 then 8 else if d % 4 = 0 then 4 else if d % 2 = 0 then 2 else 1

/-- The registers that an unprefixed U, M or C word, or a compare, writes. The other V words write vector registers,
which only MTOV writes beside them. -/
def wordWrites (vwd : BitVec 2) : Instr → List RegRange
  | .usr _ d _ | .loop _ d _ | .mget _ d _ | .mpopc _ d _ | .mfirst _ d _ | .spawn _ d _
  | .asq _ d _ | .eop _ d _ | .trd _ d _ => uDst d
  | .bara _ _ _ a | .barj _ _ _ a => uDst a
  | .erd _ d _ | .ebkt _ d _ | .cntrd _ d _ | .tstamp _ d | .tlread _ d _ | .asage _ d => uDst d 2
  | .qpop _ d _ => uDst d (queueSpan d.toNat)
  | .qtrypop _ d _ => uDst d (queueSpan d.toNat + 1)
  | .qtrypush _ d _ =>
    ([1, 2, 4, 8].filter (fun n => n ≤ queueSpan d.toNat)).map (fun n => { file := 0, start := d.toNat + n, len := 1 })
  | .usw _ d _ => [{ file := 4, start := d.toNat, len := 1 }]
  | .mtake _ d m => uDst d ++ mDst m
  | .mset _ d _ | .mand _ d _ | .mandn _ d _ | .mor _ d _ | .mxor _ d _ | .mlive _ d | .mput _ d _ => mDst d
  | .vcmpI _ _ m _ _ | .vcmpN _ _ m _ _ | .vfcmpF32 _ _ m _ _ => mDst m
  | .mtov _ _ _ a => [{ file := 1, start := a.toNat, len := 16 }]
  | .mrp _ _ a => uDst a
  | .mdrain _ _ _ _ h => hDst h
  | .cpyG2s _ h _ | .cpyS2g _ h _ | .cpyS2gAdd _ h _ | .cpyG2g _ h _ | .cpyS2s _ h _ | .cpyGate _ h _
  | .ckick _ h _ _ | .coll _ h _ => hDst h
  | .hwait _ d h | .hexport _ d h => uDst d ++ hDst h
  | .htest _ d _ => uDst d
  | .hmove _ a h => hDst a ++ hDst h
  | .himport _ a _ => hDst a
  | .bbtest _ d _ => uDst d
  | .vld _ d _ _ | .vlds _ d _ _ | .vatom _ d _ _ _ _ | .vatoms _ d _ _ _ _ | .vcas _ d _ _ | .vcass _ d _ _ | .vldfe _ d _ _
  | .vldpk _ d _ _ | .vspfeGet _ d _ => [{ file := 1, start := d.toNat, len := wcount vwd }]
  | _ => []

/-- The uniform registers that a word of majors 0x01 to 0x1E writes: all of them but UST. -/
def uniformWrites (up : UPfx) (w : Word) : List RegRange :=
  if fieldMaj w = 0x1E#7 then [] else [{ file := 0, start := ureg up.xd (fieldD w), len := wcount up.w }]

/-- The vector registers that an arithmetic V word writes. -/
def vectorWrites (vp : VPfx) (w : Word) : List RegRange :=
  if fieldD w &&& 0x80#8 = 0#8 then [{ file := 1, start := (fieldD w).toNat, len := wcount vp.wd }] else []

/-- R30 rule 5. What a word with its prefixes writes, from its encoding. -/
def groupWrites (up : UPfx) (vp : VPfx) (w : Word) : List RegRange :=
  let m := fieldMaj w
  if 0x01#7 ≤ m ∧ m ≤ 0x1E#7 then uniformWrites up w
  else if (0x20#7 ≤ m ∧ m < 0x34#7) ∨ (0x37#7 ≤ m ∧ m < 0x50#7) then vectorWrites vp w
  else
    match decode w with
    | .ok i => wordWrites vp.wd i
    | .error _ => []

/-- The prefix fields of a word of the packet. -/
def upfxOf (w : Option Word) : UPfx :=
  match w.map decode with
  | some (.ok (.upfx d a b w i)) => { xd := d, xa := a, xb := b, w := w, imm := i }
  | _ => .zero
def vpfxOf (w : Option Word) : VPfx :=
  match w.map decode with
  | some (.ok (.vpfx m r z d a b c)) => { msk := m, rm := r, zm := z = 1, wd := d, wa := a, wb := b, c := c }
  | _ => .zero

/-- Each word of a group with the word before it. -/
def withPrev : Option Word → List Word → List (Option Word × Word)
  | _, [] => []
  | p, w :: l => (p, w) :: withPrev (some w) l

def isUpfx (w : Word) : Bool := fieldMaj w == 0x7E#7
def isVpfx (w : Word) : Bool := fieldMaj w == 0x7F#7

/-- Every later element is free of conflict with every earlier one. -/
def noneMeet : List (List RegRange) → Bool
  | [] => true
  | x :: l => l.all (fun y => x.all (fun a => y.all (fun b => !a.meets b))) && noneMeet l

/-- R30. The group that starts at word index `widx`. -/
def groupLegal (ws : List Word) (widx : Nat) : Bool :=
  let ps := withPrev none ws
  let pipes := (ws.map (fun w => pipeOf (fieldMaj w))).filter (· != 0)
  let last := ws.getLast?
  (widx + ws.length < 3 || (match last with | some w => !fieldC w | none => true))
    && pipes.eraseDups.length == pipes.length
    && (match last with | some w => !isUpfx w && !isVpfx w | none => true)
    && ps.all (fun p =>
        match p.1 with
        | none => true
        | some q =>
          (!isVpfx q || pipeOf (fieldMaj p.2) == 2)
            && (!isUpfx q || (0x01#7 ≤ fieldMaj p.2 && fieldMaj p.2 ≤ 0x1E#7)))
    && ps.all (fun p =>
        !(fieldMaj p.2 ∈ [0x25#7, 0x33#7, 0x3B#7, 0x40#7, 0x43#7]) || (match p.1 with | some q => isVpfx q | none => false))
    && noneMeet (ps.map (fun p => groupWrites (upfxOf p.1) (vpfxOf p.1) p.2))

/-! ### Trial and effect of a group -/

/-- A unit of a group: the word index of its first word, and a word with its prefix. -/
abbrev GroupUnit := Nat × List Word

/-- The group's words, each with its prefix. -/
def groupUnits : Nat → List Word → List GroupUnit
  | _, [] => []
  | n, [w] => [(n, [w])]
  | n, w :: v :: l => if isUpfx w || isVpfx w then (n, [w, v]) :: groupUnits (n + 2) l else (n, [w]) :: groupUnits (n + 1) (v :: l)

/-- The issue context at a word of the group. -/
def State.atWord (s : State) (pos : Nat) : State := { s with iss := { s.iss with wpos := pos, res := .none } }

/-- No prefix is in force. -/
def State.noPrefix (s : State) : State := { s with iss := { s.iss with vp := none, up := none } }

/-- The context in which the words of a group of `n` units are tried. -/
def State.groupBase (s : State) (n : Nat) : State :=
  let s := s.noPrefix
  { s with iss := { s.iss with multi := decide (1 < n) } }

/-- Every word of the group can issue: its words take effect (R32). -/
def State.going (s : State) : State := { s with iss := { s.iss with go := true } }

/-- Run one word: an encoding that is not assigned gives its cause (R56). -/
def State.runWord (s : State) (pos : Nat) (w : Word) : Host.Outcome State Fault Refusal :=
  match decode w with
  | .error .illegalOpcode => .next (s.enc .illegalOpcode)
  | .error .illegalOperand => .next (s.enc .illegalOperand)
  | .ok i => exec i (s.atWord pos)

/-- Run the words of a unit; the prefix fields are cleared after it. -/
def State.runUnit (s : State) : Nat → List Word → Host.Outcome State Fault Refusal
  | _, [] => .next s.noPrefix
  | n, w :: l =>
    match s.runWord n w with
    | .next s' =>
      match s'.iss.res with
      | .enc _ | .trap _ | .held _ => .next s'
      | _ => s'.runUnit (n + 1) l
    | o => o

/-- Run the units of a group one after another, each reading the strand as it stood before the group (R31). -/
def State.runUnits (s : State) : List GroupUnit → Host.Outcome State Fault Refusal
  | [] => .next s
  | u :: l =>
    match s.runUnit u.1 u.2 with
    | .next s' =>
      match s'.iss.res with
      | .enc _ | .trap _ | .held _ => .next s'
      | _ => s'.runUnits l
    | o => o

/-- What an attempt to issue gives. `raw` is the group's issue-time charge. -/
inductive Attempt where
  | issued (s : State) (raw : Nat)
  | blocked (s : State)
  | stopped (o : Host.Outcome State Fault Refusal)

/-- The states a list of trials leaves, or the first that did not go on. -/
def collect : List (Host.Outcome State Fault Refusal) → Except (Host.Outcome State Fault Refusal) (List State)
  | [] => .ok []
  | .next s :: l => (collect l).map (s :: ·)
  | o :: _ => .error o

/-- The first result that meets a test. -/
def firstRes {α : Type} (f : IssueRes → Option α) : List State → Option (α × State)
  | [] => none
  | s :: l =>
    match f s.iss.res with
    | some a => some (a, s)
    | none => firstRes f l

/-- R31, R347. The group's issue-time charge event. -/
def State.chargeGroup (s : State) (w : Work) (raw : List (Nat × Nat)) : State × Nat :=
  let b := rawBeads (s.opOf w.ctx) ((0, 1) :: raw)
  ((s.countEv (coreOfQuarter w.q) 0x01 w.ctx 1).chargeEvent w (qDom w.q) b, b)

/-- R19, R82. A group that calls Trap: only the issue-group weight is charged, and the trap is outstanding. -/
def State.groupTrap (s : State) (g : Nat) (pos : TrapPos) (i : TrapInfo) : Attempt :=
  let s : State := { s with iss := {} }
  let r := s.chargeGroup (s.workOf g) []
  let s := r.1.modStrand g (fun t => { t with promoted := false, relIds := none, state := .trapEntry })
  .issued (s.raise g i (some pos) (s.strand g).handlerMark) r.2

/-- R75, R82, R94, R196, R256, R333. What a strand is Parked for when its group waits, if it is Parked; any other wait
leaves it Ready. -/
def State.parksFor (s : State) (h : Hold) : Option WaitOn :=
  match h with
  | .scoreboard => if s.loads.any (fun l => s.iss.need.contains l.id && l.miss) then some (.data s.iss.need) else none
  | .fence sc k => some (.fence sc k)
  | .pageWait | .granule | .homeReply => some .group
  | _ => none

/-- A group that waits takes no effect; its strand may be Parked. -/
def State.afterHold (s : State) (g : Nat) (h : Hold) : State :=
  match s.parksFor h with
  | some w =>
    ({ s with iss := {} } : State).modStrand g (fun t => if t.state == .ready then { t with state := .parked, wait := w } else t)
  | none => { s with iss := {} }

/-- R350. A strand whose purse is refused is Held; the first of a refusal counts in HOLDS. -/
def State.energyHold (s : State) (g : Nat) : State :=
  let t := s.strand g
  let q := quarterOf g
  let p := s.purse q t.info.ctx
  let s := if p.counted then s
    else ((s.setPurse q t.info.ctx { p with counted := true }).modCtx t.info.ctx (fun c => { c with holdCount := c.holdCount + 1 })).countEv
      (coreOf g) 0x08 t.info.ctx 1
  s.modStrand g (fun t => { t.commitAll with before := t.state, state := .held })

/-- R83, R350. A hold takes effect at a boundary, once the V word in flight has come to its end or its stop. -/
def Strand.mayHold (t : Strand) : Bool := t.flight.all (fun f => !f.stop.goesOn)

/-- R80. The words, but for V words, at which a strand reaches a switch point. -/
def switchWord (w : Word) : Bool :=
  match decode w with
  | .ok (.yield _) | .ok (.bar _ _ _) | .ok (.barw _ _ _ _) | .ok (.bbwait _ _ _) | .ok (.hwait _ _ _) | .ok (.tlwait _ _ _)
  | .ok (.qpush _ _ _) | .ok (.qpop _ _ _) | .ok (.exit _) => true
  | _ => false

/-- R80. The group had a switch point: what its V word has written commits too, and what that word still delivers will
commit at once. -/
def Strand.passSwitch (t : Strand) : Strand :=
  { t.switchPoint with flight := t.flight.map (fun f => { f with settled := true }) }

/-- R31, R34. What follows the effects of a group: its charge and its count, the destination of its transfer or the
position after the group, and the strand's new boundary. `t` is the strand before the group, `ws` its words. -/
def State.finishGroup (s : State) (g : Nat) (t : Strand) (w : Work) (ws : List Word) : State × Nat :=
  let r := s.chargeGroup w s.iss.raw
  let s' := { r.1.countEv (coreOf g) 0x02 t.info.ctx s.iss.slots with iss := {} }
  let dest := s.iss.goto.getD (afterGroup (packetWords (match t.line with | some (_, l) => l | none => []) t.pc) t.pc t.widx
    ws.length)
  (s'.modStrand g (fun x =>
    if x.resident && x.inc == t.inc then
      let x := if ws.any switchWord then x.passSwitch else x
      { x with pc := dest.pc, widx := dest.widx, groups := x.groups + 1,
               hgroups := x.hgroups + (if t.trap.inHandler then 1 else 0), promoted := false, relIds := none }
    else x), r.2)

/-- The unit of an EXIT or a TRET comes after the others of its group. -/
def lastUnit (u : GroupUnit) : Bool :=
  match u.2.map decode with
  | [.ok (.exit _)] | [.ok (.tret _)] => true
  | _ => false

/-- What stops a group. A group that is not issuable waits (R75, R77); a wait for the matrix unit comes last, since a grant is
asked for when every other condition holds (R278). Then come the traps in the order of R57: an invalid target, an illegal
group, an illegal encoding, another trap. The wait for a home slice, which has been asked to act, comes after them all, since
a group that traps takes no effect (R32). -/
def groupStop (legal : Bool) (trials : List State) : Option (State × IssueRes) :=
  let pick (f : IssueRes → Bool) : Option (State × IssueRes) :=
    (trials.find? (fun s => f s.iss.res)).map (fun s => (s, s.iss.res))
  (pick (fun r => match r with | .held h => h != .matrixUnit && h != .homeReply | _ => false)).or
    ((pick (fun r => r == .held .matrixUnit)).or
      ((pick (fun r => match r with | .trap i => i.cause == .illegalPc | _ => false)).or
        ((if legal then none else trials.head?.map (fun s => (s, .enc .illegalGroup))).or
          ((pick (fun r => match r with | .enc _ => true | _ => false)).or
            ((pick (fun r => match r with | .trap _ => true | _ => false)).or
              (pick (fun r => r == .held .homeReply)))))))

/-- The registers' loads that the words of a group wait for. -/
def needOf (trials : List State) : List Nat := trials.flatMap (fun s => s.iss.need)

/-- R32, R57. The trial of each word of a group as the strand stands before it and, when nothing stops the group, their
effects together. -/
def State.tryGroup (s : State) (g : Nat) (ws : List Word) : Attempt :=
  let t := s.strand g
  let pos : TrapPos := { pc := t.pc, widx := t.widx }
  let units := groupUnits t.widx ws
  let base := s.groupBase units.length
  match collect (units.map (fun u => base.runUnit u.1 u.2)) with
  | .error o => .stopped o
  | .ok trials =>
    if !t.rodFree && ws.any (fun w => pipeOf (fieldMaj w) == 2) then
      .blocked (({ s with iss := { s.iss with need := needOf trials } } : State).afterHold g .scoreboard)
    else
      match groupStop (groupLegal ws t.widx) trials with
      | some (_, .enc c) => s.groupTrap g pos { cause := c }
      | some (_, .trap i) => s.groupTrap g pos i
      | some (s', .held h) => .blocked (({ s' with iss := { s'.iss with need := needOf trials } } : State).afterHold g h)
      | _ =>
        let last := units.filter lastUnit
        match base.going.runUnits (units.filter (fun u => !lastUnit u) ++ last) with
        | .next s' =>
          match s'.iss.res with
          | .enc c => s.groupTrap g pos { cause := c }
          | .trap i => s.groupTrap g pos i
          | .held _ => .blocked { s with iss := {} }
          | _ =>
            let r := s'.finishGroup g t (s.workOf g) ws
            .issued r.1 r.2
        | o => .stopped o

/-- R31. The issue context of the group at a strand's boundary, which reads the strand as it stands; `l` is the code line. -/
def State.openGroup (s : State) (g : Nat) (l : List Byte) : State :=
  let s := s.settleAcquire g
  let t := s.strand g
  { s with iss := { g := g, pc := t.pc, widx := t.widx, lit := lineLiteral l, snap := some t, ctx0 := s.ctx t.info.ctx,
                    purse0 := (s.purse (quarterOf g) t.info.ctx).level } }

/-- The group at the strand's position: its line is fetched, padding is passed over (R34), and the group is tried. -/
def State.tryFetch (s : State) (g : Nat) : Nat → Attempt
  | 0 => .blocked s
  | fuel + 1 =>
    let t := s.strand g
    if !pcValid t.pc then s.groupTrap g { pc := t.pc, widx := t.widx } { cause := .illegalPc }
    else
      match s.fetchLine g with
      | (s, .wait h) => .blocked (s.afterHold g h)
      | (s, .fail r) =>
        (s.modStrand g (fun t => { t with widx := 0 })).groupTrap g { pc := t.pc, widx := 0 }
          { cause := .execFault, reason := r, kind := 7, va := some t.pc.toNat }
      | (s, .line l) =>
        let ws := packetWords l t.pc
        let rest := ws.drop t.widx
        if t.widx ≠ 0 ∧ rest.all (· == 0#32) then
          (s.modStrand g (fun t => { t with pc := nextPacket t.pc, widx := 0 })).tryFetch g fuel
        else
          (s.openGroup g l).tryGroup g (groupFrom rest 3)

/-- R32, R84. The strand and the issue context of a stopped V word that is re-issued alone from its cursor, with the values
it read at its issue. -/
def State.openReissue (s : State) (g : Nat) (f : Flight) : State :=
  let s := s.settleAcquire g
  let t := s.strand g
  let act := f.active &&& ~~~(BitVec.ofNat 32 (2 ^ f.cursor - 1))
  let bare := { t with flight := none, vseq := t.vseq - 1 }
  let msel := (t.masks.get f.vp.msk.toNat)
  let all : Words := (List.range 8).foldl (fun (m : Words) i => Words.set m i act) []
  let masks : Words := match f.instr with | .vsel _ _ _ _ => Words.set all f.vp.msk.toNat msel | _ => all
  let snap := { bare with uregs := f.uni, fm := f.fmt, masks := masks, acquiring := none }
  let iss : Issue := { g := g, pc := f.pc, widx := f.gwidx, wpos := f.widx, lit := f.lit, vp := some f.vp,
                       snap := some snap, waited := f.waited }
  { s.setStrand g bare with iss := iss }

/-- R395. Once the V word of a TRET has been re-issued, the strand returns to the wait that the trap had left. -/
def Attempt.returning (a : Attempt) (g : Nat) : Attempt :=
  match a with
  | .issued s raw => .issued (if (s.strand g).trap.inHandler then s else s.resumeLeft g) raw
  | a => a

/-- R32, R84. Re-issue a stopped V word. -/
def State.tryReissue (s : State) (g : Nat) (f : Flight) : Attempt :=
  let t := s.strand g
  match exec f.instr (s.openReissue g f) with
  | .next s' =>
    match s'.iss.res with
    | .held h => .blocked ((s'.modStrand g (fun t => { t with flight := some f, vseq := t.vseq + 1 })).afterHold g h)
    | .enc c => (((s.setStrand g { t with flight := none }).groupTrap g { pc := f.pc, widx := f.widx } { cause := c }).returning g)
    | .trap i => (((s.setStrand g { t with flight := none }).groupTrap g { pc := f.pc, widx := f.widx } i).returning g)
    | _ =>
      let r := s'.chargeGroup (s.workOf g) s'.iss.raw
      let s'' := { r.1 with iss := {} }
      (Attempt.issued (s''.modStrand g (fun x =>
        { x with groups := x.groups + 1, hgroups := x.hgroups + (if t.trap.inHandler then 1 else 0), promoted := false })) r.2).returning g
  | o => .stopped o

/-- R91. The course of an EXIT that has issued with its group; it is no further issue. -/
def State.tryExit (s : State) (g : Nat) : Attempt :=
  let t := s.strand g
  let s' := ({ s with iss := { g := g, pc := t.pc, widx := t.widx, snap := some t } } : State).exitCourse
  match s'.iss.res with
  | .trap i => s.groupTrap g { pc := t.pc, widx := t.widx } i
  | _ => .blocked { s' with iss := {} }

/-- R80, R183. A VLDFE or VSTEF that has not acted in every slot is a switch point that the strand has not passed. -/
def Strand.inSwitchWord (t : Strand) : Bool :=
  match t.flight with
  | some f => f.stop.goesOn && (match f.instr with | .vldfe _ _ _ _ | .vstef _ _ _ _ => true | _ => false)
  | none => false

/-- R367. EOP words of one clock: a strand of a higher slot and another quarter than the one whose EOP decides issues its own. -/
def State.eopNow (s : State) (g : Nat) : Bool :=
  let t := s.strand g
  let isEop (w : Word) : Bool := match decode w with | .ok (.eop _ _ _) => true | _ => false
  (match (s.part t.info.part).eop with
   | some (h, qs) => h < gslot g && !qs.contains (quarterOf g)
   | none => false)
    && !t.leaving && t.aset.bad == 0 && t.flight.all (fun f => f.stop != .reissue)
    && (match s.codeLine g t.pc with
        | some l => (groupFrom ((packetWords l t.pc).drop t.widx) 3).any isEop
        | none => false)

/-- Whether a strand presents a group: R77 item 1, no trap and no rollback at this boundary (R83), its context runs
(R382), its partition's clocks run (R361), and its launch may issue (R378). -/
def State.presents (s : State) (g : Nat) (t : Strand) : Bool :=
  t.resident && (t.state == .ready || (t.leaving && t.state == .waiting && t.wait == .exit)) && t.takeable.isNone
    && !t.aset.rolling && t.again.isNone
    && (s.ctx t.info.ctx).state == .running && ((s.part t.info.part).chg.isNone || s.eopNow g)
    && !t.inSwitchWord && (t.trap.leftWait.isNone || t.trap.inHandler || (match t.flight with | some f => f.stop == .reissue | none => false))
    && (match t.info.work with
        | .task _ => true
        | .cohort l _ => (match s.launches.find? l with | some it => it.started | none => true))

/-- R77. What an attempt to issue the next group of a strand gives. -/
def State.attempt (s : State) (g : Nat) : Attempt :=
  let t := s.strand g
  let q := quarterOf g
  let p := s.purse q t.info.ctx
  if t.aset.unread then
    let s := s.readSets g
    .blocked (if (s.strand g).aset.unread then s.afterHold g .pageWait else s)
  else if t.aset.bad ≠ 0 then
    (s.modStrand g (fun t => { t with aset := { t.aset with bad := 0 } })).groupTrap g { pc := t.pc, widx := t.widx }
      { cause := .setViolation, detail := t.aset.bad }
  else
    let again := t.flight.filter (fun f => f.stop == .reissue)
    if t.leaving && again.isNone then s.tryExit g
    else if s.skidBlocked g then .blocked s
    else if !s.pursePositive g then
      let s := s.drawCheck q t.info.ctx
      if p.refused && t.mayHold then .blocked (s.energyHold g) else .blocked s
    else
      match again with
      | some f => s.tryReissue g f
      | none => s.tryFetch g 2

/-- R415. A group that needs a stack whose link carries no flit waits. -/
def State.tryIssue (s : State) (g : Nat) : Attempt :=
  match s.attempt g with
  | .issued s' raw => if s'.stalled then .blocked s else .issued s' raw
  | .blocked s' => .blocked (if s'.stalled then s else s')
  | .stopped o => .stopped o

/-! ### The arbiter (R354) -/

/-- Q[c] of a context. -/
def State.quantumOf (s : State) (c : Nat) : Int := 16 * (max 1 (s.ctx c).quantum : Nat)
def QuarterSt.def_ (q : QuarterSt) (c : Nat) : Int := (q.defs.find? c).getD 0

/-- The least m ≥ 1 for which DEF + m × Q is positive. -/
def replenishments (d q : Int) : Int := max 1 (-d / q + 1)

/-- The deficits of a quarter's issuable contexts after the replenishment of R354. -/
def replenish (defs : List (Nat × Int × Int)) : List (Nat × Int × Int) :=
  if defs.any (fun x => 0 < x.2.1) then defs
  else
    let m := (defs.map (fun x => replenishments x.2.1 x.2.2)).foldl min 1000000000
    defs.map (fun x => (x.1, min (x.2.1 + m * x.2.2) (2 * x.2.2), x.2.2))

/-- The first context from PTR, wrapping, whose deficit is positive. -/
def pickCtx (ptr : Nat) (defs : List (Nat × Int × Int)) : Option (Nat × Int) :=
  let pos := defs.filter (fun x => 0 < x.2.1)
  let least (l : List (Nat × Int × Int)) : Option (Nat × Int × Int) :=
    l.foldl (fun b x => match b with | none => some x | some y => if x.1 < y.1 then some x else some y) none
  ((least (pos.filter (fun x => ptr ≤ x.1))).or (least pos)).map (fun x => (x.1, x.2.1))

/-- The strands of a quarter that present a group. -/
def State.presenters (s : State) (q : Nat) : List Nat :=
  (s.strands.filter (fun x => quarterOf x.1 == q && s.presents x.1 x.2)).map (·.1)

/-- R77. The strand of a context that issues: one that was passed over for 1,024 clocks, else the oldest stamp. -/
def State.pickStrand (s : State) (gs : List Nat) : Option Nat :=
  let pr := gs.filter (fun g => (s.strand g).promoted)
  let l := if pr.isEmpty then gs else pr
  l.foldl (fun b g =>
    match b with
    | none => some g
    | some h => if ((s.strand g).info.stamp - (s.strand h).info.stamp).toInt < 0 then some g else some h) none

/-- R354. What an issue leaves in the quarter: the deficits after replenishment, that of the issuing context less the
group's charge, and the pointer. -/
def State.settleIssue (s : State) (q : Nat) (defs : List (Nat × Int × Int)) (c : Nat) (left : Int) : State :=
  s.modQuarter q (fun x =>
    let ds := defs.foldl (fun (m : Assoc Int) y => m.insert y.1 y.2.1) x.defs
    { x with defs := ds.insert c left, ptr := if 0 < left then c else c + 1 })

/-- What the strands of a quarter that cannot issue bring about all the same: requests, holds and draws. -/
def State.lookAll (s : State) (gs : List Nat) : State :=
  gs.foldl (fun (s : State) g => match s.tryIssue g with | .blocked s' => s' | _ => s) s

/-- One clock of a quarter's issue (R77, R90, R354). -/
def State.issueQuarter (s : State) (q : Nat) : Host.Outcome State Fault Refusal :=
  let gs := s.presenters q
  let able := gs.filter (fun g => match s.tryIssue g with | .blocked _ => false | _ => true)
  let s := s.lookAll (gs.filter (fun g => !able.contains g))
  let prompt := able.filter (fun g => !(s.strand g).yielding)
  let able := if prompt.isEmpty then able else prompt
  let ctxOf (g : Nat) : Nat := (s.strand g).info.ctx
  let defs := replenish ((able.map ctxOf).eraseDups.map (fun c => (c, (s.quarter q).def_ c, s.quantumOf c)))
  match pickCtx (s.quarter q).ptr defs with
  | none => .next s
  | some (c, d) =>
    match s.pickStrand (able.filter (fun g => ctxOf g == c)) with
    | none => .next s
    | some g =>
      match s.tryIssue g with
      | .blocked s' => .next s'
      | .stopped o => o
      | .issued s' raw => .next (s'.settleIssue q defs c (d - raw))

/-! ### Parked strands (R82, R94, R350) -/

/-- R82, R94. A Parked strand whose data has come, or whose FENCE need wait no longer, is Ready; so is one whose stopped V
word is to be re-issued first. -/
def State.lookParked (s : State) (g : Nat) : State :=
  let t := s.strand g
  let ready (s : State) : State := s.modStrand g (fun t => { t with state := .ready, wait := .nothing })
  if t.state != .parked then s
  else if t.flight.any (fun f => f.stop == .reissue) then ready s
  else
    match t.wait with
    | .data ids => if t.pendU.any (fun x => ids.contains x.2) || t.pendV.any (fun x => ids.contains x.2.2) then s else ready s
    | .fence sc k =>
      let r := s.fenceStep g sc k
      if r.2 then ready r.1 else r.1
    | _ => s

/-- R82, R350. A Parked strand whose purse is refused is Held. -/
def State.holdParked (s : State) (g : Nat) : State :=
  let t := s.strand g
  if t.state == .parked && t.mayHold && !s.pursePositive g && (s.purse (quarterOf g) t.info.ctx).refused then s.energyHold g else s

/-- What every step ends with for the Parked strands whose clocks run. -/
def State.settleParked (s : State) : State :=
  let gs := (s.strands.filter (fun x => x.2.state == .parked && s.clocksRun x.2)).map (·.1)
  gs.foldl (fun s g => (s.lookParked g).holdParked g) s

/-- R354. DEF of a context is zero whenever it has no strand of the quarter in Ready or Parked. -/
def State.settleDefs (s : State) : State :=
  { s with quarters := s.quarters.map (fun x =>
      (x.1, { x.2 with defs := x.2.defs.filter (fun d =>
        s.strands.any (fun t => quarterOf t.1 == x.1 && t.2.resident && t.2.info.ctx == d.1
          && (t.2.state == .ready || t.2.state == .parked))) })) }

end Sys2Proof.Machine
end

