-- ==== Sys2Proof/Machine/RunEvent.lean ====
section
/-!
DEFINITION. The events that the package itself has made due, each with the meaning of the instruction of its name.
-/

namespace Sys2Proof.Machine

/-- Run a due event. -/
def runEvent (e : Event) (s : State) : Host.Outcome State Fault Refusal :=
  match e with
  | .vWordCompletion g => execVWordCompletion g s
  | .specialFunctionDelivery g k => execSpecialFunctionDelivery g k s
  | .scratchpadResultDelivery g k => execScratchpadResultDelivery g k s
  | .globalLoadCompletion id => execGlobalLoadCompletion id s
  | .yieldWindowExpiry g => execYieldWindowExpiry g s
  | .storeQueueTranslation g => execStoreQueueTranslation g s
  | .storeArrivesHome core id => execStoreArrivesHome core id s
  | .pageWalkStart die => execPageWalkStart die s
  | .pageWalkComplete die id => execPageWalkComplete die id s
  | .combiningFlushApplied core id => execCombiningFlushApplied core id s
  | .sharedCacheWriteback line => execSharedCacheWriteback line s
  | .remoteMessage core => execRemoteMessage core s
  | .remoteReply g k => execRemoteReply g k s
  | .fullEmptyWake g => execFullEmptyWake g s
  | .scratchpadBlockReturn core off => execScratchpadBlockReturn core off s
  | .launchCommandCheck ctx => execLaunchCommandCheck ctx s
  | .dispatchPlacement part => execDispatchPlacement part s
  | .granuleRequest slice => execGranuleRequest slice s
  | .granuleGrant g base glog => execGranuleGrant g base glog s
  | .granuleRelease slice => execGranuleRelease slice s
  | .wound stamp restart => execWound stamp restart s
  | .rollback g => execRollback g s
  | .rollbackRestart g => execRollbackRestart g s
  | .irrevocableTokenGrant => execIrrevocableTokenGrant s
  | .holdBufferDrainComplete g => execHoldBufferDrainComplete g s
  | .asretryDelayExpiry g => execAsretryDelayExpiry g s
  | .mmaStagingComplete q id => execMmaStagingComplete q id s
  | .mmaStart q => execMmaStart q s
  | .mmaRowCommit q => execMmaRowCommit q s
  | .mmaComplete q => execMmaComplete q s
  | .mmaSuspension q => execMmaSuspension q s
  | .tilePortComplete q tile => execTilePortComplete q tile s
  | .governorStepBoundary die => execGovernorStepBoundary die s
  | .copyRequestStart core id => execCopyRequestStart core id s
  | .ckickEntryFetch core id => execCkickEntryFetch core id s
  | .copyChunkComplete core id => execCopyChunkComplete core id s
  | .copyRequestComplete core id => execCopyRequestComplete core id s
  | .copyFailure core id => execCopyFailure core id s
  | .copyCancelEffect core id => execCopyCancelEffect core id s
  | .byteBarrierWake g => execByteBarrierWake g s
  | .barrierWake g => execBarrierWake g s
  | .queueHomeStep g => execQueueHomeStep g s
  | .queueEntryWritten id => execQueueEntryWritten id s
  | .queueEntryRead id => execQueueEntryRead id s
  | .queueWaiterServe hdr pop => execQueueWaiterServe hdr pop s
  | .timelineWake g => execTimelineWake g s
  | .taskWordHomeReply g => execTaskWordHomeReply g s
  | .collectiveComplete id contribs => execCollectiveComplete id contribs s
  | .drawServed => execDrawServed s
  | .opChangeClockRestart part => execOpChangeClockRestart part s
  | .partitionHaltComplete ctx => execPartitionHaltComplete ctx s
  | .spillComplete id => execSpillComplete id s
  | .refillComplete g => execRefillComplete g s
  | .trapEntry g => execTrapEntry g s
  | .queueInterfaceFetch i => execQueueInterfaceFetch i s
  | .errorLogEntryWrite log => execErrorLogEntryWrite log s
  | .meterBatchWrite => execMeterBatchWrite s
  | .counterWrap id entry => execCounterWrap id entry s
  | .linkRekeyInterrupt way => execLinkRekeyInterrupt way s

end Sys2Proof.Machine
end

