-- ==== Sys2Proof/Machine/Moves.lean ====
section
/-!
DEFINITION. The moves that one step of the package may make, and each of them: what the outside world does next, an
event that is due or whose condition holds, or one clock of a quarter's issue.
-/

namespace Sys2Proof.Machine

/-- A move of the package. -/
inductive Move where
  | input
  | late                     -- the first of the inputs that stalled
  | event (e : Event)
  | issue (q : Nat)
  deriving DecidableEq, Repr

/-! ### Events whose condition holds -/

/-- What a strand is ready for: a timeline that has reached its threshold (R338), the end of an ASRETRY delay (R270), its
refill (R383), or its trap (R390). -/
def State.strandEvents (s : State) (g : Nat) (t : Strand) : List Event :=
  t.waitList.flatMap (fun w => match w with
    | .timeline pa thr => if t.state == .waiting && s.reached pa thr then [.timelineWake g] else []
    | .retry => if t.resident && !t.aset.rolling && (t.aset.retryAt - s.podTime).toInt ≤ 0 then [.asretryDelayExpiry g] else []
    | _ => [])
    ++ (if t.resuming && s.refillReady g t then [.refillComplete g] else [])
    ++ (if t.trapReady then [.trapEntry g] else [])

/-- R337. Waiters whose queue permits. -/
def State.queueEvents (s : State) : List Event :=
  ((s.qwaiters.filter (fun w => if w.pop then (s.qhead w.hdr).filled != 0 else (s.qhead w.hdr).free != 0)).map
    (fun w => Event.queueWaiterServe w.hdr w.pop)).eraseDups

/-- R383. Write-outs that can complete. -/
def State.claimEvents (s : State) : List Event := (s.claims.filter (fun c => s.claimReady c)).map (fun c => .spillComplete c.id)

/-- R167. Blocks that can return. -/
def State.blockEvents (s : State) : List Event :=
  s.cores.flatMap (fun c => (c.2.blocks.filter (fun b => s.blockReady c.1 b)).map (fun b => .scratchpadBlockReturn c.1 b.off))

/-- Events that no other event has made due, but whose condition holds. -/
def State.enabled (s : State) : List Event :=
  s.strands.flatMap (fun x => s.strandEvents x.1 x.2) ++ s.queueEvents ++ s.claimEvents ++ s.blockEvents
    ++ (s.ctxs.filter (fun c => s.haltReady c.1 c.2)).map (fun c => .partitionHaltComplete c.1)

/-- The quarter whose clocks an event runs on, if it runs on those of a quad. -/
def Event.quarter : Event → Option Nat
  | .vWordCompletion g | .specialFunctionDelivery g _ | .scratchpadResultDelivery g _ | .yieldWindowExpiry g | .trapEntry g
  | .fullEmptyWake g | .byteBarrierWake g | .barrierWake g | .timelineWake g | .taskWordHomeReply g | .remoteReply g _
  | .rollback g | .rollbackRestart g | .asretryDelayExpiry g => some (quarterOf g)
  | .remoteMessage core => some (4 * core)
  | .mmaStagingComplete q _ | .mmaStart q | .mmaRowCommit q | .mmaComplete q | .mmaSuspension q | .tilePortComplete q _ => some q
  | _ => none

/-- R361. The clocks of the event's quad run. -/
def State.clocked (s : State) (e : Event) : Bool := match e.quarter with | none => true | some q => s.quarterRuns q

/-- R421. The flits of one class between one pair of dies to which an event belongs: a core's stores (class 0) and its
combining flushes (class 1) on their way to a home. -/
def State.lane (s : State) : Event → Option (Nat × Nat × Nat)
  | .storeArrivesHome core id =>
    (((s.core core).sq.find? (fun e => e.id == id)).bind (·.pa)).map (fun p => (0, dieOfCore core, homeDie p))
  | .combiningFlushApplied core id =>
    ((s.core core).cb.find? (fun e => e.id == id)).map (fun e => (1, dieOfCore core, homeDie e.pa))
  | _ => none

/-- R421. Of the events of one lane only the first, which was sent first, can happen. -/
def State.laneFirst (s : State) : List (Nat × Nat × Nat) → List Event → List Event
  | _, [] => []
  | seen, e :: l =>
    match s.lane e with
    | none => e :: s.laneFirst seen l
    | some x => if seen.contains x then s.laneFirst seen l else e :: s.laneFirst (x :: seen) l

/-- The events that may happen next. -/
def State.events (s : State) : List Event :=
  s.laneFirst [] ((s.pending ++ s.enabled.filter (fun e => !s.pending.contains e)).filter s.clocked)

/-- The quarters in which some strand presents a group. -/
def State.issueQuarters (s : State) : List Nat :=
  ((s.strands.filter (fun x => s.presents x.1 x.2)).map (fun x => quarterOf x.1)).eraseDups

/-! ### Making a move -/

/-- R431, R433. What acts on a package whose clocks are stopped: its pins, its debug port and its power. -/
def actsStopped : Instr → Bool
  | .freeze | .unlock _ _ | .scanCommand _ | .coldReset | .powerOn _ | .powerOff | .thermalTrip => true
  | _ => false

/-- What the outside world does takes effect: it is no instruction word, which only issue executes, and the package is
on or the input reaches a stopped package. -/
def State.admits (s : State) (i : Instr) : Bool := (encode i).isNone && (s.power == .on || actsStopped i)

/-- R415. What an input does; one that stalls on a link waits, and keeps its place among those that do. -/
def State.input (s : State) (i : Instr) : Host.Outcome State Fault Refusal :=
  match exec i s with
  | .next s' => if s'.stalled then .next { s with stuck := s.stuck ++ [i] } else .next s'
  | o => o

/-- Make a move. An input or an event is taken from its list first. -/
def State.make (s : State) : Move → Host.Outcome State Fault Refusal
  | .input =>
    match s.inputs with
    | [] => .next s
    | i :: l => if s.admits i then ({ s with inputs := l } : State).input i else .next { s with inputs := l }
  | .late =>
    match s.stuck with
    | [] => .next s
    | i :: l => exec i { s with stuck := l }
  | .event e => runEvent e { s with pending := s.pending.erase e }
  | .issue q => s.issueQuarter q

/-- R415. A link of the package carries no flit. -/
def State.linkDown (s : State) : Bool := s.dies.any (fun d => d.2.linkStopped)

/-- R415. An event or a late input that needs a stack whose link carries no flit is not made. Issue holds such groups back by
itself. -/
def State.canMake (s : State) : Move → Bool
  | .event e => match s.make (.event e) with | .next s' => !s'.stalled | _ => true
  | .late => match s.make .late with | .next s' => !s'.stalled | _ => true
  | _ => true

/-- R415. Of the events that a link has held back, the first that no longer stalls goes before the others. -/
def State.inTurn (s : State) (e : Event) : Bool :=
  !s.held.contains e || s.held.find? (fun x => s.canMake (.event x)) == some e

/-- The moves that are possible. A package that is frozen or off does only what the outside world does to it. -/
def State.moves (s : State) : List Move :=
  let ms := (if s.inputs.isEmpty then [] else [.input]) ++ (if s.stuck.isEmpty || s.power != .on then [] else [.late])
    ++ (if s.power = .on then (s.events.filter s.inTurn).map .event ++ s.issueQuarters.map .issue else [])
  if s.linkDown then ms.filter s.canMake else ms

/-- The move that this step makes: the only one, or the free choice among several. -/
def State.choose (s : State) : State × Option Move :=
  match s.moves with
  | [] => (s, none)
  | [m] => (s, some m)
  | l => (s.stepFree, l[Config.pick s.free % l.length]?)

/-- R415. The events that a link holds back, in the order in which they came to it; one that has been made, or is no longer
due, leaves the list. -/
def State.noteHeld (s : State) : State :=
  if s.held.isEmpty && !s.linkDown then s
  else
    let es := s.events
    let new := if s.linkDown then es.filter (fun e => !s.held.contains e && !s.canMake (.event e)) else []
    { s with held := s.held.filter (fun e => es.contains e) ++ new }

/-- What every step ends with: the deficits of R354, and the machine's clock and pod time (R423). A package without
clocks keeps no time. -/
def State.tick (s : State) : State :=
  let n := if s.power = .on then Config.elapsedNs s.clock else 0
  let s := if s.power = .on then s.settleParked.settleDefs.countClocks (Config.elapsedClocks s.clock) else s
  ({ s with clock := s.clock + 1, podTime := s.podTime + BitVec.ofNat 64 n, stalled := false, iss := {} } : State).noteHeld

/-- R367. What is no issue ends the clock in which EOP words meet. -/
def State.closeClock (s : State) : Move → State
  | .issue _ => s
  | _ => { s with parts := s.parts.map (fun (x : Nat × Partition) => (x.1, { x.2 with eop := none })) }

/-- One step of the package. -/
def State.oneStep (s : State) : Host.Outcome State Fault Refusal :=
  match s.choose with
  | (s, none) => .next s.tick
  | (s, some m) =>
    match (s.closeClock m).make m with
    | .next s' => .next s'.tick
    | o => o

end Sys2Proof.Machine
end

