-- ==== Sys2Proof/Machine/Step.lean ====
section
/-!
DEFINITION. The step function, and the state in which a given word is the next instruction.
-/

namespace Sys2Proof.Machine

/-- One step of the machine. -/
def step (s : State) : Host.Outcome State Fault Refusal := s.oneStep

/-! ### Placing a word where the next step fetches it -/

/-- Where the placed word stands: its virtual and physical address, which are equal. -/
def fetchPlace : Nat := 0x10000

/-- Entries of the page tables of the placed context: L4, L3 and a 1 GB leaf at L2 that maps the first gigabyte of the
virtual range to itself with every permission and key slot 1 (R191). -/
def fetchTables : List (Nat × Nat) :=
  [(0x1000, 1 + 0x20 * 2 ^ 8), (0x2000, 1 + 0x30 * 2 ^ 8), (0x3000, 1 + 2 + 4 + 8 + 16 + 1 * 2 ^ 52)]

/-- The context that the word runs in: its page table root, a key slot, a handler and a save area (R380, R387). -/
def fetchCtx : Ctx :=
  { root := 0x1000, keys := [1], energyAddr := 0x4000, schedAddr := 0x4100, trapAddr := 0x4200, level := 1000000,
    cap := 1000000, refill := 1000, quantum := 1, eopok := true, state := .running }

/-- What dispatch gives the strand: 32 live slots, 128 vector rows, 16 uniform blocks, four tiles and a scratchpad block
of 2^16 bytes on core 0 with its window (R65, R124, R170). -/
def fetchInfo : StrandInfo :=
  { live := 0xFFFFFFFF#32, vrows := 128, ublk := 16, tiles := [0, 1, 2, 3], nstrand := 1, spBase := 0, spLog := 16,
    winBase := 0x4000000, segs := [(0, 0)], entry := BitVec.ofNat 64 fetchPlace }

/-- A Ready strand in slot 0 at the placed word, with the 64-byte code line that it has fetched: the word, and zeros. -/
def fetchStrand (w : Word) : Strand :=
  { resident := true, info := fetchInfo, pc := BitVec.ofNat 64 fetchPlace, masks := [(0, 0xFFFFFFFF#32)],
    line := some (fetchPlace, bytesOfWord w ++ List.replicate 60 0) }

/-- The state with an instruction of `nbits` bits where the next step fetches: a strand that is alone, Ready, with a
positive purse, its packet in memory and the packet's line fetched. Nothing else can move. -/
def State.withFetchWord (s : State) (nbits w : Nat) : State :=
  let hbm := (fetchTables.foldl (fun (m : Bytes) x => storeBytes m x.1 (natLe 8 x.2)) [])
  let word := BitVec.ofNat 32 (w % 2 ^ nbits)
  let hbm := storeBytes hbm fetchPlace (bytesOfWord word)
  { s with
    power := .on, inputs := [], stuck := [], held := [], stalled := false, pending := [], iss := {}, hbm := hbm, keyed := [],
    strands := [(0, fetchStrand word)],
    cores := [(0, { blocks := [{ off := 0, lg := 16, ctx := 0, users := [0], exitPending := false }] })],
    quarters := [(0, { tiles := [(0, { owner := some 0 }), (1, { owner := some 0 }), (2, { owner := some 0 }),
                                 (3, { owner := some 0 })],
                       purses := [(0, { level := 64000 })], rowsUsed := 14, ublkUsed := 16 })],
    ctxs := [(0, fetchCtx)],
    parts := [(0, { quads := [0], op := 7, maxop := 7 })] }

end Sys2Proof.Machine
end

