-- ==== Sys2Proof/Safety.lean ====
section
/-!
DEFINITION. What claims are stated in: the invariant of the package's memories, the states that a step can lead to, what
a word leaves unchanged, and when the operands of a word are ready.
-/

namespace Sys2Proof.Machine

/-! ### Memory and runs -/

/-- Both memories are in canonical form. -/
def State.memWf (s : State) : Bool := Memory.wf s.hbm && Memory.wf s.hostMem

/-- One step leads from a state to another. -/
def State.stepsTo (s s' : State) : Prop := step s = .next s'

/-! ### What a word leaves unchanged -/

/-- A state with other strands and another issue context. -/
def State.withOwn (t : State) (strands : Assoc Strand) (iss : Issue) : State := { t with strands := strands, iss := iss }

/-- Nothing outside the issuing strand and the issue context has changed: no byte of memory, no other strand, no core,
quarter, die, context or queue. -/
structure State.OnlyStrand (s t : State) : Prop where
  outside : t.withOwn s.strands s.iss = s
  mem : ∀ p, t.memByte p = s.memByte p
  others : ∀ g, g ≠ s.iss.g → t.strand g = s.strand g
  same : t.iss.g = s.iss.g

/-- The word has taken effect, and its only mark on the issue context is its issue-time charge. -/
def State.Charged (s t : State) (raw : List (Nat × Nat)) : Prop :=
  t.iss = { s.iss with raw := s.iss.raw ++ raw, res := .done }

/-- Of a strand, at most uniform registers of a list differ. -/
structure Strand.KeepsBut (x y : Strand) (regs : List Nat) : Prop where
  rest : { y with uregs := x.uregs } = x
  uregs : ∀ r, r ∉ regs → y.uregs.get r = x.uregs.get r

/-- The whole frame of a uniform word that writes the registers of a list: it is charged one uniform word, and nothing
else of the package changes. -/
def State.UniformFrame (s t : State) (regs : List Nat) : Prop :=
  s.OnlyStrand t ∧ s.Charged t [(1, 1)] ∧ s.me.KeepsBut t.me regs

/-! ### Operands that are ready -/

/-- Every uniform register group of a list is aligned and allotted, and none of it awaits a load. -/
def State.UReady (s : State) (regs : List (Nat × Nat)) : Prop :=
  ∀ r ∈ regs, s.old.uGroupOk r.1 r.2 = true ∧ s.old.pendsU r.1 r.2 = false

/-- R71, R74. The strand as a V word reads it: late results that are due have committed. -/
def State.vReads (s : State) : Strand := s.old.commitLate (lateDue (s.old.vseq + 1))

/-- R41 to R45, R68, R74, R75. The sources of a V word are legal and have arrived, its destination is not pending, the rod
is free, and no late result must still come. -/
def State.VReady (s : State) (srcs : List VSrc) (dst : Option (Nat × Nat)) : Prop :=
  (∀ x ∈ srcs, s.old.vSrcOk x = true ∧ s.old.vSrcPends x = false) ∧ s.old.flight = none ∧
  (∀ r n, dst = some (r, n) → s.old.pendsV r n = false) ∧ s.old.lateWaits = false

end Sys2Proof.Machine
end

