-- ==== Sys2Proof/Certificates/Slice0/Obligations.lean ====
section
/-!
DEFINITION. The statements for the provers, and the rules of the spec as functions (Sys2Proof.Claims), in which they are
said.
-/

namespace Sys2Proof.Claims
end Sys2Proof.Claims

open Sys2Proof Sys2Proof.Machine Sys2Proof.Claims

/-! ### The whole machine -/

/-- R28, R35, R46 to R53. Words written out bit by bit (chain bit, major, then the fields of the row) and the instruction
that each stands for, of every family; and words of the table of R57 that are no instruction, with their causes. -/
def Obligations.WordsDecodeAsTheTableSays : Prop :=
  decode 0b00000001_00000101_00000110_00000111#32 = .ok (.uadd false 5 6 7) ∧
  decode 0b10010100_00001001_11111111_10000000#32 = .ok (.uaddi true 9 0xFF80) ∧
  decode 0b00011110_00000100_00001000_00000001#32 = .ok (.ust false 4 8 1) ∧
  decode 0b11111110_01_10_11_01_0001001000110100#32 = .ok (.upfx 1 2 3 1 0x1234) ∧
  decode 0b11111111_010_011_1_01_10_11_10100101_000#32 = .ok (.vpfx 2 3 1 1 2 3 0xA5) ∧
  decode 0b00110011_00000001_00000010_10000011#32 = .ok (.vsel false 1 2 0x83) ∧
  decode 0b00110100_0_101_0_011_00000010_00000100#32 = .ok (.vcmpI false 5 3 2 4) ∧
  decode 0b01000111_00000001_00000010_0_1_000_011#32 = .ok (.vcvt false 1 2 1 0 3) ∧
  decode 0b01010100_00001000_00001010_110_1_1001#32 = .ok (.vatom false 8 10 6 1 9) ∧
  decode 0b01100010_10_000_101_01000000_00000000#32 = .ok (.mtov false 2 5 64) ∧
  decode 0b01100100_11_000000_00001000_000_1_1010#32 = .ok (.mdrain false 3 8 1 10) ∧
  decode 0b01101010_0000_1001_0000_0110_00000011#32 = .ok (.hmove false 9 6) ∧
  decode 0b01110000_00000111_010_1111111111110#32 = .ok (.br false 7 2 0x1FFE) ∧
  decode 0b11110001_11111111_11111111_11111111#32 = .ok (.jmp true 0xFFFFFF) ∧
  decode 0b01110011_011_000_10_00000000_00000111#32 = .ok (.fence false 3 2) ∧
  decode 0b01110101_00001100_00000_110_00001010#32 = .ok (.mtake false 12 6) ∧
  decode 0b01110110_010_10001_00001001_00000001#32 = .ok (.bara false 2 17 9) ∧
  decode 0b01110111_0000_0011_00001000_00001000#32 = .ok (.coll false 3 8) ∧
  decode 0b01111000_000000_10_00000100_00000000#32 = .ok (.asdef false 2 4) ∧
  decode 0b01111001_00000110_00000010_00000010#32 = .ok (.eop false 6 2) ∧
  decode 0b01111010_00001000_00000000_00000001#32 = .ok (.tstamp false 8) ∧
  decode 0b01111011_00000110_00000010_00000000#32 = .ok (.trd false 6 2) ∧
  decode 0x5E000000#32 = .error .illegalOpcode ∧ decode 0x73000009#32 = .error .illegalOpcode ∧
  decode 0x00000001#32 = .error .illegalOperand ∧
  groupLegal [0xFF000000#32, 0x01010203#32] 0 = false ∧ groupLegal [0xA0010203#32] 2 = false ∧
  groupLegal [0xA0010203#32, 0x21040506#32] 0 = false ∧ groupLegal [0xF3000009#32] 2 = false ∧
  groupLegal [0xA0010203#32, 0x01040506#32] 0 = true

/-- R15, R28, R35. No bit of an encoding is dropped, in either direction: the bytes of the word that encodes a well-formed
instruction decode to that instruction with every operand, and a word that decodes to an instruction is the one word that
encodes it. -/
def Obligations.DecodeAndEncodeAgree : Prop :=
  (∀ (i : Instr) (w : Word), i.wellFormed = true → encode i = some w → decodeBytes (bytesOfWord w) = .ok i) ∧
  (∀ (w : Word) (i : Instr), decode w = .ok i → encode i = some w)

/-- R25, R29, R31, R32, R77, R354. A step runs the decoded instruction. When one quarter alone can move, one strand of it
alone presents a group that no earlier stop holds, its line is fetched, and the group at its boundary is the one legal word
w that decodes to i, and the trial of i against the strand lets it go on, then a step is exec of i in the word's state,
followed by the group's charge and count and the strand's new boundary (finishGroup), by the quarter's deficits
(settleIssue), and by the clock (tick). -/
def Obligations.StepRunsTheDecodedWord : Prop :=
  ∀ (s s1 u t : State) (q g c : Nat) (d : Int) (l : List Byte) (w : Word) (i : Instr),
    let b := s.strand g
    let o := s1.openGroup g l
    let x := o.strand g
    let defs := replenish [(b.info.ctx, (s.quarter q).def_ b.info.ctx, s.quantumOf b.info.ctx)]
    let r := t.noPrefix.finishGroup g x (o.workOf g) [w]
    s.moves = [.issue q] → s.presenters q = [g] →
    b.aset.bad = 0 → b.aset.unread = false → b.leaving = false → s.skidBlocked g = false → s.pursePositive g = true → b.flight = none →
    pcValid b.pc = true → s.fetchLine g = (s1, .line l) → x.flight = none → x.widx = b.widx →
    (b.widx = 0 ∨ ((packetWords l b.pc).drop b.widx).all (· == 0#32) = false) →
    groupFrom ((packetWords l b.pc).drop b.widx) 3 = [w] → groupLegal [w] b.widx = true → decode w = .ok i →
    isUpfx w = false → isVpfx w = false →
    exec i (o.atWord b.widx) = .next u → u.iss.res = .done →
    exec i (o.going.atWord b.widx) = .next t → t.iss.res = .done →
    r.1.stalled = false → pickCtx (s.quarter q).ptr defs = some (c, d) →
    step s = .next ((r.1.settleIssue q defs c (d - r.2)).tick)

/-- The instruction has the name of the due event, and its data. -/
def Sys2Proof.Claims.Named : Event → Instr → Prop
  | .vWordCompletion g, x => x = .vWordCompletion g
  | .specialFunctionDelivery g k, x => x = .specialFunctionDelivery g k
  | .scratchpadResultDelivery g k, x => x = .scratchpadResultDelivery g k
  | .globalLoadCompletion id, x => x = .globalLoadCompletion id
  | .yieldWindowExpiry g, x => x = .yieldWindowExpiry g
  | .storeQueueTranslation g, x => x = .storeQueueTranslation g
  | .storeArrivesHome core id, x => x = .storeArrivesHome core id
  | .pageWalkStart die, x => x = .pageWalkStart die
  | .pageWalkComplete die id, x => x = .pageWalkComplete die id
  | .combiningFlushApplied core id, x => x = .combiningFlushApplied core id
  | .sharedCacheWriteback line, x => x = .sharedCacheWriteback line
  | .remoteMessage core, x => x = .remoteMessage core
  | .remoteReply g k, x => x = .remoteReply g k
  | .fullEmptyWake g, x => x = .fullEmptyWake g
  | .scratchpadBlockReturn core off, x => x = .scratchpadBlockReturn core off
  | .launchCommandCheck ctx, x => x = .launchCommandCheck ctx
  | .dispatchPlacement part, x => x = .dispatchPlacement part
  | .granuleRequest slice, x => x = .granuleRequest slice
  | .granuleGrant g base glog, x => x = .granuleGrant g base glog
  | .granuleRelease slice, x => x = .granuleRelease slice
  | .wound stamp restart, x => x = .wound stamp restart
  | .rollback g, x => x = .rollback g
  | .rollbackRestart g, x => x = .rollbackRestart g
  | .irrevocableTokenGrant, x => x = .irrevocableTokenGrant
  | .holdBufferDrainComplete g, x => x = .holdBufferDrainComplete g
  | .asretryDelayExpiry g, x => x = .asretryDelayExpiry g
  | .mmaStagingComplete q id, x => x = .mmaStagingComplete q id
  | .mmaStart q, x => x = .mmaStart q
  | .mmaRowCommit q, x => x = .mmaRowCommit q
  | .mmaComplete q, x => x = .mmaComplete q
  | .mmaSuspension q, x => x = .mmaSuspension q
  | .tilePortComplete q tile, x => x = .tilePortComplete q tile
  | .governorStepBoundary die, x => x = .governorStepBoundary die
  | .copyRequestStart core id, x => x = .copyRequestStart core id
  | .ckickEntryFetch core id, x => x = .ckickEntryFetch core id
  | .copyChunkComplete core id, x => x = .copyChunkComplete core id
  | .copyRequestComplete core id, x => x = .copyRequestComplete core id
  | .copyFailure core id, x => x = .copyFailure core id
  | .copyCancelEffect core id, x => x = .copyCancelEffect core id
  | .byteBarrierWake g, x => x = .byteBarrierWake g
  | .barrierWake g, x => x = .barrierWake g
  | .queueHomeStep g, x => x = .queueHomeStep g
  | .queueEntryWritten id, x => x = .queueEntryWritten id
  | .queueEntryRead id, x => x = .queueEntryRead id
  | .queueWaiterServe hdr pop, x => x = .queueWaiterServe hdr pop
  | .timelineWake g, x => x = .timelineWake g
  | .taskWordHomeReply g, x => x = .taskWordHomeReply g
  | .collectiveComplete id contribs, x => x = .collectiveComplete id contribs
  | .drawServed, x => x = .drawServed
  | .opChangeClockRestart part, x => x = .opChangeClockRestart part
  | .partitionHaltComplete ctx, x => x = .partitionHaltComplete ctx
  | .spillComplete id, x => x = .spillComplete id
  | .refillComplete g, x => x = .refillComplete g
  | .trapEntry g, x => x = .trapEntry g
  | .queueInterfaceFetch i, x => x = .queueInterfaceFetch i
  | .errorLogEntryWrite log, x => x = .errorLogEntryWrite log
  | .meterBatchWrite, x => x = .meterBatchWrite
  | .counterWrap id entry, x => x = .counterWrap id entry
  | .linkRekeyInterrupt way, x => x = .linkRekeyInterrupt way

/-- The model's choice (log entries 6, 7 and 8): one move is made per step, and where several are possible an open value of the
configuration picks it. Nothing to do leaves only the clock's advance; the one input is taken from the list and its
instruction is executed, or it waits where it stalls on a link (R415); so does a late one; the one event that may happen is
taken from the due events and the instruction of its name is executed; among several moves the step takes the one that the
free choice names. A package that is frozen or off does only what the outside world does to it (R431, R433). What is no issue
ends the clock in which EOP words meet (R367). -/
def Obligations.StepMakesOneMove : Prop :=
  (∀ (e : Event) (i : Instr) (s : State), Named e i → runEvent e s = exec i s) ∧
  (∀ s : State, s.moves = [] → step s = .next s.tick) ∧
  (∀ (s t : State) (i : Instr) (l : List Instr), s.moves = [.input] → s.inputs = i :: l → s.admits i = true →
    exec i { s.closeClock .input with inputs := l } = .next t →
    (t.stalled = false → step s = .next t.tick) ∧
    (t.stalled = true → step s = .next ({ s.closeClock .input with inputs := l, stuck := s.stuck ++ [i] } : State).tick)) ∧
  (∀ (s t : State) (i : Instr) (l : List Instr), s.moves = [.late] → s.stuck = i :: l →
    exec i { s.closeClock .late with stuck := l } = .next t → step s = .next t.tick) ∧
  (∀ (s t : State) (e : Event) (i : Instr), s.moves = [.event e] → Named e i →
    exec i { s.closeClock (.event e) with pending := s.pending.erase e } = .next t → step s = .next t.tick) ∧
  (∀ (s t : State) (m : Move), 1 < s.moves.length → s.moves[Config.pick s.free % s.moves.length]? = some m →
    (s.stepFree.closeClock m).make m = .next t → step s = .next t.tick) ∧
  (∀ (s : State) (q : Nat) (m : Move), s.closeClock (.issue q) = s ∧
    ((∀ q, m ≠ .issue q) → s.closeClock m = { s with parts := s.parts.map (fun x => (x.1, { x.2 with eop := none })) })) ∧
  (∀ (s : State), s.power ≠ .on → ∀ m ∈ s.moves, m = .input)

/-- R188, R414. A store to memory: each stored byte reads as stored, a block of bytes reads back whole, every other byte of
both memories reads as before, nothing changes but the memory and the key slots under which its bytes were written, and a memory in canonical form stays so. -/
def Obligations.MemoryReadsWhatWasStored : Prop :=
  ∀ (s : State) (p : PAddr) (l : List Byte),
    let t := s.memWrite p l
    (∀ i, i < l.length → t.memByte (p.plus i) = l.getD i 0) ∧ t.memBytes p l.length = l ∧
    (∀ a : PAddr, (a.host ≠ p.host ∨ a.addr < p.addr ∨ p.addr + l.length ≤ a.addr) → t.memByte a = s.memByte a) ∧
    { t with hbm := s.hbm, hostMem := s.hostMem, keyed := s.keyed } = s ∧ (s.memWf = true → t.memWf = true)

/-- R433, and the model's choices of log entries 3 and 4. After bring-up the package is on, holds no context, partition, strand
or locked interface, has nothing to do, and its memories are in canonical form and list nothing: every byte reads as
zero, which is the model's choice. -/
def Obligations.ResetIsQuiet : Prop :=
  State.reset.power = .on ∧ State.reset.ctxs = [] ∧ State.reset.parts = [] ∧ State.reset.strands = [] ∧
  State.reset.ifaces = [] ∧ State.reset.memWf = true ∧ (∀ p, State.reset.memByte p = 0) ∧ State.reset.moves = [] ∧
  step State.reset = .next State.reset.tick

/-- The invariant of the memories: a step from any state whose two memories are in canonical form leads to such a state,
whatever move it makes. -/
def Obligations.EveryStepKeepsMemoryCanonical : Prop :=
  ∀ s t : State, s.memWf = true → step s = .next t → t.memWf = true

/-- R188, R56. No step is refused, and a step faults only where a host transaction names an address at or above 2^40, where
no device address lies: the next input, or, in states that no run reaches, the first input that stalled or the stopped word of
a strand. Every word of a
program ends in a next state, a trap entered included. -/
def Obligations.StepsNeverRefuse : Prop :=
  ∀ s : State, (∀ r, step s ≠ .refused r) ∧
    (∀ f, step s = .fault f → f = .noSuchAddress ∧ ∃ x,
      (s.inputs.head? = some (.hostAccess x) ∨ s.stuck.head? = some (.hostAccess x) ∨ ∃ y ∈ s.strands, ∃ f, y.2.flight = some f ∧ f.instr = .hostAccess x) ∧
      2 ^ 40 < x.addr + (if x.write then x.data.length else x.len))

/-! ### Uniform words -/

/-- R127. The result of each three-operand integer word from its operands a and b of w bits; the fields are D, A and B.
The shifts read b as an unsigned count, and a count of w or more leaves nothing but zeros, or the sign in USAR. -/
def Sys2Proof.Claims.ruleThree : Instr → Option ((BitVec 8 × BitVec 8 × BitVec 8) × Alu2)
  | .uadd _ d a b => some ((d, a, b), fun _ x y => x + y)
  | .usub _ d a b => some ((d, a, b), fun _ x y => x - y)
  | .umul _ d a b => some ((d, a, b), fun _ x y => x * y)
  | .umulhI _ d a b => some ((d, a, b), fun w x y => BitVec.ofInt w (x.toInt * y.toInt / 2 ^ w))
  | .umulhN _ d a b => some ((d, a, b), fun w x y => BitVec.ofNat w (x.toNat * y.toNat / 2 ^ w))
  | .uand _ d a b => some ((d, a, b), fun _ x y => x &&& y)
  | .uor _ d a b => some ((d, a, b), fun _ x y => x ||| y)
  | .uxor _ d a b => some ((d, a, b), fun _ x y => x ^^^ y)
  | .uandn _ d a b => some ((d, a, b), fun _ x y => x &&& ~~~y)
  | .ushl _ d a b => some ((d, a, b), fun _ x y => x <<< y)
  | .ushr _ d a b => some ((d, a, b), fun _ x y => x >>> y)
  | .usar _ d a b => some ((d, a, b), fun _ x y => x.sshiftRight' y)
  | .uminI _ d a b => some ((d, a, b), fun w x y => BitVec.ofInt w (min x.toInt y.toInt))
  | .uminN _ d a b => some ((d, a, b), fun w x y => BitVec.ofNat w (min x.toNat y.toNat))
  | .umaxI _ d a b => some ((d, a, b), fun w x y => BitVec.ofInt w (max x.toInt y.toInt))
  | .umaxN _ d a b => some ((d, a, b), fun w x y => BitVec.ofNat w (max x.toNat y.toNat))
  | .usltI _ d a b => some ((d, a, b), fun _ x y => if x.toInt < y.toInt then 1 else 0)
  | .usltN _ d a b => some ((d, a, b), fun _ x y => if x.toNat < y.toNat then 1 else 0)
  | .useq _ d a b => some ((d, a, b), fun _ x y => if x = y then 1 else 0)
  | _ => none

/-- A three-operand integer word (R123, R127) whose registers are aligned, allotted and not pending completes: at width
32 s(D) becomes the result of the rule from s(A) and s(B), and under W = 01 the pair at D becomes the 64-bit result. No
other register, no flag and no byte of memory changes (the frame). -/
def Obligations.UniformThreeOperand : Prop :=
  ∀ (i : Instr) (d a b : BitVec 8) (f : Alu2) (s : State), ruleThree i = some ((d, a, b), f) → s.up.imm = 0 →
    (s.up.w = 0 → s.UReady [(ureg s.up.xd d, 1), (ureg s.up.xa a, 1), (ureg s.up.xb b, 1)] →
      ∃ t, exec i s = .next t ∧
        t.me.uregs.get (ureg s.up.xd d) = f 32 (s.u (ureg s.up.xa a)) (s.u (ureg s.up.xb b)) ∧
        s.UniformFrame t [ureg s.up.xd d]) ∧
    (s.up.w = 1 → s.UReady [(ureg s.up.xd d, 2), (ureg s.up.xa a, 2), (ureg s.up.xb b, 2)] →
      ∃ t, exec i s = .next t ∧
        dword (t.me.uregs.get (ureg s.up.xd d)) (t.me.uregs.get (ureg s.up.xd d + 1))
          = f 64 (s.u2 (ureg s.up.xa a)) (s.u2 (ureg s.up.xb b)) ∧
        s.UniformFrame t [ureg s.up.xd d, ureg s.up.xd d + 1])

/-- R129. The result of each unary word from its operand a of w bits. -/
def Sys2Proof.Claims.ruleOne : Instr → Option ((BitVec 8 × BitVec 8) × Alu1)
  | .uclz _ d a => some ((d, a), fun _ x => x.clz)
  | .upopc _ d a => some ((d, a), fun w x => BitVec.ofNat w ((List.range w).countP (fun j => x.getLsbD j)))
  | .ubrev _ d a => some ((d, a), fun _ x => x.reverse)
  | .usext8 _ d a => some ((d, a), fun w x => (x.extractLsb' 0 8).signExtend w)
  | .usext16 _ d a => some ((d, a), fun w x => (x.extractLsb' 0 16).signExtend w)
  | .uneg _ d a => some ((d, a), fun _ x => -x)
  | .uabs _ d a => some ((d, a), fun _ x => x.abs)
  | _ => none

/-- A unary integer word (R123, R129) whose registers are ready completes with the result of the rule, at width 32 or,
under W = 01, on pairs; the frame as for the three-operand words. -/
def Sys2Proof.Claims.uniformUnary : Prop :=
  ∀ (i : Instr) (d a : BitVec 8) (f : Alu1) (s : State), ruleOne i = some ((d, a), f) → s.up.imm = 0 → s.up.xb = 0 →
    (s.up.w = 0 → s.UReady [(ureg s.up.xd d, 1), (ureg s.up.xa a, 1)] →
      ∃ t, exec i s = .next t ∧ t.me.uregs.get (ureg s.up.xd d) = f 32 (s.u (ureg s.up.xa a)) ∧
        s.UniformFrame t [ureg s.up.xd d]) ∧
    (s.up.w = 1 → s.UReady [(ureg s.up.xd d, 2), (ureg s.up.xa a, 2)] →
      ∃ t, exec i s = .next t ∧
        dword (t.me.uregs.get (ureg s.up.xd d)) (t.me.uregs.get (ureg s.up.xd d + 1)) = f 64 (s.u2 (ureg s.up.xa a)) ∧
        s.UniformFrame t [ureg s.up.xd d, ureg s.up.xd d + 1])

/-- R130, R131. The result of the bit-field and floating-point words from the old s(D), s(A) and s(B), with the flags that
it raises. UBFE takes the field of L = min(LEN, 32 − POS) bits at POS; UBFI puts the low bits of s(A) there; the sum and
the product are rounded to nearest even; UFSLT is 1 when both operands are ordered and a < b. -/
def Sys2Proof.Claims.ruleField : Instr → Option ((BitVec 8 × BitVec 8 × BitVec 8) × (Word → Word → Word → Word × Nat))
  | .ubfe _ d a b => some ((d, a, b), fun _ x c =>
      let pos := c.toNat % 32
      let len := min (c.toNat / 2 ^ 8 % 64) (32 - pos)
      let f := x.toNat / 2 ^ pos % 2 ^ len
      (if c.getLsbD 16 && 0 < len && 2 ^ (len - 1) ≤ f then BitVec.ofInt 32 ((f : Int) - 2 ^ len) else BitVec.ofNat 32 f, 0))
  | .ubfi _ d a b => some ((d, a, b), fun z x c =>
      let pos := c.toNat % 32
      let m := BitVec.ofNat 32 ((2 ^ min (c.toNat / 2 ^ 8 % 64) (32 - pos) - 1) * 2 ^ pos)
      ((z &&& ~~~m) ||| ((x <<< pos) &&& m), 0))
  | .ufadd _ d a b => some ((d, a, b), fun _ x y =>
      (BitVec.ofNat 32 (f32.add rne x.toNat y.toNat).1, (f32.add rne x.toNat y.toNat).2))
  | .ufmul _ d a b => some ((d, a, b), fun _ x y =>
      (BitVec.ofNat 32 (f32.mul rne x.toNat y.toNat).1, (f32.mul rne x.toNat y.toNat).2))
  | .ufslt _ d a b => some ((d, a, b), fun _ x y => (if (fcmp 2 x y).1 then 1 else 0, (fcmp 2 x y).2))
  | _ => none

/-- A bit-field or floating-point uniform word (R130, R131) whose registers are ready and whose prefix is bare completes
with the result of the rule; its flags are ORed into SF (R111), and nothing else of the strand changes. -/
def Sys2Proof.Claims.uniformFieldAndFloat : Prop :=
  ∀ (i : Instr) (d a b : BitVec 8) (f : Word → Word → Word → Word × Nat) (s : State), ruleField i = some ((d, a, b), f) →
    s.up.imm = 0 → s.up.w = 0 → s.UReady [(ureg s.up.xd d, 1), (ureg s.up.xa a, 1), (ureg s.up.xb b, 1)] →
    ∃ t r, r = f (s.u (ureg s.up.xd d)) (s.u (ureg s.up.xa a)) (s.u (ureg s.up.xb b)) ∧ exec i s = .next t ∧
      t.me.uregs.get (ureg s.up.xd d) = r.1 ∧ t.me.sf = s.me.sf ||| BitVec.ofNat 32 r.2 ∧ s.OnlyStrand t ∧
      (∀ n, n ≠ ureg s.up.xd d → t.me.uregs.get n = s.me.uregs.get n) ∧
      { t.me with uregs := s.me.uregs, sf := s.me.sf } = s.me ∧
      t.iss = { s.iss with raw := s.iss.raw ++ [(1, 1)], vflags := s.iss.vflags ||| r.2, res := .done }

/-- R123, R129 to R131, R111. The unary integer words, the bit-field words and the floating-point uniform words complete with
the results of their rules once their registers are ready; the flags of the last enter SF, and nothing else changes. -/
def Obligations.UniformUnaryFieldAndFloat : Prop :=
  Sys2Proof.Claims.uniformUnary ∧ Sys2Proof.Claims.uniformFieldAndFloat

/-- R128. UADDI adds and UMOVI writes the immediate, which is IMM16 extended with its sign, or IMMHI:IMM16 under UPFX;
at width 64 it is extended again with its sign. ULUI writes IMM16 into the upper half and allows no IMMHI. -/
def Obligations.UniformImmediate : Prop :=
  ∀ (c : Bool) (d : BitVec 8) (i : BitVec 16) (s : State),
    let rd := ureg s.up.xd d
    let v : Word := match s.iss.up with | none => i.signExtend 32 | some p => p.imm ++ i
    (s.up.xa = 0 → s.up.xb = 0 →
      (s.up.w = 0 → s.UReady [(rd, 1)] →
        (∃ t, exec (.uaddi c d i) s = .next t ∧ t.me.uregs.get rd = s.u rd + v ∧ s.UniformFrame t [rd]) ∧
        (∃ t, exec (.umovi c d i) s = .next t ∧ t.me.uregs.get rd = v ∧ s.UniformFrame t [rd])) ∧
      (s.up.w = 1 → s.UReady [(rd, 2)] →
        (∃ t, exec (.uaddi c d i) s = .next t ∧ s.UniformFrame t [rd, rd + 1] ∧
          dword (t.me.uregs.get rd) (t.me.uregs.get (rd + 1)) = s.u2 rd + v.signExtend 64) ∧
        (∃ t, exec (.umovi c d i) s = .next t ∧ s.UniformFrame t [rd, rd + 1] ∧
          dword (t.me.uregs.get rd) (t.me.uregs.get (rd + 1)) = v.signExtend 64))) ∧
    (s.up.w = 0 → s.up.xa = 0 → s.up.xb = 0 → s.up.imm = 0 → s.UReady [(rd, 1)] →
      ∃ t, exec (.ului c d i) s = .next t ∧ t.me.uregs.get rd = i.setWidth 32 <<< 16 ∧ s.UniformFrame t [rd])

/-- R41, R45. The group of n uniform registers from r is misaligned, or lies in part at or beyond the allotted blocks. -/
def Sys2Proof.Claims.misfit (s : State) (r n : Nat) : Prop := r % n ≠ 0 ∨ s.old.info.ublk * 64 < r + n

/-- R119, R123, R40, R41, R45. The illegal operands of the uniform words: a width code of 10 or 11 where the word allows
only 32 and 64 bits, one other than 00 where it allows only 32 bits, an unused prefix field that is not zero, and a register
group that is misaligned or not allotted. Each is an illegal encoding with cause ILLEGAL_OPERAND, whatever else holds of the
state, and changes nothing. -/
def Sys2Proof.Claims.uniformIllegalOperand : Prop :=
  ∀ s : State,
    let w := s.up.w.toNat
    let rd (d : BitVec 8) := ureg s.up.xd d
    let ra (a : BitVec 8) := ureg s.up.xa a
    let rb (b : BitVec 8) := ureg s.up.xb b
    let refused (i : Instr) : Prop := exec i s = .next (s.setRes (.enc .illegalOperand))
    (∀ i d a b f, ruleThree i = some ((d, a, b), f) →
      (2 ≤ w ∨ s.up.imm ≠ 0 ∨ misfit s (rd d) (2 ^ w) ∨ misfit s (ra a) (2 ^ w) ∨ misfit s (rb b) (2 ^ w)) → refused i) ∧
    (∀ i d a f, ruleOne i = some ((d, a), f) →
      (2 ≤ w ∨ s.up.imm ≠ 0 ∨ s.up.xb ≠ 0 ∨ misfit s (rd d) (2 ^ w) ∨ misfit s (ra a) (2 ^ w)) → refused i) ∧
    (∀ i d a b f, ruleField i = some ((d, a, b), f) →
      (w ≠ 0 ∨ s.up.imm ≠ 0 ∨ misfit s (rd d) 1 ∨ misfit s (ra a) 1 ∨ misfit s (rb b) 1) → refused i) ∧
    (∀ c d i, (2 ≤ w ∨ s.up.xa ≠ 0 ∨ s.up.xb ≠ 0 ∨ misfit s (rd d) (2 ^ w)) → refused (.uaddi c d i) ∧ refused (.umovi c d i)) ∧
    (∀ c d i, (w ≠ 0 ∨ s.up.imm ≠ 0 ∨ s.up.xa ≠ 0 ∨ s.up.xb ≠ 0 ∨ misfit s (rd d) 1) → refused (.ului c d i)) ∧
    (∀ c d a o, (s.up.imm ≠ 0 ∨ s.up.xb ≠ 0 ∨ misfit s (rd d) (2 ^ w) ∨ misfit s (ra a) 2) →
      refused (.uld c d a o) ∧ refused (.ust c d a o))

/-- R33. The all-zero word decodes to UNOP, which has no effect and no charge of its own; a word of major 0x00 with a
non-zero body is an illegal encoding with cause ILLEGAL_OPERAND. -/
def Obligations.UnopHasNoEffect : Prop :=
  decode 0#32 = .ok .unop ∧ (∀ s : State, exec .unop s = .next (s.setRes .done)) ∧
  (∀ w : Word, fieldMaj w = 0 → w &&& 0x00FFFFFF#32 ≠ 0 → decode w = .error .illegalOperand) ∧
  pipeOf (fieldMaj 0#32) = 1

/-- R37, R39. A prefix word sets the fields of the word after it, and does nothing else. -/
def Obligations.PrefixesSetFields : Prop :=
  (∀ (d a b w : BitVec 2) (i : BitVec 16) (s : State),
    exec (.upfx d a b w i) s = .next { s with iss := { s.iss with
      up := some { xd := d, xa := a, xb := b, w := w, imm := i }, res := .done } }) ∧
  (∀ (m r : BitVec 3) (z : BitVec 1) (d a b : BitVec 2) (c : BitVec 8) (s : State),
    exec (.vpfx m r z d a b c) s = .next { s with iss := { s.iss with
      vp := some { msk := m, rm := r, zm := z == 1, wd := d, wa := a, wb := b, c := c }, res := .done } })

/-! ### Uniform memory words -/

/-- ULD (R132, R133). With operands ready, an aligned canonical address outside the window that no slot of an earlier V
memory word still touches and that translates to p, no combining entry, no earlier store and no set in the way, and no
acquire to settle, the word completes: a load of n = 4 × 2^W bytes at p into s(D) upwards starts, with nothing bound yet.
In the scratchpad window, once the strand's earlier accesses are done, it completes too. In the strand's own core the load
carries the bytes that stand at the window offset; to another core a message asks for them, and the load returns with its
reply. The registers are pending and keep their values, and memory does not change. -/
def Sys2Proof.Claims.uniformLoad : Prop :=
  ∀ (c : Bool) (d a o : BitVec 8) (s : State),
    let g := s.iss.g
    let rd := ureg s.up.xd d
    let ra := ureg s.up.xa a
    let n := 4 * 2 ^ s.up.w.toNat
    let va := (s.u2 ra + o.signExtend 64 * BitVec.ofNat 64 n).toNat
    s.up.imm = 0 → s.up.xb = 0 → s.UReady [(rd, 2 ^ s.up.w.toNat), (ra, 2)] → s.awaitsAcquire = false →
    canonical va = true → va % n = 0 →
    (s.me.window va = none → s.me.inSet va = none → s.rodTouches g va n = false → ∀ (s1 : State) (p : PAddr),
      (s.raw 1 1).translateFor (.group g) (s.workOf g) (coreOf g) va .load = (s1, .ok p) →
      (s1.lineBusy (coreOf g) s.me.info.ctx p).2 = false → s1.storeBefore g va n = false → s1.iss.g = g →
      let miss := !(s1.core (coreOf g)).l1.any (fun l => l.pa == p.line)
      exec (.uld c d a o) s = .next (s1.startLoad
        { id := 0, work := s1.workOf g, uni := true, reg := rd, slot := 0, pa := p, n := n, data := none, home := false,
          l1 := 1, trip := miss, miss := miss }).done) ∧
    (∀ x, s.me.window va = some x → x + n ≤ s.me.winSize → s.old.vmemOut = false → s.spadOrder g (s.me.winPlace x).1 = true →
      ((s.me.winPlace x).1 = coreOf g ∨ s.remoteFull (s.me.winPlace x).1 = false) →
      ∃ t r, exec (.uld c d a o) s = .next t ∧ t.iss.res = .done ∧ t.loads = s.loads ++ [r] ∧ r.uni = true ∧ r.reg = rd ∧
        r.n = n ∧ r.work.g = g ∧ r.id = s.nextId ∧
        ((s.me.winPlace x).1 = coreOf g →
          r.data = some ((List.range n).map (fun i => Sp.get 0 (s.core (coreOf g)).spad ((s.me.winPlace x).2 + i)))) ∧
        ((s.me.winPlace x).1 ≠ coreOf g → r.remote = true ∧ Event.remoteMessage (s.me.winPlace x).1 ∈ t.pending ∧
          ∃ m, (t.core (s.me.winPlace x).1).remote = (s.core (s.me.winPlace x).1).remote ++ [m] ∧ m.op = .load n ∧
            m.off = (s.me.winPlace x).2 ∧ m.dest = .load r.id ∧ m.work.g = g) ∧
        (∀ k, k < 2 ^ s.up.w.toNat → (rd + k, r.id) ∈ t.me.pendU) ∧ t.me.uregs = s.me.uregs ∧
        (∀ p, t.memByte p = s.memByte p))

/-- R75, R216. A load that starts takes the next serial number, marks its registers as pending until it returns, and its
return is due, unless a message brings it; its data register keeps its value, and memory does not change. -/
def Sys2Proof.Claims.loadStarts : Prop :=
  ∀ (r : LoadReq) (s : State),
    let t := s.startLoad r
    t.loads = s.loads ++ [{ r with id := s.nextId }] ∧ t.nextId = s.nextId + 1 ∧
    t.pending = s.pending ++ (if r.remote then [] else [.globalLoadCompletion s.nextId]) ∧
    (∀ k, k < r.n / 4 → r.uni = true → (r.reg + k, s.nextId) ∈ (t.strand r.work.g).pendU) ∧
    (∀ k, k < r.n / 4 → r.uni = false → (r.reg + k, r.slot, s.nextId) ∈ (t.strand r.work.g).pendV) ∧
    (∀ g, (t.strand g).uregs = (s.strand g).uregs ∧ (t.strand g).vregs = (s.strand g).vregs) ∧
    (∀ p, t.memByte p = s.memByte p)

/-- R132, R133, R75, R216. A ready ULD starts its load, or binds scratchpad bytes; a load that starts is pending until it
returns, and memory does not change. -/
def Obligations.UniformLoadStarts : Prop :=
  Sys2Proof.Claims.uniformLoad ∧ Sys2Proof.Claims.loadStarts

/-- UST (R132, R133, R202). Under the same conditions the word puts its n bytes, read at issue, into the core's store
queue for translation, and no byte of memory changes yet; in a window in the strand's own core the bytes are stored at the
window offset, and every other byte of that scratchpad and all of memory stay; to another core a message carries them, and
the strand counts one store more that is not acknowledged. -/
def Obligations.UniformStore : Prop :=
  ∀ (c : Bool) (d a o : BitVec 8) (s : State),
    let g := s.iss.g
    let rd := ureg s.up.xd d
    let ra := ureg s.up.xa a
    let n := 4 * 2 ^ s.up.w.toNat
    let va := (s.u2 ra + o.signExtend 64 * BitVec.ofNat 64 n).toNat
    let data := bytesOfWords ((List.range (2 ^ s.up.w.toNat)).map (fun i => s.u (rd + i)))
    s.up.imm = 0 → s.up.xb = 0 → s.UReady [(rd, 2 ^ s.up.w.toNat), (ra, 2)] → s.awaitsAcquire = false →
    canonical va = true → va % n = 0 →
    (s.me.window va = none → s.me.setBearing = false → s.rodTouches g va n = false → s.sqRoom (s.uEntry va data) = true →
      ∃ t e, exec (.ust c d a o) s = .next t ∧ t.iss.res = .done ∧
        (t.core (coreOf g)).sq = (s.core (coreOf g)).sq ++ [e] ∧ e.va = BitVec.ofNat 64 va ∧ e.data = data ∧
        e.pa = none ∧ e.ust = true ∧ e.work.g = g ∧ Event.storeQueueTranslation g ∈ t.pending ∧
        t.me = s.me ∧ (∀ p, t.memByte p = s.memByte p)) ∧
    (∀ x, s.me.window va = some x → x + n ≤ s.me.winSize → s.me.usent = none → s.old.vmemOut = false →
      s.spadOrder g (s.me.winPlace x).1 = true →
      ((s.me.winPlace x).1 = coreOf g →
        ∃ t, exec (.ust c d a o) s = .next t ∧ t.iss.res = .done ∧ t.hbm = s.hbm ∧ t.hostMem = s.hostMem ∧
          (∀ i, i < n → Sp.get 0 (t.core (coreOf g)).spad ((s.me.winPlace x).2 + i) = data.getD i 0) ∧
          (∀ j, (j < (s.me.winPlace x).2 ∨ (s.me.winPlace x).2 + n ≤ j) →
            Sp.get 0 (t.core (coreOf g)).spad j = Sp.get 0 (s.core (coreOf g)).spad j)) ∧
      ((s.me.winPlace x).1 ≠ coreOf g → s.remoteFull (s.me.winPlace x).1 = false →
        ∃ t m, exec (.ust c d a o) s = .next t ∧ t.iss.res = .done ∧ t.hbm = s.hbm ∧ t.hostMem = s.hostMem ∧
          (t.core (s.me.winPlace x).1).remote = (s.core (s.me.winPlace x).1).remote ++ [m] ∧ m.op = .store data ∧
          m.off = (s.me.winPlace x).2 ∧ m.work.g = g ∧ t.me.unacked = s.me.unacked + 1))

/-- R132, R187. ULD and UST of an address that is not canonical trap with LOAD_FAULT or STORE_FAULT, and of a canonical
address that is not a multiple of the access size with ALIGN; the trap is the word's only effect. -/
def Sys2Proof.Claims.uniformAccessTraps : Prop :=
  ∀ (c : Bool) (d a o : BitVec 8) (s : State),
    let rd := ureg s.up.xd d
    let ra := ureg s.up.xa a
    let n := 4 * 2 ^ s.up.w.toNat
    let va := (s.u2 ra + o.signExtend 64 * BitVec.ofNat 64 n).toNat
    s.up.imm = 0 → s.up.xb = 0 → s.UReady [(rd, 2 ^ s.up.w.toNat), (ra, 2)] → s.awaitsAcquire = false →
    (canonical va = false →
      exec (.uld c d a o) s = .next ((s.raw 1 1).setRes (.trap { cause := .loadFault, reason := 1, kind := 1, va := some va, size := n })) ∧
      exec (.ust c d a o) s = .next ((s.raw 1 1).setRes (.trap { cause := .storeFault, reason := 1, kind := 4, va := some va, size := n }))) ∧
    (canonical va = true → va % n ≠ 0 →
      exec (.uld c d a o) s = .next ((s.raw 1 1).setRes (.trap { cause := .align, kind := 1, va := some va, size := n })) ∧
      exec (.ust c d a o) s = .next ((s.raw 1 1).setRes (.trap { cause := .align, kind := 4, va := some va, size := n })))

/-- R41, R119, R123, R132, R187. The illegal operands of the uniform integer words, and the addresses with which ULD and UST
trap; in each case the trap is the word's only effect. -/
def Obligations.UniformWordTraps : Prop :=
  Sys2Proof.Claims.uniformIllegalOperand ∧ Sys2Proof.Claims.uniformAccessTraps

/-! ### System registers -/

/-- R124, R88, R104, R110. What each assigned system register reads as: the fields that dispatch sets, the flags, the
return stack, the format registers, the generator key, and the operating point of the partition; the other numbers are
unassigned. -/
def Sys2Proof.Claims.systemRegisterValues : Prop :=
  ∀ s : State,
    let i := s.old.info
    let p := s.part i.part
    s.sysReg 0x00 = some (BitVec.ofNat 32 (i.strandId % 256)) ∧ s.sysReg 0x01 = some (BitVec.ofNat 32 i.cohort) ∧
    s.sysReg 0x02 = some (BitVec.ofNat 32 i.cx) ∧ s.sysReg 0x03 = some (BitVec.ofNat 32 i.cy) ∧
    s.sysReg 0x04 = some (BitVec.ofNat 32 i.cz) ∧ s.sysReg 0x05 = some (BitVec.ofNat 32 (i.nstrand % 512)) ∧
    s.sysReg 0x06 = some i.live ∧ s.sysReg 0x07 = some (BitVec.ofNat 32 (s.pkg.num % 1024 * 65536 + s.iss.g % 65536)) ∧
    s.sysReg 0x08 = some s.old.sf ∧ s.sysReg 0x09 = some s.old.sfarm ∧
    s.sysReg 0x0A = some (s.old.rsp.setWidth 32) ∧ s.sysReg 0x0B = some ((s.old.rsp >>> 32).setWidth 32) ∧
    s.sysReg 0x0C = some s.old.rsDepth ∧ (∀ k, k < 8 → s.sysReg (0x10 + k) = some (s.old.fm.get k)) ∧
    s.sysReg 0x18 = some (s.old.rngKey.setWidth 32) ∧ s.sysReg 0x19 = some ((s.old.rngKey >>> 32).setWidth 32) ∧
    (i.spLog ≠ 0 → s.sysReg 0x1A = some (BitVec.ofNat 32 i.spBase) ∧
      s.sysReg 0x1C = some (i.winBase.setWidth 32) ∧ s.sysReg 0x1D = some ((i.winBase >>> 32).setWidth 32)) ∧
    (i.spLog = 0 → s.sysReg 0x1A = some 0 ∧ s.sysReg 0x1C = some 0 ∧ s.sysReg 0x1D = some 0) ∧
    s.sysReg 0x1B = some (BitVec.ofNat 32 i.spLog) ∧
    s.sysReg 0x30 = some (BitVec.ofNat 32 (i.part % 64 * 4096 + i.ctx % 4096)) ∧
    s.sysReg 0x31 = some (BitVec.ofNat 32 ((if p.chg.isSome then 64 else 0) + p.maxop % 8 * 8 + p.op % 8)) ∧
    (∀ n, (0x0D ≤ n ∧ n ≤ 0x0F) ∨ (0x1E ≤ n ∧ n ≤ 0x2F) ∨ 0x32 ≤ n → s.sysReg n = none)

/-- R125, R126. USR writes the value of an assigned register into s(D); one of SF does so once the rod is free and no
special function is pending, and so does the read form of SF_ACCESS. USR of an unassigned number is an illegal encoding. -/
def Sys2Proof.Claims.systemRegisterRead : Prop :=
  ∀ (c : Bool) (d a : BitVec 8) (s : State),
    (∀ v, s.sysReg a.toNat = some v → a ≠ 0x08 → s.UReady [(d.toNat, 1)] →
      ∃ t, exec (.usr c d a) s = .next t ∧ t.me.uregs.get d.toNat = v ∧ s.UniformFrame t [d.toNat]) ∧
    (s.UReady [(d.toNat, 1)] → s.old.flagsSettled = true →
      (∃ t, exec (.usr c d 0x08) s = .next t ∧ t.me.uregs.get d.toNat = s.old.sf ∧ s.UniformFrame t [d.toNat]) ∧
      (∃ t, exec (.sfAccess (.read d)) s = .next t ∧ t.me.uregs.get d.toNat = s.old.sf ∧ t.iss.res = .done ∧ s.OnlyStrand t ∧
        s.me.KeepsBut t.me [d.toNat])) ∧
    (s.sysReg a.toNat = none → exec (.usr c d a) s = .next (s.setRes (.enc .illegalOperand)))

/-- R88, R104, R110, R124 to R126. The value of every system register, and the word that reads it. -/
def Obligations.SystemRegisterReads : Prop :=
  Sys2Proof.Claims.systemRegisterValues ∧ Sys2Proof.Claims.systemRegisterRead

/-- Of a strand, only the fields that `f` names may differ: with them put back it is the strand before. -/
def Sys2Proof.Claims.onlyOwn (s t : State) (raw : List (Nat × Nat)) (back : Strand → Strand) : Prop :=
  s.OnlyStrand t ∧ t.iss.res = .done ∧ t.iss.raw = s.iss.raw ++ raw ∧ back t.me = s.me

/-- R125, R110, R104. USW completes. SF takes a value of six bits, once the rod is free and no special function is pending,
with the flags that the group's other word raises (R111); SFARM takes a value of bit 5 alone; a format register takes a
valid format or zero; a half of the generator key takes any value and zeroes the counter. Nothing else of the package
changes. SF_ACCESS and RNGKEY_WRITE are those writes by themselves. -/
def Sys2Proof.Claims.systemRegisterWrite : Prop :=
  ∀ (c : Bool) (d a : BitVec 8) (s : State), s.UReady [(a.toNat, 1)] →
    let v := s.u a.toNat
    (d = 0x08 → v.toNat < 64 → s.old.flagsSettled = true →
      (∃ t, exec (.usw c d a) s = .next t ∧ t.me.sf = v ||| BitVec.ofNat 32 s.iss.vflags ∧
        onlyOwn s t [(1, 1)] (fun x => { x with sf := s.me.sf })) ∧
      (∃ t, exec (.sfAccess (.write v)) s = .next t ∧ t.me.sf = v ||| BitVec.ofNat 32 s.iss.vflags ∧
        onlyOwn s t [] (fun x => { x with sf := s.me.sf }))) ∧
    (d = 0x09 → v &&& ~~~0x20#32 = 0 →
      ∃ t, exec (.usw c d a) s = .next t ∧ t.me.sfarm = v ∧ onlyOwn s t [(1, 1)] (fun x => { x with sfarm := s.me.sfarm })) ∧
    (∀ k, k < 8 → d.toNat = 0x10 + k → (v = 0 ∨ fmValid v = true) →
      ∃ t, exec (.usw c d a) s = .next t ∧ t.me.fm.get k = v ∧ (∀ j, j ≠ k → t.me.fm.get j = s.me.fm.get j) ∧
        onlyOwn s t [(1, 1)] (fun x => { x with fm := s.me.fm })) ∧
    (d = 0x18 ∨ d = 0x19 →
      (∃ t, exec (.usw c d a) s = .next t ∧
        t.me.rngKey = (if d = 0x18 then dword v (hiWord s.me.rngKey) else dword (loWord s.me.rngKey) v) ∧ t.me.rngCtr = 0 ∧
        onlyOwn s t [(1, 1)] (fun x => { x with rngKey := s.me.rngKey, rngCtr := s.me.rngCtr })) ∧
      (∃ t, exec (.rngkeyWrite d v) s = .next t ∧
        t.me.rngKey = (if d = 0x18 then dword v (hiWord s.me.rngKey) else dword (loWord s.me.rngKey) v) ∧ t.me.rngCtr = 0 ∧
        onlyOwn s t [] (fun x => { x with rngKey := s.me.rngKey, rngCtr := s.me.rngCtr })))

/-- R88. A write of RSP_LO, RSP_HI or RSDEPTH by a strand that holds no return address writes that register and nothing
else, by USW and by RETURN_STACK_REGISTER_WRITE. One that holds return addresses first spills them, oldest first, as
PushReturn does: it completes when every spill does, and writes the register after them. -/
def Sys2Proof.Claims.returnStackRegisterWrite : Prop :=
  ∀ (c : Bool) (d a : BitVec 8) (v : Word) (s : State), 0x0A ≤ d.toNat → d.toNat ≤ 0x0C →
    let put (t : Strand) (v : Word) : Strand :=
      if d = 0x0A then { t with rsp := dword v (hiWord t.rsp) } else if d = 0x0B then { t with rsp := dword (loWord t.rsp) v }
      else { t with rsDepth := v }
    (s.me.rstk = [] →
      (∃ t, exec (.returnStackRegisterWrite d v) s = .next t ∧ t.me = put s.me v ∧ s.OnlyStrand t ∧ t.iss.res = .done) ∧
      (s.UReady [(a.toNat, 1)] →
        ∃ t, exec (.usw c d a) s = .next t ∧ t.me = put s.me (s.u a.toNat) ∧ s.OnlyStrand t ∧ s.Charged t [(1, 1)])) ∧
    (∀ s', s.spillAll s.iss.raw.length s.me.rstk.reverse = .ok s' 0 →
      ∃ t, exec (.returnStackRegisterWrite d v) s = .next t ∧ t = (s'.modMe (fun x => put x v)).done) ∧
    (s.UReady [(a.toNat, 1)] →
      exec (.usw c d a) s = exec (.returnStackRegisterWrite d (s.u a.toNat)) (s.raw 1 1))

/-- R125, R126, R110, R104. What USW refuses: a value of SF with reserved bits, once the wait for SF is over, a value of
SFARM with reserved bits, and a format that is not valid trap with ILLEGAL_OPERAND; every register with a read-only field and every
unassigned number is PRIV. The register keeps its value, and nothing else changes. -/
def Sys2Proof.Claims.systemRegisterRefuses : Prop :=
  ∀ (c : Bool) (d a : BitVec 8) (s : State), s.UReady [(a.toNat, 1)] →
    let v := s.u a.toNat
    let refused := (s.raw 1 1).setRes (.trap { cause := .illegalOperand })
    (d = 0x08 → 64 ≤ v.toNat → s.old.flagsSettled = true → exec (.usw c d a) s = .next refused) ∧
    (d = 0x08 → s.iss.go = false → s.old.rodFree = false → exec (.usw c d a) s = .next ((s.raw 1 1).hold .rod)) ∧
    (d = 0x09 → v &&& ~~~0x20#32 ≠ 0 → exec (.usw c d a) s = .next refused) ∧
    (∀ k, k < 8 → d.toNat = 0x10 + k → v ≠ 0 → fmValid v = false → exec (.usw c d a) s = .next refused) ∧
    (d.toNat < 0x08 ∨ (0x0D ≤ d.toNat ∧ d.toNat ≤ 0x0F) ∨ 0x1A ≤ d.toNat →
      exec (.usw c d a) s = .next (s.setRes (.enc .priv)))

/-- R88, R104, R110, R125. What USW does to each system register, the return-stack registers with their spills included, and the values
that it refuses. -/
def Obligations.SystemRegisterWrites : Prop :=
  Sys2Proof.Claims.systemRegisterWrite ∧ Sys2Proof.Claims.returnStackRegisterWrite ∧ Sys2Proof.Claims.systemRegisterRefuses

/-! ### Control words -/

/-- The strand keeps everything, and the group will go on at a place. -/
def Sys2Proof.Claims.GoesTo (s t : State) (pc : DWord) : Prop :=
  t = { s with iss := { s.iss with raw := s.iss.raw ++ [(1, 1)], goto := some { pc := pc, widx := 0 }, res := .done } }

/-- The word takes no other effect than its charge. -/
def Sys2Proof.Claims.FallsThrough (s t : State) : Prop :=
  t = { s with iss := { s.iss with raw := s.iss.raw ++ [(1, 1)], res := .done } }

/-- R54, R86. The condition of BR: always, s(A) zero, not zero, negative or not negative, or `em` empty, not empty or
LIVE. -/
def Sys2Proof.Claims.ruleBranch (s : State) (a : BitVec 8) (k : Nat) : Prop :=
  match k with
  | 0 => True
  | 1 => s.u a.toNat = 0
  | 2 => s.u a.toNat ≠ 0
  | 3 => (s.u a.toNat).toInt < 0
  | 4 => 0 ≤ (s.u a.toNat).toInt
  | 5 => s.mask 0 = 0
  | 6 => s.mask 0 ≠ 0
  | _ => s.mask 0 = s.old.info.live

/-- BR (R54, R86): when its condition holds the group goes to the target packet, and otherwise it falls through; nothing
else changes. A condition on `em` waits while a compare that writes m0 is on the rod (R145). -/
def Sys2Proof.Claims.branchWord : Prop :=
  ∀ (c : Bool) (a : BitVec 8) (k : BitVec 3) (o : BitVec 13) (s : State),
    (1 ≤ k.toNat → k.toNat ≤ 4 → s.UReady [(a.toNat, 1)]) → (k.toNat = 0 ∨ 5 ≤ k.toNat → a = 0) →
    (5 ≤ k.toNat → ∀ f, s.old.flight = some f → f.mask ≠ some 0) →
    ∃ t, exec (.br c a k o) s = .next t ∧
      (ruleBranch s a k.toNat → GoesTo s t (targetPc s.iss.pc o.toInt)) ∧ (¬ ruleBranch s a k.toNat → FallsThrough s t)

/-- JMP, LOOP and BRI (R86). JMP goes to its target; LOOP decrements s(D), with 0 wrapping to all ones, and goes to its
target unless the new value is 0; BRI goes to the address in its pair, which must be that of a packet, else ILLEGAL_PC. -/
def Sys2Proof.Claims.jumpWords : Prop :=
  (∀ (c : Bool) (o : BitVec 24) (s : State),
    ∃ t, exec (.jmp c o) s = .next t ∧ GoesTo s t (targetPc s.iss.pc o.toInt)) ∧
  (∀ (c : Bool) (d : BitVec 8) (i : BitVec 16) (s : State), s.UReady [(d.toNat, 1)] →
    ∃ t, exec (.loop c d i) s = .next t ∧ t.me.uregs.get d.toNat = s.u d.toNat - 1 ∧ s.OnlyStrand t ∧
      s.me.KeepsBut t.me [d.toNat] ∧
      (s.u d.toNat ≠ 1 → t.iss = { s.iss with
        raw := s.iss.raw ++ [(1, 1)], goto := some { pc := targetPc s.iss.pc i.toInt, widx := 0 }, res := .done }) ∧
      (s.u d.toNat = 1 → s.Charged t [(1, 1)])) ∧
  (∀ (c : Bool) (a : BitVec 8) (s : State), s.UReady [(a.toNat, 2)] →
    (pcValid (s.u2 a.toNat) = true → ∃ t, exec (.bri c a) s = .next t ∧ GoesTo s t (s.u2 a.toNat)) ∧
    (pcValid (s.u2 a.toNat) = false → exec (.bri c a) s = .next ((s.raw 1 1).setRes (.trap { cause := .illegalPc }))))

/-- R54, R86. BR, JMP, LOOP and BRI. -/
def Obligations.BranchAndJumpWords : Prop :=
  Sys2Proof.Claims.branchWord ∧ Sys2Proof.Claims.jumpWords

/-- CALL and CALLI (R86, R87). With fewer than eight held return addresses the address of the next packet is pushed,
RSDEPTH grows by one and the group goes to the target; with eight held, the oldest is first spilt to the eight bytes at
RSP, which grows by 8. A bad target of CALLI traps with ILLEGAL_PC. The trap RS_SPILL_FAULT of both words at a full count
of RSDEPTH records no access: that it records no address, kind or size is the model's choice (log 118). -/
def Sys2Proof.Claims.callWords : Prop :=
  ∀ (c : Bool) (o : BitVec 24) (a : BitVec 8) (s : State),
    let call (s : State) (tgt : DWord) : State :=
      ((s.modMe (fun t => { t with rstk := nextPacket s.iss.pc :: t.rstk, rsDepth := t.rsDepth + 1 })).goTo tgt).done
    (s.me.rsDepth ≠ 0xFFFFFFFF#32 → s.me.rstk.length < 8 →
      exec (.call c o) s = .next (call (s.raw 1 1) (targetPc s.iss.pc o.toInt)) ∧
      (s.UReady [(a.toNat, 2)] → pcValid (s.u2 a.toNat) = true →
        exec (.calli c a) s = .next (call (s.raw 1 1) (s.u2 a.toNat)))) ∧
    (s.me.rsDepth ≠ 0xFFFFFFFF#32 → 8 ≤ s.me.rstk.length → ∀ (s' : State) (v : DWord),
      (s.raw 1 1).storeSpill s.me.rsp.toNat (s.me.rstk.getLastD 0) = .ok s' v →
      let pushed := (s'.modMe (fun t => { t with rstk := t.rstk.dropLast, rsp := t.rsp + 8 })).modMe
        (fun t => { t with rstk := nextPacket s.iss.pc :: t.rstk, rsDepth := t.rsDepth + 1 })
      exec (.call c o) s = .next (pushed.goTo (targetPc s.iss.pc o.toInt)).done ∧
      (s.UReady [(a.toNat, 2)] → pcValid (s.u2 a.toNat) = true →
        exec (.calli c a) s = .next (pushed.goTo (s.u2 a.toNat)).done)) ∧
    (s.me.rsDepth = 0xFFFFFFFF#32 →
      exec (.call c o) s = .next ((s.raw 1 1).setRes (.trap { cause := .rsSpillFault })) ∧
      (s.UReady [(a.toNat, 2)] → pcValid (s.u2 a.toNat) = true →
        exec (.calli c a) s = .next ((s.raw 1 1).setRes (.trap { cause := .rsSpillFault })))) ∧
    (s.UReady [(a.toNat, 2)] → pcValid (s.u2 a.toNat) = false →
      exec (.calli c a) s = .next ((s.raw 1 1).setRes (.trap { cause := .illegalPc })))

/-- RET (R86, R87). A held return address is popped, RSDEPTH falls by one and the group goes to the address; with none
held the address is the eight bytes below RSP, which falls by 8; an empty stack or a bad address, held or read, traps
with ILLEGAL_PC. -/
def Sys2Proof.Claims.returnWord : Prop :=
  ∀ (c : Bool) (s : State),
    (∀ a l, s.me.rsDepth ≠ 0 → s.me.rstk = a :: l → pcValid a = true →
      exec (.ret c) s = .next (((s.raw 1 1).modMe (fun t => { t with rstk := l, rsDepth := t.rsDepth - 1 })).goTo a).done) ∧
    (∀ s' v, s.me.rsDepth ≠ 0 → s.me.rstk = [] → (s.raw 1 1).loadSpill (s.me.rsp - 8).toNat = .ok s' v → pcValid v = true →
      exec (.ret c) s = .next ((s'.modMe (fun t => { t with rsp := t.rsp - 8, rsDepth := t.rsDepth - 1 })).goTo v).done) ∧
    (s.me.rsDepth = 0 → exec (.ret c) s = .next ((s.raw 1 1).setRes (.trap { cause := .illegalPc }))) ∧
    (∀ a l, s.me.rsDepth ≠ 0 → s.me.rstk = a :: l → pcValid a = false →
      ∃ t, exec (.ret c) s = .next t ∧ t.iss.res = .trap { cause := .illegalPc }) ∧
    (∀ s' v, s.me.rsDepth ≠ 0 → s.me.rstk = [] → (s.raw 1 1).loadSpill (s.me.rsp - 8).toNat = .ok s' v → pcValid v = false →
      ∃ t, exec (.ret c) s = .next t ∧ t.iss.res = .trap { cause := .illegalPc })

/-- R86 to R88. CALL, CALLI and RET, with the spills and refills of the return stack. -/
def Obligations.CallAndReturnWords : Prop :=
  Sys2Proof.Claims.callWords ∧ Sys2Proof.Claims.returnWord

/-- YIELD, SDRAIN and FENCE (R90, R93, R55, R94, R236). YIELD commits every result on its way, zeroes the latches and opens
its window; SDRAIN completes once every store of the strand is translated, and FENCE once the waits of its kind and scope
are over, when an acquire of scope 2 or wider discards the context's L1 lines on the core. Until then each waits, SDRAIN
for its stores; a FENCE of kind 1 whose scope is not 0 waits while loads or atomics of the strand are outstanding, and those
of kinds 2 and 3 until their release may take effect, which at such a scope includes the same wait.
The waits are looked at in the trial of the word, before the group issues. -/
def Obligations.YieldDrainAndFence : Prop :=
  (∀ (c : Bool) (s : State),
    exec (.yield c) s = .next ((((s.raw 1 1).modMe (fun t =>
      { t.commitAll with latches := [], yielding := true })).dueOnce (.yieldWindowExpiry s.iss.g)).done)) ∧
  (∀ (c : Bool) (s : State),
    (s.untranslated s.iss.g = false → ∃ t, exec (.sdrain c) s = .next t ∧ FallsThrough s t) ∧
    (s.iss.go = false → s.untranslated s.iss.g = true → exec (.sdrain c) s = .next ((s.raw 1 1).setRes (.held .stores)))) ∧
  (∀ (c : Bool) (sc : BitVec 3) (s : State), sc ≠ 7 →
    (s.loadsOut s.iss.g = false ∨ sc = 0 →
      exec (.fence c sc 1) s = .next ((if 2 ≤ sc.toNat then (s.raw 1 1).l1DropCtx s.myCore s.myCtx else s.raw 1 1).done)) ∧
    (s.iss.go = false → s.loadsOut s.iss.g = true → sc ≠ 0 →
      exec (.fence c sc 1) s = .next ((s.raw 1 1).setRes (.held (.fence sc.toNat 1)))) ∧
    (s.iss.go = false → ∀ s', (s.raw 1 1).releaseStep s.iss.g sc.toNat = (s', true) →
      exec (.fence c sc 2) s = .next s'.done ∧
      (s.loadsOut s.iss.g = false ∨ sc = 0 →
        exec (.fence c sc 3) s = .next ((if 2 ≤ sc.toNat then s'.l1DropCtx s.myCore s.myCtx else s').done))) ∧
    (s.iss.go = false → ∀ s', (s.raw 1 1).releaseStep s.iss.g sc.toNat = (s', false) →
      exec (.fence c sc 2) s = .next (s'.setRes (.held (.fence sc.toNat 2))) ∧
      exec (.fence c sc 3) s = .next (s'.setRes (.held (.fence sc.toNat 3)))) ∧
    exec (.fence c sc 0) s = .next (s.setRes (.enc .illegalOperand)))

/-- R95, R19. TRAP raises a precise trap with cause TRAP_INSN that records its D code, and has no other effect. -/
def Obligations.TrapWord : Prop :=
  ∀ (c : Bool) (d : BitVec 8) (s : State),
    exec (.trap c d) s = .next ((s.raw 1 1).setRes (.trap { cause := .trapInsn, tcode := d.toNat })) ∧
    Cause.code .trapInsn = 0x30

/-- R92, R394. Outside a trap handler TRET, TRD and TWR are illegal encodings with PRIV, which trap, and have no other
effect. -/
def Obligations.HandlerWordsOutside : Prop :=
  ∀ (c : Bool) (d a : BitVec 8) (s : State), s.old.trap.inHandler = false →
    exec (.tret c) s = .next (s.setRes (.enc .priv)) ∧
    (s.UReady [(d.toNat, 1)] → exec (.trd c d a) s = .next (s.setRes (.enc .priv))) ∧
    (s.UReady [(a.toNat, 1)] → exec (.twr c d a) s = .next (s.setRes (.enc .priv)))

/-- R394, R388. In a handler TRD reads word A of the trap record into s(D), and TWR writes a word without read-only fields
whose reserved bits the value leaves zero, in the copy of the record that the core holds; memory keeps every byte. A word that holds a
read-only field is PRIV, and a value with a reserved bit traps with ILLEGAL_OPERAND. -/
def Obligations.TrapRecordWords : Prop :=
  ∀ (c : Bool) (d a : BitVec 8) (s : State), s.old.trap.inHandler = true →
    (s.UReady [(d.toNat, 1)] →
      ∃ t, exec (.trd c d a) s = .next t ∧ t.me.uregs.get d.toNat = s.old.trap.record.get a.toNat ∧ s.UniformFrame t [d.toNat]) ∧
    (s.UReady [(a.toNat, 1)] →
      (d.toNat ∈ [4, 5, 7, 8, 9, 32] ∨ 64 ≤ d.toNat ∨ (d.toNat = 6 ∧ s.u a.toNat &&& 0xFFFFE000#32 = 0)
          ∨ (d.toNat = 10 ∧ s.u a.toNat &&& 0x80808080#32 = 0) →
        ∃ t, exec (.twr c d a) s = .next t ∧ t.iss.res = .done ∧ t.me.trap.record.get d.toNat = s.u a.toNat ∧
          (∀ n, n ≠ d.toNat → t.me.trap.record.get n = s.me.trap.record.get n) ∧
          { t.me with trap := s.me.trap } = s.me ∧ (∀ p, t.memByte p = s.memByte p)) ∧
      ((d.toNat = 6 ∧ s.u a.toNat &&& 0xFFFFE000#32 ≠ 0) ∨ (d.toNat = 10 ∧ s.u a.toNat &&& 0x80808080#32 ≠ 0) →
        exec (.twr c d a) s = .next ((s.raw 1 1).setRes (.trap { cause := .illegalOperand }))) ∧
      (d.toNat < 4 ∨ (10 < d.toNat ∧ d.toNat < 32) ∨ (32 < d.toNat ∧ d.toNat < 64) →
        exec (.twr c d a) s = .next (s.setRes (.enc .priv))))

/-! ### Mask words -/

/-- R96. The number of the lowest set bit of a mask, or all ones. -/
def Sys2Proof.Claims.firstSet (m : Word) : Word :=
  match (List.range 32).find? (fun k => m.getLsbD k) with | some k => BitVec.ofNat 32 k | none => 0xFFFFFFFF#32

/-- R96. What each mask word writes: s(D), or m(D), or both, from the masks and the register as the group reads them. The
fields are the masks it names, the registers it names, the register write and the mask write. -/
def Sys2Proof.Claims.ruleMask (s : State) : Instr → Option (List (BitVec 3) × List (BitVec 8) × Option (BitVec 8 × Word) × Option (BitVec 3 × Word))
  | .mget _ d a => some ([a], [d], some (d, s.mask a.toNat), none)
  | .mset _ d a => some ([d], [a], none, some (d, s.u a.toNat))
  | .mand _ d a => some ([d, a], [], none, some (d, s.mask d.toNat &&& s.mask a.toNat))
  | .mandn _ d a => some ([d, a], [], none, some (d, s.mask d.toNat &&& ~~~s.mask a.toNat))
  | .mor _ d a => some ([d, a], [], none, some (d, s.mask d.toNat ||| s.mask a.toNat))
  | .mxor _ d a => some ([d, a], [], none, some (d, s.mask d.toNat ^^^ s.mask a.toNat))
  | .mlive _ d => some ([d], [], none, some (d, s.old.info.live))
  | .mpopc _ d a => some ([a], [d], some (d, BitVec.ofNat 32 ((List.range 32).countP (fun k => (s.mask a.toNat).getLsbD k))), none)
  | .mfirst _ d a => some ([a], [d], some (d, firstSet (s.mask a.toNat)), none)
  | .mput _ d a => some ([d], [a], none,
      if (s.u a.toNat).toNat < 32 then some (d, s.mask d.toNat ||| BitVec.ofNat 32 (2 ^ (s.u a.toNat).toNat)) else none)
  | .mtake _ d a => some ([a], [d], some (d, firstSet (s.mask a.toNat)), some (a, s.mask a.toNat &&& (s.mask a.toNat - 1)))
  | _ => none

/-- R96, R66. A mask word whose registers are ready, and none of whose masks a compare on the rod will write (R145),
completes: it writes the register and the mask of the rule, the mask ANDed with LIVE, and nothing else changes. -/
def Obligations.MaskWords : Prop :=
  ∀ (i : Instr) (s : State) (ms : List (BitVec 3)) (rs : List (BitVec 8)) (wu : Option (BitVec 8 × Word))
    (wm : Option (BitVec 3 × Word)), ruleMask s i = some (ms, rs, wu, wm) →
    s.UReady (rs.map (fun r => (r.toNat, 1))) → (∀ f m, s.old.flight = some f → m ∈ ms → f.mask ≠ some m.toNat) →
    ∃ t, exec i s = .next t ∧ s.OnlyStrand t ∧ s.Charged t [(1, 1)] ∧
      { t.me with uregs := s.me.uregs, masks := s.me.masks } = s.me ∧
      (∀ d v, wu = some (d, v) → t.me.uregs.get d.toNat = v) ∧
      (∀ n, (∀ d v, wu = some (d, v) → n ≠ d.toNat) → t.me.uregs.get n = s.me.uregs.get n) ∧
      (∀ d v, wm = some (d, v) → t.me.masks.get d.toNat = v &&& s.me.info.live) ∧
      (∀ n, (∀ d v, wm = some (d, v) → n ≠ d.toNat) → t.me.masks.get n = s.me.masks.get n)

/-! ### Arithmetic V words -/

/-- R68, R71. The word has entered the rod: its serial number is taken and its completion is due. -/
def Sys2Proof.Claims.vEntered (s : State) (i : Instr) (mask : Option Nat) : State :=
  (s.modMe Strand.vEnter).takeRod i (s.modMe Strand.vEnter).active mask

/-- R138. The charge of a word of a class on n slots, with the operand accesses of each slot. -/
def Sys2Proof.Claims.vPaid (s : State) (cls n : Nat) (acc : List (Nat × Nat)) : State :=
  ({ s with iss := { s.iss with slots := n } } : State).vCharge cls n acc

/-- R125, R160. The draws of a word advance the counter; in a group whose USW writes the key the counter stays zero. -/
def Sys2Proof.Claims.drew (s : State) (c : DWord) : State := if s.iss.keyed then s else s.modMe (fun t => { t with rngCtr := c })

/-- R69 to R72, R103, R138, R140. What an arithmetic word does: with no slot active it only takes the rod. Else the active
slots run in ascending order, each with its operands, the carry of the slot before it and, in RoundSR, its draw; the
results enter the destination and the latches, zero mode clears the inactive live slots, the flags enter SF, the draws
advance the counter, and each slot is charged. -/
def Sys2Proof.Claims.vArithDone (s : State) (fm : VForm) (i : Instr) (d : BitVec 8) (srcs : List VSrc) (seed : VSrc)
    (f : DWord → DWord → DWord → Word → DWord × Nat) : State :=
  let e := vEntered s i none
  let act := (s.modMe Strand.vEnter).active
  if act = 0 then e.done
  else
    let arg (carry : Word) (k j : Nat) : DWord := (srcs[j]?.map (fun x => s.vReads.vVal carry x k)).getD 0
    let pass := vPass s.old.rngKey (fm.rounds && s.vp.rm == 5)
      (fun k carry draw => f (arg carry k 0) (arg carry k 1) (arg carry k 2) draw) (slotsOf act)
      { ctr := s.old.rngCtr, carry := s.vReads.vRead 0 seed 0 0 }
    let w := drew (e.modMe (fun t => t.vFinish fm.fp true s.vp.zm d (2 ^ s.vp.wd.toNat) act pass.res)) pass.ctr
    (vPaid (w.raiseFlags pass.flags) fm.cls (popCount act)
      (srcs.map VSrc.accesses ++ [dstAccesses d (2 ^ s.vp.wd.toNat)])).done

/-- The word of a form is legal and ready: its sources and its seed exist, its widths and its rounding code are of the
form, and its registers are allotted and ready. -/
def Sys2Proof.Claims.VLegal (s : State) (fm : VForm) (d : BitVec 8) (codes : List (BitVec 8 × BitVec 2)) (srcs : List VSrc)
    (seed : VSrc) : Prop :=
  s.vSources fm d codes = some (srcs, seed) ∧ fm.ok = true ∧ fm.widths s.vp.wd s.vp.wa s.vp.wb = true ∧
  s.old.vDstOk d (2 ^ s.vp.wd.toNat) true = true ∧ (if fm.rounds then s.vp.rm.toNat ≤ 5 else s.vp.rm = 0) ∧
  s.VReady (seed :: srcs) (if dstN d then none else some (dstReg d, 2 ^ s.vp.wd.toNat))

/-- R141. Legal widths, sign extension of a single B beside a pair, and result of each two-operand integer word. -/
def Sys2Proof.Claims.ruleVInt : Instr → Option ((BitVec 8 × BitVec 8 × BitVec 8) × (BitVec 2 → BitVec 2 → BitVec 2 → Bool) × Bool × Alu2)
  | .vadd _ d a b => some ((d, a, b), widthsSum, true, fun _ x y => x + y)
  | .vsub _ d a b => some ((d, a, b), widthsSum, true, fun _ x y => x - y)
  | .vmul _ d a b => some ((d, a, b), widthsNone, false, fun _ x y => x * y)
  | .vmulhI _ d a b => some ((d, a, b), widthsNone, false, fun w x y => BitVec.ofInt w (x.toInt * y.toInt / 2 ^ w))
  | .vmulhN _ d a b => some ((d, a, b), widthsNone, false, fun w x y => BitVec.ofNat w (x.toNat * y.toNat / 2 ^ w))
  | .vand _ d a b => some ((d, a, b), widthsLogic, false, fun _ x y => x &&& y)
  | .vor _ d a b => some ((d, a, b), widthsLogic, false, fun _ x y => x ||| y)
  | .vxor _ d a b => some ((d, a, b), widthsLogic, false, fun _ x y => x ^^^ y)
  | .vandn _ d a b => some ((d, a, b), widthsLogic, false, fun _ x y => x &&& ~~~y)
  | .vshl _ d a b => some ((d, a, b), widthsShift, false, fun _ x y => x <<< y)
  | .vshr _ d a b => some ((d, a, b), widthsShift, false, fun _ x y => x >>> y)
  | .vsar _ d a b => some ((d, a, b), widthsShift, false, fun _ x y => x.sshiftRight' y)
  | .vminI _ d a b => some ((d, a, b), widthsLogic, false, fun w x y => BitVec.ofInt w (min x.toInt y.toInt))
  | .vminN _ d a b => some ((d, a, b), widthsLogic, false, fun w x y => BitVec.ofNat w (min x.toNat y.toNat))
  | .vmaxI _ d a b => some ((d, a, b), widthsLogic, false, fun w x y => BitVec.ofInt w (max x.toInt y.toInt))
  | .vmaxN _ d a b => some ((d, a, b), widthsLogic, false, fun w x y => BitVec.ofNat w (max x.toNat y.toNat))
  | _ => none

/-- R41, R141. A two-operand integer V word that is legal and ready completes with the course of an arithmetic word: at
WD = 0 each slot's result is that of the rule at 32 bits, and at WD = 1 that at 64 bits, where VADD and VSUB extend a single
B with its sign and the shifts take it as it is. -/
def Obligations.VectorInteger : Prop :=
  ∀ (i : Instr) (d a b : BitVec 8) (ws : BitVec 2 → BitVec 2 → BitVec 2 → Bool) (ext : Bool) (f : Alu2) (s : State)
    (srcs : List VSrc) (seed : VSrc), ruleVInt i = some ((d, a, b), ws, ext, f) →
    VLegal s { cls := 2, widths := ws } d [(a, s.vp.wa), (b, s.vp.wb)] srcs seed →
    exec i s = .next (vArithDone s { cls := 2, widths := ws } i d srcs seed (fun x y _ _ =>
      if s.vp.wd = 0 then ((f 32 (loWord x) (loWord y)).setWidth 64, 0)
      else (f 64 x (if s.vp.wb = 0 ∧ ext = true then (loWord y).signExtend 64 else y), 0)))

/-- R141, R142, R146. The other integer words of single registers: VMAD, the bit fields and the unary words, each with its
form and its result from A, B and C or D. -/
def Sys2Proof.Claims.ruleVSingle (s : State) : Instr → Option (VForm × BitVec 8 × List (BitVec 8 × BitVec 2) × (Word → Word → Word → Word))
  | .vmad _ d a b => some ({ cls := 2, widths := widthsNone, fourth := 1 }, d, [(a, s.vp.wa), (b, s.vp.wb)], fun x y z => x * y + z)
  | .vbfe _ d a b => some ({ cls := 2, widths := widthsNone }, d, [(a, s.vp.wa), (b, s.vp.wb)], fun x y _ => bitExtract x y)
  | .vbfi _ d a b => some ({ cls := 2, widths := widthsNone, readsD := true }, d, [(a, s.vp.wa), (b, s.vp.wb)], fun x y z => bitInsert z x y)
  | .vclz _ d a => some ({ cls := 2, widths := widthsNone }, d, [(a, s.vp.wa)], fun x _ _ => x.clz)
  | .vpopc _ d a => some ({ cls := 2, widths := widthsNone }, d, [(a, s.vp.wa)],
      fun x _ _ => BitVec.ofNat 32 ((List.range 32).countP (fun j => x.getLsbD j)))
  | .vbrev _ d a => some ({ cls := 2, widths := widthsNone }, d, [(a, s.vp.wa)], fun x _ _ => x.reverse)
  | .vsext8 _ d a => some ({ cls := 2, widths := widthsNone }, d, [(a, s.vp.wa)], fun x _ _ => (x.extractLsb' 0 8).signExtend 32)
  | .vsext16 _ d a => some ({ cls := 2, widths := widthsNone }, d, [(a, s.vp.wa)], fun x _ _ => (x.extractLsb' 0 16).signExtend 32)
  | .vneg _ d a => some ({ cls := 2, widths := widthsNone }, d, [(a, s.vp.wa)], fun x _ _ => -x)
  | .vabs _ d a => some ({ cls := 2, widths := widthsNone }, d, [(a, s.vp.wa)], fun x _ _ => x.abs)
  | .vmov _ d a => if s.vp.wd = 0 then some ({ cls := 2, widths := widthsNone }, d, [(a, s.vp.wa)], fun x _ _ => x) else none
  | _ => none

/-- R141, R142, R146. VMAD, VBFE, VBFI, the unary words and VMOV of one register complete with the course of an arithmetic
word and the result of the rule. -/
def Obligations.VectorSingle : Prop :=
  ∀ (i : Instr) (fm : VForm) (d : BitVec 8) (codes : List (BitVec 8 × BitVec 2)) (f : Word → Word → Word → Word) (s : State)
    (srcs : List VSrc) (seed : VSrc), ruleVSingle s i = some (fm, d, codes, f) → VLegal s fm d codes srcs seed →
    exec i s = .next (vArithDone s fm i d srcs seed (fun x y z _ => ((f (loWord x) (loWord y) (loWord z)).setWidth 64, 0)))

/-- R98. The magnitude of an FP32 encoding without its sign bit, in units of 2^−149; at 0x7F800000 it is 2^128, the power of
two above the largest finite value. -/
def Sys2Proof.Claims.f32Mag (c : Nat) : Nat := if c < 2 ^ 23 then c else (2 ^ 23 + c % 2 ^ 23) * 2 ^ (c / 2 ^ 23 - 1)
/-- R98. The value of a finite FP32 encoding in units of 2^−149. -/
def Sys2Proof.Claims.f32Val (a : Word) : Int := if a.msb then -(f32Mag (a.toNat - 2 ^ 31) : Int) else f32Mag a.toNat
/-- R98. A finite FP32 encoding. -/
def Sys2Proof.Claims.f32Finite (a : Word) : Prop := a.toNat % 2 ^ 31 < 0x7F800000

/-- R102. `r` is the FP32 encoding, with its flags, to which m × 2^e of sign `neg` rounds in a mode from 0 to 4. The
neighbours are the consecutive encodings b and b + 1 with M b ≤ m × 2^e < M (b + 1); an exact value stays and raises nothing.
Else the mode chooses, NX is raised, with OF when the choice exceeds the largest finite value, and with UF when it is below
the smallest normal value and is not zero. From 2^128 on the result is infinity or the largest finite value by mode and
sign. -/
def Sys2Proof.Claims.f32Rounds (mode : Nat) (neg : Bool) (m : Nat) (e : Int) (r : Nat × Nat) : Prop :=
  let x := m * 2 ^ (e + 149).toNat
  let M (c : Nat) : Nat := f32Mag c * 2 ^ (-149 - e).toNat
  let sign : Nat := if neg then 2 ^ 31 else 0
  (∀ b, b < 0x7F800000 → M b ≤ x → x < M (b + 1) →
    let c := if x = M b then b else
      match mode with
      | 0 => if 2 * x < M b + M (b + 1) ∨ (2 * x = M b + M (b + 1) ∧ b % 2 = 0) then b else b + 1
      | 1 => b
      | 2 => if neg then b else b + 1
      | 3 => if neg then b + 1 else b
      | _ => if 2 * x < M b + M (b + 1) then b else b + 1
    r = (sign + c, if x = M b then 0 else if c = 0x7F800000 then 20 else if 0 < c ∧ c < 0x00800000 then 24 else 16)) ∧
  (M 0x7F800000 ≤ x →
    r = (sign + (if mode = 1 ∨ (mode = 2 ∧ neg = true) ∨ (mode = 3 ∧ neg = false) then 0x7F7FFFFF else 0x7F800000), 20))

/-- R98 to R103, R147. FP32 arithmetic is correctly rounded, in the modes 0 to 4: the result and the flags of a sum, of a
product and of a fused multiply-add of finite operands are those of the exact real result under the mode, and a zero sum has
the sign that R99 gives it. In mode 5 the choice between the two neighbours is that of the draw. A NaN operand gives the
canonical NaN, with NV when one is signalling; ∞ − ∞ and 0 × ∞ give it with NV; an infinity beside finite values stays. -/
def Sys2Proof.Claims.floatRounding : Prop :=
  (∀ (rm : RMode) (neg : Bool) (m : Nat) (e : Int), rm.mode ≤ 4 → f32Rounds rm.mode neg m e (f32.round rm neg m e)) ∧
  (∀ (rm : RMode) (neg : Bool) (m : Nat) (e : Int) (b : Nat), rm.mode = 5 → b < 0x7F7FFFFF →
    let x := m * 2 ^ (e + 149).toNat
    let M (c : Nat) : Nat := f32Mag c * 2 ^ (-149 - e).toNat
    M b ≤ x → x < M (b + 1) →
    (f32.round rm neg m e).1 = (if neg then 2 ^ 31 else 0)
      + (if rm.d < (x - M b) * 2 ^ rm.w / (M (b + 1) - M b) then b + 1 else b)) ∧
  (∀ (rm : RMode) (a b c : Word), rm.mode ≤ 4 → f32Finite a → f32Finite b → f32Finite c →
    let sum := f32Val a + f32Val b
    let fused := f32Val a * f32Val b + f32Val c * 2 ^ 149
    (sum ≠ 0 → f32Rounds rm.mode (decide (sum < 0)) sum.natAbs (-149) (f32.add rm a.toNat b.toNat)) ∧
    (sum = 0 → f32.add rm a.toNat b.toNat =
      (if (a.msb = true ∧ b.msb = true) ∨ (a.msb ≠ b.msb ∧ rm.mode = 3) then 2 ^ 31 else 0, 0)) ∧
    f32.sub rm a.toNat b.toNat = f32.add rm a.toNat (b ^^^ 0x80000000#32).toNat ∧
    (f32Val a * f32Val b ≠ 0 →
      f32Rounds rm.mode (a.msb != b.msb) (f32Val a * f32Val b).natAbs (-298) (f32.mul rm a.toNat b.toNat)) ∧
    (f32Val a * f32Val b = 0 → f32.mul rm a.toNat b.toNat = (if a.msb = b.msb then 0 else 2 ^ 31, 0)) ∧
    (fused ≠ 0 → f32Rounds rm.mode (decide (fused < 0)) fused.natAbs (-298) (f32.fma rm a.toNat b.toNat c.toNat))) ∧
  (∀ (rm : RMode) (a b : Word),
    let nan (x : Word) : Prop := 0x7F800000 < x.toNat % 2 ^ 31
    let quiet (x : Word) : Prop := 0x7FC00000 ≤ x.toNat % 2 ^ 31
    let inf (x : Word) : Prop := x.toNat % 2 ^ 31 = 0x7F800000
    (nan a ∨ nan b → (nan a → quiet a) → (nan b → quiet b) →
      f32.add rm a.toNat b.toNat = (0x7FC00000, 0) ∧ f32.mul rm a.toNat b.toNat = (0x7FC00000, 0)) ∧
    ((nan a ∧ ¬ quiet a) ∨ (nan b ∧ ¬ quiet b) →
      f32.add rm a.toNat b.toNat = (0x7FC00000, 1) ∧ f32.mul rm a.toNat b.toNat = (0x7FC00000, 1)) ∧
    (inf a → inf b → a ≠ b → f32.add rm a.toNat b.toNat = (0x7FC00000, 1)) ∧
    (inf a → b.toNat % 2 ^ 31 = 0 → f32.mul rm a.toNat b.toNat = (0x7FC00000, 1)) ∧
    (inf a → (b = a ∨ f32Finite b) → f32.add rm a.toNat b.toNat = (a.toNat, 0)) ∧
    (inf a → (inf b ∨ f32Finite b) → b.toNat % 2 ^ 31 ≠ 0 →
      f32.mul rm a.toNat b.toNat = (0x7F800000 + (if a.msb = b.msb then 0 else 2 ^ 31), 0)))

/-- R147 to R150. The FP32 words: form and result bits with flags from the mode of the word and the bits of A, B and C. -/
def Sys2Proof.Claims.ruleVFloat (s : State) : Instr → Option (VForm × BitVec 8 × List (BitVec 8 × BitVec 2) × (RMode → Nat → Nat → Nat → Nat × Nat))
  | .vfaddF32 _ d a b => some (formFp true, d, [(a, s.vp.wa), (b, s.vp.wb)], fun rm x y _ => f32.add rm x y)
  | .vfsubF32 _ d a b => some (formFp true, d, [(a, s.vp.wa), (b, s.vp.wb)], fun rm x y _ => f32.sub rm x y)
  | .vfmulF32 _ d a b => some (formFp true, d, [(a, s.vp.wa), (b, s.vp.wb)], fun rm x y _ => f32.mul rm x y)
  | .vfmaF32 _ d a b => some ({ formFp true with fourth := 1 }, d, [(a, s.vp.wa), (b, s.vp.wb)], fun rm x y z => f32.fma rm x y z)
  | .vfminF32 _ d a b => some (formFp false, d, [(a, s.vp.wa), (b, s.vp.wb)],
      fun _ x y _ => let r := minMax false (BitVec.ofNat 32 x) (BitVec.ofNat 32 y); (r.1.toNat, r.2))
  | .vfmaxF32 _ d a b => some (formFp false, d, [(a, s.vp.wa), (b, s.vp.wb)],
      fun _ x y _ => let r := minMax true (BitVec.ofNat 32 x) (BitVec.ofNat 32 y); (r.1.toNat, r.2))
  | .vdot2F16 _ d a b => some ({ formFp true with fourth := 2 }, d, [(a, s.vp.wa), (b, s.vp.wb)],
      fun rm x y z => dot2 f16 (s.vp.c != 0) rm x y z)
  | .vdot2Bf16 _ d a b => some ({ formFp true with fourth := 2 }, d, [(a, s.vp.wa), (b, s.vp.wb)],
      fun rm x y z => dot2 bf16 (s.vp.c != 0) rm x y z)
  | .vfabs _ d a => some (formFp false, d, [(a, s.vp.wa)], fun _ x _ _ => (x % 2 ^ 31, 0))
  | .vfneg _ d a => some (formFp false, d, [(a, s.vp.wa)], fun _ x _ _ => (x ^^^ 2 ^ 31, 0))
  | .vfclass _ d a => some (formFp false, d, [(a, s.vp.wa)], fun _ x _ _ => (2 ^ fclass (BitVec.ofNat 32 x), 0))
  | .vfrnd _ d a => some (formFp true, d, [(a, s.vp.wa)],
      fun rm x _ _ => let r := frnd rm (BitVec.ofNat 32 x); (r.1.toNat, r.2))
  | _ => none

/-- R147 to R150. An FP32 word completes with the course of an arithmetic word whose results pass the write buffers; the
mode is RM, with the slot's draw in RoundSR. -/
def Sys2Proof.Claims.vectorFloatWords : Prop :=
  ∀ (i : Instr) (fm : VForm) (d : BitVec 8) (codes : List (BitVec 8 × BitVec 2)) (f : RMode → Nat → Nat → Nat → Nat × Nat)
    (s : State) (srcs : List VSrc) (seed : VSrc), ruleVFloat s i = some (fm, d, codes, f) → VLegal s fm d codes srcs seed →
    exec i s = .next (vArithDone s fm i d srcs seed (fun x y z draw =>
      let r := f { mode := s.vp.rm.toNat, d := draw.toNat, w := 32 } (loWord x).toNat (loWord y).toNat (loWord z).toNat
      (BitVec.ofNat 64 r.1, r.2)))

/-- R98 to R103, R147 to R150. The rounding that the results of FP32 words are named by, said as a law (the exact value, the
nearest or directed neighbour, the flags), and the words whose results it rounds. -/
def Obligations.VectorFloat : Prop :=
  Sys2Proof.Claims.floatRounding ∧ Sys2Proof.Claims.vectorFloatWords

/-- R101, R148. The packed words: form and result of a lane in its own format. -/
def Sys2Proof.Claims.ruleVPacked (s : State) : Instr → Option (VForm × BitVec 8 × List (BitVec 8 × BitVec 2) × (RMode → Nat → Nat → Nat → Nat × Nat))
  | .vfaddF16x2 _ d a b => some (formFp true, d, [(a, s.vp.wa), (b, s.vp.wb)], fun rm x y _ => f16.add rm x y)
  | .vfmulF16x2 _ d a b => some (formFp true, d, [(a, s.vp.wa), (b, s.vp.wb)], fun rm x y _ => f16.mul rm x y)
  | .vfmaF16x2 _ d a b => some ({ formFp true with fourth := 1 }, d, [(a, s.vp.wa), (b, s.vp.wb)], fun rm x y z => f16.fma rm x y z)
  | .vfaddBf16x2 _ d a b => some (formFp true, d, [(a, s.vp.wa), (b, s.vp.wb)], fun rm x y _ => bf16.add rm x y)
  | .vfmulBf16x2 _ d a b => some (formFp true, d, [(a, s.vp.wa), (b, s.vp.wb)], fun rm x y _ => bf16.mul rm x y)
  | .vfmaBf16x2 _ d a b => some ({ formFp true with fourth := 1 }, d, [(a, s.vp.wa), (b, s.vp.wb)], fun rm x y z => bf16.fma rm x y z)
  | _ => none

/-- R101, R103, R148. A packed word computes, rounds and flags its two lanes independently: lane 0 in bits 15 to 0 with the
low half of the draw, lane 1 in bits 31 to 16 with the high half. -/
def Obligations.VectorPacked : Prop :=
  ∀ (i : Instr) (fm : VForm) (d : BitVec 8) (codes : List (BitVec 8 × BitVec 2)) (f : RMode → Nat → Nat → Nat → Nat × Nat)
    (s : State) (srcs : List VSrc) (seed : VSrc), ruleVPacked s i = some (fm, d, codes, f) → VLegal s fm d codes srcs seed →
    exec i s = .next (vArithDone s fm i d srcs seed (fun x y z draw =>
      let lane (v : DWord) (j : Nat) : Nat := v.toNat / 2 ^ (16 * j) % 2 ^ 16
      let r0 := f { mode := s.vp.rm.toNat, d := draw.toNat % 2 ^ 16, w := 16 } (lane x 0) (lane y 0) (lane z 0)
      let r1 := f { mode := s.vp.rm.toNat, d := draw.toNat / 2 ^ 16, w := 16 } (lane x 1) (lane y 1) (lane z 1)
      (BitVec.ofNat 64 (r0.1 + 2 ^ 16 * r1.1), r0.2 ||| r1.2)))

/-- R50, R151 to R153. VCVT between two different assigned formats, VQCVT into a lane of D and VQEXP out of a lane complete
with the course of an arithmetic word; VCVT of equal or unassigned formats is an illegal encoding. -/
def Obligations.VectorConversions : Prop :=
  ∀ (c : Bool) (d a : BitVec 8) (x : BitVec 1) (l f u : BitVec 3) (s : State) (srcs : List VSrc) (seed : VSrc),
    (f ≠ u → f.toNat < 5 → u.toNat < 5 → VLegal s (formFp (!cvtExact f.toNat u.toNat)) d [(a, s.vp.wa)] srcs seed →
      exec (.vcvt c d a x f u) s = .next (vArithDone s (formFp (!cvtExact f.toNat u.toNat)) (.vcvt c d a x f u) d srcs seed
        (fun v _ _ draw =>
          let r := cvt (x == 1) f.toNat u.toNat (modeOf s.vp.rm.toNat (if u.toNat = 1 ∨ u.toNat = 2 then 16 else 32) draw) (loWord v).toNat
          (BitVec.ofNat 64 r.1, r.2)))) ∧
    (f = u ∨ 5 ≤ f.toNat ∨ 5 ≤ u.toNat → exec (.vcvt c d a x f u) s = .next (s.setRes (.enc .illegalOpcode))) ∧
    (let fm := s.old.fm.get f.toNat
     let cw := fmContainer fm
     let ok := fmUsable s.old.fm f.toNat && laneOk fm l.toNat
     (VLegal s { formFp true with readsD := true, ok := ok } d [(a, s.vp.wa)] srcs seed →
       exec (.vqcvt c d a l f) s = .next (vArithDone s { formFp true with readsD := true, ok := ok } (.vqcvt c d a l f) d srcs seed
         (fun v w _ draw =>
           let r := narrowEncode fm (modeOf s.vp.rm.toNat 16 draw) (f32.decode (loWord v).toNat)
           let old := (loWord w).toNat
           (BitVec.ofNat 64 (old - old / 2 ^ (cw * l.toNat) % 2 ^ cw * 2 ^ (cw * l.toNat) + r.1 * 2 ^ (cw * l.toNat)), r.2)))) ∧
     (VLegal s { formFp true with ok := ok } d [(a, s.vp.wa)] srcs seed →
       exec (.vqexp c d a l f) s = .next (vArithDone s { formFp true with ok := ok } (.vqexp c d a l f) d srcs seed
         (fun v _ _ draw =>
           let r := match narrowDecode fm ((loWord v).toNat / 2 ^ (cw * l.toNat) % 2 ^ cw) with
             | .nan _ => (f32.nanBits, 0)
             | .inf n => (f32.infBits n, 0)
             | .fin n m e => f32.round (modeOf s.vp.rm.toNat 32 draw) n m e
           (BitVec.ofNat 64 r.1, r.2)))))

/-- R140, R103. The pass over the active slots: in ascending order each slot's result comes from the carry that the slot
before it left (the seed for the first) and, in a word that draws, from the draw at the counter, which it advances by
one; the carry it leaves is the low word of its result, and the flags of all slots are ORed. -/
def Sys2Proof.Claims.vectorPassOrder : Prop :=
  ∀ (key : DWord) (draws : Bool) (f : Nat → Word → Word → DWord × Nat) (ks : List Nat) (k : Nat) (p : VPass),
    vPass key draws f [] p = p ∧
    (vPass key draws f (ks ++ [k]) p =
      let q := vPass key draws f ks p
      let r := f k q.carry (if draws then randWord key q.ctr else 0)
      { res := q.res ++ [(k, r.1)], flags := q.flags ||| r.2, ctr := if draws then q.ctr + 1 else q.ctr, carry := loWord r.1 }) ∧
    (vPass key draws f ks p).res.map (·.1) = p.res.map (·.1) ++ ks ∧
    (vPass key draws f ks p).ctr = (if draws then p.ctr + BitVec.ofNat 64 ks.length else p.ctr)

/-- R43, R69, R71, R72. How the results of a word at distance 1 enter a strand. A register destination takes each active
slot's result, the low word first; zero mode writes zeros in the inactive live slots; every other register of every slot
stays. In each live slot latch 0 takes the slot's result, or in an inactive slot the old latch 3, and the other latches
move up by one; slots that are not live keep theirs. With N = 1 no register changes. -/
def Sys2Proof.Claims.vectorWrites : Prop :=
  ∀ (t : Strand) (zm : Bool) (d : BitVec 8) (n : Nat) (act : Word) (res : List (Nat × DWord)),
    (res.map (·.1)).Nodup → (∀ x ∈ res, x.1 < 32 ∧ act.getLsbD x.1 = true) → (n = 1 ∨ n = 2) →
    let u := t.vFinish false true zm d n act res
    (dstN d = false → ∀ k v, (k, v) ∈ res →
      u.vreg (dstReg d) k = loWord v ∧ (n = 2 → u.vreg (dstReg d + 1) k = hiWord v)) ∧
    (dstN d = false → zm = true → ∀ k, k < 32 → t.info.live.getLsbD k = true → act.getLsbD k = false →
      ∀ j, j < n → u.vreg (dstReg d + j) k = 0) ∧
    (∀ r k, k < 32 → (dstN d = true ∨ r < dstReg d ∨ dstReg d + n ≤ r ∨
        ((∀ v, (k, v) ∉ res) ∧ (zm = false ∨ t.info.live.getLsbD k = false ∨ act.getLsbD k = true))) →
      u.vreg r k = t.vreg r k) ∧
    (∀ k, k < 32 → t.info.live.getLsbD k = true →
      u.latch 0 k = ((res.find? (fun x => x.1 == k)).map (fun x => loWord x.2)).getD (t.latch 3 k) ∧
      (∀ l, l < 3 → u.latch (l + 1) k = t.latch l k)) ∧
    (∀ k l, k < 32 → l < 4 → t.info.live.getLsbD k = false → u.latch l k = t.latch l k) ∧
    u.masks = t.masks ∧ u.uregs = t.uregs ∧ u.sf = t.sf ∧ u.info = t.info

/-- R73, R68. A floating-point result waits in its slot's write buffer: the register keeps its old value, a value that was
already in the buffer commits first, a late result on its way stays unless that commit is of a later word for its register
(R74), and V_WORD_COMPLETION of a word commits the results of earlier words and frees the rod, for the word that TRET
re-issues where there is one (R395). -/
def Sys2Proof.Claims.floatResultsWait : Prop :=
  (∀ (t : Strand) (r k seq : Nat) (v : Word), k < 32 →
    let u := t.bufV r k v seq
    u.wbuf.find? k = some { reg := r, val := v, seq := seq } ∧ (∀ j, j ≠ k → u.wbuf.find? j = t.wbuf.find? j) ∧
    (∀ b, t.wbuf.find? k = some b → u.vreg b.reg k = b.val) ∧
    (∀ x ∈ t.late, (∀ b, t.wbuf.find? k = some b → x.slot = k → x.reg = b.reg → b.seq ≤ x.seq) → x ∈ u.late) ∧
    (∀ q j, j < 32 → (j ≠ k ∨ ∀ b, t.wbuf.find? k = some b → b.reg ≠ q) → u.vreg q j = t.vreg q j)) ∧
  (∀ (g : Nat) (s : State),
    (∀ f, (s.strand g).flight = some f → f.stop = .ran →
      exec (.vWordCompletion g) s = .next (s.modStrand g (fun t =>
        { t.commitBuf (fun b => b.seq < f.seq) with flight := t.again, again := none }))) ∧
    ((s.strand g).flight = none → exec (.vWordCompletion g) s = .next (s.modStrand g id)))

/-- R43, R69, R71 to R73, R103, R140. The order of a pass over the active slots, how its results enter registers and latches,
and how floating-point results wait in their buffers. -/
def Obligations.VectorResultsEnter : Prop :=
  Sys2Proof.Claims.vectorPassOrder ∧ Sys2Proof.Claims.vectorWrites ∧ Sys2Proof.Claims.floatResultsWait

/-- R146, R41. VMOV of a group of n > 1 registers from a group of as many: every register of the group is written in the
active slots, v(D) alone enters the latches, and zero mode clears the group in the inactive live slots. -/
def Sys2Proof.Claims.vectorWideMove : Prop :=
  ∀ (c : Bool) (d a : BitVec 8) (s : State) (x : VSrc), s.vp.wd ≠ 0 → s.vp.wa = s.vp.wd → s.vp.wb = 0 → s.vp.rm = 0 →
    s.vp.c = 0 → vSrcOf s.iss.lit a s.vp.wa = some x → s.old.vDstOk d (2 ^ s.vp.wd.toNat) false = true →
    s.VReady [x] (some (dstReg d, 2 ^ s.vp.wd.toNat)) →
    let n := 2 ^ s.vp.wd.toNat
    let e := vEntered s (.vmov c d a) none
    let act := (s.modMe Strand.vEnter).active
    let vals (k : Nat) : List Word := (List.range n).map (fun j => s.vReads.vRead 0 x k j)
    (act = 0 → exec (.vmov c d a) s = .next e.done) ∧
    (act ≠ 0 → exec (.vmov c d a) s = .next (vPaid (e.modMe (fun t =>
      let t := t.rotate (fun k => if act.getLsbD k then (vals k).head? else none)
      let t := (slotsOf act).foldl (fun t k => t.vWriteAll d k 0 (vals k)) t
      if s.vp.zm then (t.inactive act).foldl (fun t k => t.vWriteAll d k 0 (List.replicate n 0)) t else t))
      2 (popCount act) [x.accesses, dstAccesses d n]).done)

/-- R143. VSEL runs on the slots of `em`: each takes A where m(MSK) has its bit and B elsewhere, and is charged only for
the source it reads. MSK = 0 is illegal. -/
def Sys2Proof.Claims.vectorSelect : Prop :=
  ∀ (c : Bool) (d a b : BitVec 8) (s : State) (x y sd : VSrc), vSrcOf s.iss.lit a s.vp.wa = some x →
    vSrcOf s.iss.lit b s.vp.wb = some y →
    (if x = .cy ∨ y = .cy then seedSrc s.iss.lit s.vp.c = some sd else s.vp.c = 0 ∧ sd = .const 0) →
    widthsNone s.vp.wd s.vp.wa s.vp.wb = true → s.vp.rm = 0 → s.old.vDstOk d 1 true = true →
    let e := vEntered s (.vsel c d a b) none
    let act := (s.modMe Strand.vEnter).mask 0
    let sel := (s.modMe Strand.vEnter).mask s.vp.msk.toNat
    let cnt := popCount act
    let nx := popCount (act &&& sel)
    let pass := vPass 0 false (fun k carry _ => (s.vReads.vVal carry (if sel.getLsbD k then x else y) k, 0)) (slotsOf act)
      { carry := s.vReads.vRead 0 sd 0 0 }
    (s.vp.msk ≠ 0 → s.VReady [sd, x, y] (if dstN d then none else some (dstReg d, 1)) →
      (act = 0 → exec (.vsel c d a b) s = .next e.done) ∧
      (act ≠ 0 → exec (.vsel c d a b) s = .next
        (((vPaid (e.modMe (fun t => t.vFinish false true s.vp.zm d 1 act pass.res)) 2 cnt [dstAccesses d 1]).raw 5
          (nx * x.accesses.1 + (cnt - nx) * y.accesses.1)).raw 6 (nx * x.accesses.2 + (cnt - nx) * y.accesses.2)).done)) ∧
    (s.vp.msk = 0 → exec (.vsel c d a b) s = .next (s.setRes (.enc .illegalOperand)))

/-- R41, R143, R146. VMOV of register groups, and VSEL. -/
def Obligations.VectorMovesAndSelect : Prop :=
  Sys2Proof.Claims.vectorWideMove ∧ Sys2Proof.Claims.vectorSelect

/-- R52, R144. The compares: class, whether the condition code is assigned, and the truth of a slot with its flags. -/
def Sys2Proof.Claims.ruleCompare : Instr → Option ((BitVec 3 × BitVec 8 × BitVec 8) × Nat × Bool × (Word → Word → Bool × Nat))
  | .vcmpI _ k m a b => some ((m, a, b), 2, k.toNat ≤ 5, fun x y => (match k.toNat with
      | 0 => x = y | 1 => x ≠ y | 2 => x.toInt < y.toInt | 3 => x.toInt ≤ y.toInt | 4 => y.toInt < x.toInt | _ => y.toInt ≤ x.toInt, 0))
  | .vcmpN _ k m a b => some ((m, a, b), 2, k.toNat ≤ 5, fun x y => (match k.toNat with
      | 0 => x = y | 1 => x ≠ y | 2 => x.toNat < y.toNat | 3 => x.toNat ≤ y.toNat | 4 => y.toNat < x.toNat | _ => y.toNat ≤ x.toNat, 0))
  | .vfcmpF32 _ k m a b => some ((m, a, b), 3, true, fcmp k.toNat)
  | _ => none

/-- R144, R145, R111. VCMP.i, VCMP.n and VFCMP.f32, with every assigned condition, legal and ready, complete. In the
destination mask each active slot's bit becomes the truth of its condition; the other bits stay, or become zero in zero
mode; the mask is within LIVE and pending while the word is on the rod. The flags of the slots enter SF. No register, no
latch, no other mask and no byte of memory changes, and each active slot is charged. With no slot active the word only
takes the rod. -/
def Obligations.VectorCompare : Prop :=
  ∀ (i : Instr) (m : BitVec 3) (a b : BitVec 8) (cls : Nat) (f : Word → Word → Bool × Nat) (s : State) (x y : VSrc),
    ruleCompare i = some ((m, a, b), cls, true, f) → vSrcOf s.iss.lit a s.vp.wa = some x →
    vSrcOf s.iss.lit b s.vp.wb = some y → x ≠ .cy → y ≠ .cy → widthsNone s.vp.wd s.vp.wa s.vp.wb = true → s.vp.rm = 0 →
    s.vp.c = 0 → s.VReady [x, y] none →
    let act := (s.modMe Strand.vEnter).active
    let slot (k : Nat) : Bool × Nat := f (s.vReads.vRead 0 x k 0) (s.vReads.vRead 0 y k 0)
    (act = 0 → exec i s = .next (vEntered s i none).done) ∧
    (act ≠ 0 → ∃ t, exec i s = .next t ∧ t.iss.res = .done ∧
      (∀ k, k < 32 → (t.me.masks.get m.toNat).getLsbD k = (s.me.info.live.getLsbD k &&
        (if act.getLsbD k then (slot k).1 else !s.vp.zm && ((s.modMe Strand.vEnter).mask m.toNat).getLsbD k))) ∧
      (∀ n, n ≠ m.toNat → t.me.masks.get n = s.me.vEnter.masks.get n) ∧
      t.me.sf = s.me.vEnter.sf ||| BitVec.ofNat 32 ((slotsOf act).foldl (fun v k => v ||| (slot k).2) 0) ∧
      { t.me with masks := s.me.vEnter.masks, sf := s.me.vEnter.sf, flight := s.me.vEnter.flight } = s.me.vEnter ∧
      (∃ fl, t.me.flight = some fl ∧ fl.instr = i ∧ fl.mask = some m.toNat) ∧
      (∀ p, t.memByte p = s.memByte p) ∧
      t.iss.raw = s.iss.raw ++ [(cls, popCount act), (5, popCount act * (x.accesses.1 + y.accesses.1)),
        (6, popCount act * (x.accesses.2 + y.accesses.2))])

/-- R154, R155. The special function of each VSFU word. -/
def Sys2Proof.Claims.ruleSfu : Instr → Option ((BitVec 8 × BitVec 8) × Nat)
  | .vrcp _ d a => some ((d, a), 0)
  | .vrsq _ d a => some ((d, a), 1)
  | .vsqrt _ d a => some ((d, a), 2)
  | .vexp2 _ d a => some ((d, a), 3)
  | .vlog2 _ d a => some ((d, a), 4)
  | .vsin _ d a => some ((d, a), 5)
  | .vcos _ d a => some ((d, a), 6)
  | .vtanh _ d a => some ((d, a), 7)
  | _ => none

/-- R74, R154, R155. A VSFU word completes: each active slot's result is on its way with its flags and its delivery is due,
the zeros of zero mode come with it, and each slot is charged one special function. SPECIAL_FUNCTION_DELIVERY then raises
the flags of the first undelivered result of its slot. -/
def Obligations.VectorSpecial : Prop :=
  (∀ (i : Instr) (d a : BitVec 8) (fn : Nat) (s : State) (x : VSrc), ruleSfu i = some ((d, a), fn) →
    vSrcOf s.iss.lit a s.vp.wa = some x → x ≠ .cy → widthsNone s.vp.wd s.vp.wa s.vp.wb = true → s.vp.rm = 0 → s.vp.c = 0 →
    s.old.vDstOk d 1 false = true → s.VReady [x] (some (dstReg d, 1)) →
    let e := vEntered s i none
    let act := (s.modMe Strand.vEnter).active
    let late (k : Nat) (v : Word × Nat) (dl : Bool) : Late :=
      { reg := dstReg d, slot := k, val := v.1, flags := v.2, seq := e.me.vseq, sfu := true, delivered := dl }
    let lates := (slotsOf act).map (fun k => late k (sfu fn (s.vReads.vRead 0 x k 0)) false)
    let zeros := if s.vp.zm then (s.vReads.inactive act).map (fun k => late k (0, 0) true) else []
    (act = 0 → exec i s = .next e.done) ∧
    (act ≠ 0 → exec i s = .next (vPaid (lates.foldl (fun (s : State) x => s.due (.specialFunctionDelivery s.iss.g x.slot))
      (e.modMe (fun t => (lates ++ zeros).foldl Strand.lateV t))) 4 (popCount act) [x.accesses, dstAccesses d 1]).done)) ∧
  (∀ (g k : Nat) (s : State),
    exec (.specialFunctionDelivery g k) s = .next (s.modStrand g (fun t => t.deliverLate (fun x => x.sfu && x.slot == k)))) ∧
  (∀ (t : Strand) (p : Late → Bool) (x : Late) (l₁ l₂ : List Late), t.late = l₁ ++ x :: l₂ → p x = true → x.delivered = false →
    (∀ y ∈ l₁, p y = false ∨ y.delivered = true) → (t.deliverLate p).sf = t.sf ||| BitVec.ofNat 32 x.flags ∧
    (t.deliverLate p).vregs = t.vregs)

/-- R156, R157, R69, R72. VSHFL gives each active slot v(A) of the slot that B names modulo 32, or zero where that slot is
not live; VROT gives the active slot r places on, in the circle of the active slots. Their results enter registers and
latches as those of other words do. Two clauses are the model's choices: VSHFL gives zero for a slot that is not live even
where A is uniform or constant (log 138), and it charges every active slot for its access to A, whatever slot the index
names (log 121). -/
def Obligations.VectorCrossSlot : Prop :=
  ∀ (c : Bool) (d a b : BitVec 8) (s : State) (x y : VSrc), vSrcOf s.iss.lit a s.vp.wa = some x →
    vSrcOf s.iss.lit b s.vp.wb = some y → x ≠ .cy → y ≠ .cy → widthsNone s.vp.wd s.vp.wa s.vp.wb = true → s.vp.rm = 0 →
    s.vp.c = 0 → s.old.vDstOk d 1 true = true → s.VReady [x, y] (if dstN d then none else some (dstReg d, 1)) →
    let act := (s.modMe Strand.vEnter).active
    let fin (i : Instr) (f : Nat → Word) : State := vPaid ((vEntered s i none).modMe (fun t =>
      t.vFinish false true s.vp.zm d 1 act ((slotsOf act).map (fun k => (k, (f k).setWidth 64))))) 2 (popCount act)
      [x.accesses, y.accesses, dstAccesses d 1]
    (act ≠ 0 → exec (.vshfl c d a b) s = .next (fin (.vshfl c d a b) (fun k =>
      let j := (s.vReads.vRead 0 y k 0).toNat % 32
      if s.vReads.info.live.getLsbD j then s.vReads.vRead 0 x j 0 else 0)).done) ∧
    (act ≠ 0 → (0xA0#8 ≤ b ∧ b ≤ 0xAF#8) ∨ 0xBF#8 ≤ b → exec (.vrot c d a b) s = .next (fin (.vrot c d a b) (fun k =>
      let l := slotsOf act
      s.vReads.vRead 0 x (l.getD (((l.idxOf k : Nat) + (s.vReads.vRead 0 y 0 0).toInt) % (l.length : Nat)).toNat 0) 0)).done) ∧
    (act = 0 → exec (.vshfl c d a b) s = .next (vEntered s (.vshfl c d a b) none).done ∧
      ((0xA0#8 ≤ b ∧ b ≤ 0xAF#8) ∨ 0xBF#8 ≤ b → exec (.vrot c d a b) s = .next (vEntered s (.vrot c d a b) none).done))

/-- R158, R159, R161. VREDU gives every active slot the reduction of v(A) over the active slots in ascending order, with
its flags; VTRANS transposes the square of elements of each group of slots; VRAND gives each active slot the draw at the
counter, ascending. -/
def Obligations.VectorReduceTransposeRandom : Prop :=
  (∀ (c : Bool) (d a f : BitVec 8) (s : State) (x : VSrc), f.toNat ≤ 0x0A → vSrcOf s.iss.lit a s.vp.wa = some x → x ≠ .cy →
    widthsNone s.vp.wd s.vp.wa s.vp.wb = true → s.vp.rm.toNat ≤ 5 → s.vp.c = 0 → s.old.vDstOk d 1 false = true →
    s.VReady [x] (some (dstReg d, 1)) →
    let e := vEntered s (.vredu c d a f) none
    let act := (s.modMe Strand.vEnter).active
    let r := reduce f.toNat ((slotsOf act).map (fun k => s.vReads.vRead 0 x k 0))
    (act = 0 → exec (.vredu c d a f) s = .next e.done) ∧
    (act ≠ 0 → exec (.vredu c d a f) s = .next (vPaid ((e.modMe (fun t => t.vFinish false false s.vp.zm d 1 act
      ((slotsOf act).map (fun k => (k, r.1.setWidth 64))))).raiseFlags r.2) (if 8 ≤ f.toNat then 3 else 2) (popCount act)
      [x.accesses, dstAccesses d 1]).done)) ∧
  (∀ (c : Bool) (d a : BitVec 8) (z : BitVec 2) (s : State) (x : VSrc), z ≠ 3 → vSrcOf s.iss.lit a s.vp.wa = some x →
    s.vp.wd = 3 → s.vp.wa = 3 → s.vp.wb = 0 → s.vp.rm = 0 → s.vp.c = 0 → s.old.vDstOk d 8 false = true →
    s.VReady [x] (some (dstReg d, 8)) →
    let e := vEntered s (.vtrans c d a z) none
    let act := (s.modMe Strand.vEnter).active
    let b := 4 / 2 ^ z.toNat
    let g := 32 / b
    let row (k : Nat) : List Word := wordsOf ((List.range g).map (fun j =>
      if s.vReads.info.live.getLsbD (g * (k / g) + j) then
        ((bytesOfWords ((List.range 8).map (fun i => s.vReads.vRead 0 x (g * (k / g) + j) i))).drop (b * (k % g))).take b
      else natLe b 0)).flatten
    (act = 0 → exec (.vtrans c d a z) s = .next e.done) ∧
    (act ≠ 0 → exec (.vtrans c d a z) s = .next (vPaid (e.modMe (fun t =>
      let t := (slotsOf act).foldl (fun t k => t.writeOctet (dstReg d) k 0 (row k)) t
      if s.vp.zm then (t.inactive act).foldl (fun t k => t.writeOctet (dstReg d) k 0 (List.replicate 8 0)) t else t))
      2 (popCount act) [x.accesses, dstAccesses d 8]).done)) ∧
  (∀ (c : Bool) (d : BitVec 8) (s : State), widthsNone s.vp.wd s.vp.wa s.vp.wb = true → s.vp.rm = 0 → s.vp.c = 0 →
    s.old.vDstOk d 1 true = true → s.VReady [] (if dstN d then none else some (dstReg d, 1)) →
    let e := vEntered s (.vrand c d) none
    let act := (s.modMe Strand.vEnter).active
    let pass := vPass s.old.rngKey true (fun _ _ draw => (draw.setWidth 64, 0)) (slotsOf act) { ctr := s.old.rngCtr }
    (act = 0 → exec (.vrand c d) s = .next e.done) ∧
    (act ≠ 0 → exec (.vrand c d) s = .next (vPaid (drew (e.modMe (fun t =>
      t.vFinish false true s.vp.zm d 1 act pass.res)) pass.ctr) 2 (popCount act) [dstAccesses d 1]).done))

/-! ### Vector memory words -/

/-- The B operand of a memory word. -/
def Sys2Proof.Claims.memB (s : State) (m : MemForm) : VSrc := (bSrc s.iss.lit m s.vp).getD (.const 0)

/-- R178, R214, R223, R75. The operands of a memory word are legal and have arrived, the rod is free, and no acquire of the
strand is under way. -/
def Sys2Proof.Claims.MemReady (s : State) (m : MemForm) : Prop :=
  m.bad = none ∧ s.memOk m = true ∧ s.old.flight = none ∧ s.old.memPends m (memB s m) (wcount s.vp.wd) = false ∧
  s.old.lateWaits = false ∧ s.awaitsAcquire = false

/-- R68, R235. What a memory word takes onto the rod: its fields and the values it reads at issue, from the first slot on. -/
def Sys2Proof.Claims.memFlight (s : State) (i : Instr) (m : MemForm) (stop : FlightStop) : Flight :=
  { instr := i, vp := s.vp, pc := s.iss.pc, widx := s.iss.wpos, gwidx := s.iss.widx, lit := s.iss.lit, active := s.active,
    cursor := 0, uni := s.old.uregs, fmt := s.old.fm,
    bvals := s.vReads.memVals m (memB s m) (wcount s.vp.wd) (slotsOf s.active), wins := [],
    seq := s.me.vseq + 1, group := s.me.groups + 1, hgroup := s.me.hgroups, stop := stop, waited := s.iss.waited, mask := none,
    mark := s.nextId, fromHandler := s.me.trap.inHandler }

/-- R71, R80, R183. The strand has taken the word onto its rod; a word that may wait is a switch point. That it is one with
no active slot too is the model's choice (log 117). -/
def Sys2Proof.Claims.memEntered (s : State) (i : Instr) (m : MemForm) (stop : FlightStop) : State :=
  (if m.op.waits then (s.modMe Strand.vEnter).modMe Strand.switchPoint else s.modMe Strand.vEnter).modMe
    (fun t => { t with flight := some (memFlight s i m stop) })

/-- The sixteen words that majors 0x50 to 0x5D encode. -/
def Sys2Proof.Claims.MemWord (i : Instr) : Prop :=
  (∃ c d a o, i = .vld c d a o ∨ i = .vst c d a o ∨ i = .vlds c d a o ∨ i = .vsts c d a o ∨ i = .vldfe c d a o ∨
    i = .vstef c d a o ∨ i = .vldpk c d a o ∨ i = .vcas c d a o ∨ i = .vcass c d a o) ∨
  (∃ c d a s r p, i = .vatom c d a s r p ∨ i = .vred c d a s r p ∨ i = .vatoms c d a s r p) ∨
  (∃ c l a o, i = .vpref c l a o) ∨
  (∃ c d a, i = .vspfeEmpty c a ∨ i = .vspfeFull c a ∨ i = .vspfeGet c d a)

/-- A memory word, of the sixteen that majors 0x50 to 0x5D encode (`memForm` has a form for each of them and for no other
instruction), goes onto the rod and its pass begins; without active slots it only waits for its completion, and that a
VLDFE or VSTEF then zeroes the latches still is the model's choice (log 117). An operand that is not legal, or an unassigned
function code, is an illegal encoding and nothing else changes. -/
def Sys2Proof.Claims.vectorMemoryEntry : Prop :=
  (∀ (i : Instr) (p : VPfx), (memForm i p).isSome = true ↔ MemWord i) ∧
  ∀ (s : State) (i : Instr) (m : MemForm), memForm i s.vp = some m →
    (MemReady s m → s.active ≠ 0 → exec i s = .next ((memEntered s i m .stores).runFlight s.iss.g).done) ∧
    (MemReady s m → s.active = 0 → exec i s = .next ((memEntered s i m .ran).due (.vWordCompletion s.iss.g)).done) ∧
    (∀ c, m.bad = some c → exec i s = .next (s.enc c)) ∧
    (m.bad = none → s.memOk m = false → exec i s = .next (s.enc .illegalOperand))

/-- A slot counts among those that the word has run. -/
def Sys2Proof.Claims.countSlot (s : State) : State := { s with iss := { s.iss with slots := s.iss.slots + 1 } }

/-- The pass of a memory word. That the slots of a pass act in one step of the model, with no other agent's access between
two of them, and what a pass put off by a stall charges apart from its group are the model's choices (logs 28 and 133). A word
that releases first waits, at the slot it has come to; then an acquire is begun, and
the slots that are left run: in the issue of the word's group they add to the group's charge. Each slot that has acted is
charged and moves the cursor on; after the last one the word's completion is due. A slot that must wait leaves the cursor
at it, and a slot that faults raises its trap there, with the slots before it done. -/
def Sys2Proof.Claims.vectorMemoryRun : Prop :=
  (∀ (s : State) (g : Nat) (f : Flight) (m : MemForm), (s.strand g).flight = some f → memForm f.instr f.vp = some m →
    f.stop.goesOn = true →
    let ks := (slotsOf f.active).filter (fun k => f.cursor ≤ k)
    ((f.waited = true ∨ m.rel = false) → s.runFlight g =
      (let a := s.modFlight g (fun f => { f with waited := true, began := m.acq })
       (if m.acq = true ∧ f.began = false then a.beginAcquire g m.scope else a).withSlots g (fun b =>
         b.runSlots g m (4 * wcount f.vp.wd) (slotWeights m (4 * wcount f.vp.wd) ((bSrc f.lit m f.vp).getD (.const 0))) ks))) ∧
    (f.waited = false → m.rel = true → (s.strand g).takeable = none → ∀ t, s.flightRelease g f m = (t, false) →
      s.runFlight g = t.stopFlight g (ks.headD 32) .release)) ∧
  (∀ (s : State) (g : Nat) (run : State → State), s.iss.snap.isSome = true → s.iss.g = g → s.withSlots g run = run s) ∧
  (∀ (s : State) (g n : Nat) (m : MemForm) (w : List (Nat × Nat)),
    s.runSlots g m n w [] = (s.modFlight g (fun f => { f with cursor := 32, stop := .ran })).due (.vWordCompletion g)) ∧
  (∀ (s t : State) (g n k : Nat) (ks : List Nat) (f : Flight) (m : MemForm) (w : List (Nat × Nat)),
    (s.strand g).flight = some f → s.memSlot g f m n k = (t, .ok) →
    s.runSlots g m n w (k :: ks) =
      ((countSlot (t.slotCharge w)).modFlight g (fun f => { f with cursor := k + 1 })).runSlots g m n w ks) ∧
  (∀ (s t : State) (g n k : Nat) (ks : List Nat) (f : Flight) (m : MemForm) (w : List (Nat × Nat)) (x : FlightStop),
    (s.strand g).flight = some f → s.memSlot g f m n k = (t, .stop x) → s.runSlots g m n w (k :: ks) = t.stopFlight g k x) ∧
  (∀ (s t : State) (g n k : Nat) (ks : List Nat) (f : Flight) (m : MemForm) (w : List (Nat × Nat)) (x : TrapInfo),
    (s.strand g).flight = some f → s.memSlot g f m n k = (t, .fault x) →
    s.runSlots g m n w (k :: ks) =
      (t.stopFlight g k .faulted).raiseSlot g { x with slot := k })

/-- R47, R53, R70, R84, R179, R195, R199, R235. Every V memory word (VLD, VST, VLDS, VSTS, VATOM, VRED, VATOMS, VCAS, VCASS,
VLDFE, VSTEF, VPREF, VLDPK, VSPFE_EMPTY, VSPFE_FULL, VSPFE_GET) goes onto the rod, and its pass takes its slots in order. -/
def Obligations.VectorMemoryPass : Prop :=
  Sys2Proof.Claims.vectorMemoryEntry ∧ Sys2Proof.Claims.vectorMemoryRun

/-- One slot of a word that addresses scratchpad by window offset. An offset that is not a multiple of the width faults
with ALIGN, one beyond the window with SPAD_RANGE. A slot of a block on the strand's own core makes its step at the banks:
a load and an atomic return the bytes as they stood, and each step leaves what its rule says. A full/empty step that finds
the bit in the wrong state waits, and a VSPFE step never does. A slot of a block on another core sends a message that asks
for its step: one that returns nothing is done with that, and one that returns a value waits for its reply. A slot of VSTEF
is a release (R183): it first waits for what stands before it, then makes its step or waits for the bit, and on another core
it waits until its step is made. -/
def Obligations.ScratchpadSlots : Prop :=
  (∀ (s : State) (g : Nat) (f : Flight) (m : MemForm) (n k : Nat), m.op.spad = true →
    (spadOff (s.strand g) f m n k % n ≠ 0 →
      s.memSlot g f m n k =
        (s, .fault { cause := .align, kind := m.op.kind, va := some (spadOff (s.strand g) f m n k), size := n, slot := k })) ∧
    (spadOff (s.strand g) f m n k % n = 0 → (s.strand g).winSize < spadOff (s.strand g) f m n k + n →
      s.memSlot g f m n k =
        (s, .fault { cause := .spadRange, kind := m.op.kind, va := some (spadOff (s.strand g) f m n k), size := n, slot := k }))) ∧
  (∀ (s : State) (g : Nat) (f : Flight) (m : MemForm) (n k o : Nat), m.op.spad = true → m.op ≠ .stef →
    spadOff (s.strand g) f m n k % n = 0 → spadOff (s.strand g) f m n k + n ≤ (s.strand g).winSize →
    (m.op.waits && (s.strand g).setBound && !(s.strand g).aset.holds.isEmpty) = false →
    s.spadOrder g (coreOf g) = true → (s.strand g).winPlace (spadOff (s.strand g) f m n k) = (coreOf g, o) →
    (∀ r, s.spPerform (coreOf g) o (spadOp (s.strand g) f m n k) = some r →
      s.memSlot g f m n k = (r.1.spadDone g f m k r.2 false false, .ok)) ∧
    (s.spPerform (coreOf g) o (spadOp (s.strand g) f m n k) = none →
      s.memSlot g f m n k = (s.enterWait g (.fullEmpty (coreOf g) o (m.op == .ldfe)), .stop .fullEmpty))) ∧
  (∀ (s : State) (g : Nat) (f : Flight) (m : MemForm) (n k c o : Nat), m.op.spad = true → m.op ≠ .stef →
    spadOff (s.strand g) f m n k % n = 0 → spadOff (s.strand g) f m n k + n ≤ (s.strand g).winSize →
    (m.op.waits && (s.strand g).setBound && !(s.strand g).aset.holds.isEmpty) = false →
    (s.strand g).winPlace (spadOff (s.strand g) f m n k) = (c, o) → c ≠ coreOf g →
    ((s.strand g).sent = false → s.spadOrder g c = true → s.remoteFull c = false →
      (m.op.writesD = false → s.memSlot g f m n k = ((s.sendRemote g c k o (spadOp (s.strand g) f m n k) .none).modStrand g
        (fun t => { t with unacked := t.unacked + 1 }), .ok)) ∧
      (m.op.writesD = true → s.memSlot g f m n k = ((s.sendRemote g c k o (spadOp (s.strand g) f m n k) .slot).modStrand g
        (fun t => { t with sent := true }), .stop .remote))) ∧
    ((s.strand g).sent = true →
      ((s.strand g).reply8 = none → s.memSlot g f m n k = (s, .stop .remote)) ∧
      (∀ b, (s.strand g).reply8 = some b → s.memSlot g f m n k =
        ((s.modStrand g (fun t => { t with sent := false, reply8 := none })).spadDone g f m k b false true, .ok)))) ∧
  (∀ (s t : State) (g : Nat) (f : Flight) (m : MemForm) (n k : Nat), m.op = .stef →
    spadOff (s.strand g) f m n k % n = 0 → spadOff (s.strand g) f m n k + n ≤ (s.strand g).winSize →
    (s.strand g).sent = false →
    (s.releaseWord g f m.scope = (t, false) → s.memSlot g f m n k = (t, .stop .release)) ∧
    (∀ u c o, s.releaseWord g f m.scope = (t, true) → u = t.modFlight g (fun f => { f with relIds := none }) →
      ((u.strand g).setBound && !(u.strand g).aset.holds.isEmpty) = false → (u.strand g).sent = false →
      (u.strand g).winPlace (spadOff (s.strand g) f m n k) = (c, o) → u.spadOrder g c = true →
      (∀ r, c = coreOf g → u.spPerform c o (.stef (f.bvals.get (2 * k))) = some r → s.memSlot g f m n k = (r.1, .ok)) ∧
      (c = coreOf g → u.spPerform c o (.stef (f.bvals.get (2 * k))) = none →
        s.memSlot g f m n k = (u.enterWait g (.fullEmpty c o false), .stop .fullEmpty)) ∧
      (c ≠ coreOf g → u.remoteFull c = false →
        s.memSlot g f m n k = ((u.sendRemote g c k o (.stef (f.bvals.get (2 * k))) .step).modStrand g
          (fun t => { t with sent := true }), .stop .remote)))) ∧
  (∀ (s : State) (g : Nat) (f : Flight) (m : MemForm) (n k : Nat), m.op = .stef →
    spadOff (s.strand g) f m n k % n = 0 → spadOff (s.strand g) f m n k + n ≤ (s.strand g).winSize →
    ((s.strand g).setBound && !(s.strand g).aset.holds.isEmpty) = false → (s.strand g).sent = true →
    ((s.strand g).winPlace (spadOff (s.strand g) f m n k)).1 ≠ coreOf g →
    ((s.strand g).reply8 = none → s.memSlot g f m n k = (s, .stop .remote)) ∧
    (∀ b, (s.strand g).reply8 = some b → s.memSlot g f m n k =
      (s.modStrand g (fun t => { t with sent := false, reply8 := none }), .ok))) ∧
  (∀ (c : CoreSt) (o n : Nat), c.spStep o (.load n) = some (c, c.readSp o n)) ∧
  (∀ (c : CoreSt) (o : Nat) (d : List Byte),
    ∃ c', c.spStep o (.store d) = some (c', []) ∧ c'.readSp o d.length = d ∧
      (∀ p, p < o ∨ o + d.length ≤ p → c'.readSp p 1 = c.readSp p 1) ∧ c'.fe = c.fe ∧ c'.tags = c.tags) ∧
  (∀ (c : CoreSt) (o op : Nat) (v : Word),
    ∃ c', c.spStep o (.atom op v) = some (c', c.readSp o 4) ∧
      c'.readSp o 4 = bytesOfWord (atomOp op (wordOfBytes (c.readSp o 4)) v) ∧
      (∀ p, p < o ∨ o + 4 ≤ p → c'.readSp p 1 = c.readSp p 1) ∧ c'.fe = c.fe ∧ c'.tags = c.tags) ∧
  (∀ (c : CoreSt) (o : Nat) (x y : List Byte), y.length = x.length →
    ∃ c', c.spStep o (.cas x y) = some (c', c.readSp o x.length) ∧
      c'.readSp o x.length = (if c.readSp o x.length = x then y else c.readSp o x.length) ∧
      (∀ p, p < o ∨ o + x.length ≤ p → c'.readSp p 1 = c.readSp p 1)) ∧
  (∀ (c : CoreSt) (o : Nat), c.full o = true →
    ∃ c', c.spStep o .ldfe = some (c', c.readSp o 4) ∧ c'.full o = false ∧ c'.spad = c.spad) ∧
  (∀ (c : CoreSt) (o : Nat), c.full o = false → c.spStep o .ldfe = none) ∧
  (∀ (c : CoreSt) (o : Nat) (v : Word), c.full o = false →
    ∃ c', c.spStep o (.stef v) = some (c', []) ∧ c'.full o = true ∧ c'.readSp o 4 = bytesOfWord v) ∧
  (∀ (c : CoreSt) (o : Nat) (v : Word), c.full o = true → c.spStep o (.stef v) = none) ∧
  (∀ (c : CoreSt) (o : Nat) (b : Bool), ∃ c', c.spStep o (.feSet b) = some (c', []) ∧ c'.full o = b ∧ c'.spad = c.spad) ∧
  (∀ (c : CoreSt) (o : Nat), c.spStep o .feGet = some (c, bytesOfWord (if c.full o then 1 else 0)))

/-- One slot of a global word whose address is canonical, aligned and outside the window, for a strand without an atomic
set. A load starts at its place, behind the strand's stores and the context's combining entries that touch it. A store
joins the core's queue with its translation due, or waits for an entry. A relaxed reduction merges into the combining
buffer once that has room, and an ordered one, an atomic and a compare-and-swap take one step at their home. A prefetch
whose translation fails is dropped. -/
def Sys2Proof.Claims.plainSlots : Prop :=
  ∀ (s : State) (g : Nat) (f : Flight) (m : MemForm) (n k va : Nat), va = globalVa (s.strand g) f m n k →
    canonical va = true → va % n = 0 → (s.strand g).window va = none → (s.strand g).setBearing = false →
    (∀ t p u, m.op = .ld ∨ m.op = .ldpk → s.storeBefore g va n = false → s.slotPlace g va .load = (t, .at p) →
      (t.lineBusy (coreOf g) (s.strand g).info.ctx p = (u, false) → s.memSlot g f m n k = (u.loadSlot g f m p n k, .ok)) ∧
      (t.lineBusy (coreOf g) (s.strand g).info.ctx p = (u, true) → s.memSlot g f m n k = (u, .stop .stores))) ∧
    (m.op = .ld ∨ m.op = .ldpk → s.storeBefore g va n = true → s.memSlot g f m n k = (s, .stop .stores)) ∧
    (m.op = .st →
      let e : SqEntry :=
        { id := 0, work := s.workOf g, va := BitVec.ofNat 64 va, data := (s.strand g).dBytes m.d n k, slot := k, ust := false,
          pc := f.pc, widx := f.widx, group := f.group, hgroup := f.hgroup, window := (f.group * 4 + k / 8) * 2, pa := none,
          fromHandler := f.fromHandler }
      (s.sqRoom e = true → s.memSlot g f m n k = (s.enqueueStore e, .ok)) ∧
      (s.sqRoom e = false → s.memSlot g f m n k = (s, .stop .stores))) ∧
    (∀ t p op u, m.op = .red op → m.rel = false → s.storeBefore g va n = false → s.slotPlace g va .atomic = (t, .at p) →
      (t.strand g).setBearing = false →
      (t.combineRoom (t.workOf g) p op = (u, false) → s.memSlot g f m n k =
        ((u.bindOverlap g p n).combine (t.workOf g) p op ((t.strand g).vreg (dstReg m.d) k), .ok)) ∧
      (t.combineRoom (t.workOf g) p op = (u, true) → s.memSlot g f m n k = (u, .stop .stores))) ∧
    (∀ t p op, m.op = .red op → m.rel = true → s.storeBefore g va n = false → s.slotPlace g va .atomic = (t, .at p) →
      (t.strand g).setBearing = false →
      s.memSlot g f m n k =
        ((t.homeAtomic g p n (atomBytes (t.strand g) f m n k)).1.chargeLine (t.workOf g) (dieOf g) p true false, .ok)) ∧
    (∀ t p u, (∃ op, m.op = .atom op) ∨ m.op = .cas → s.storeBefore g va n = false →
      s.slotPlace g va .atomic = (t, .at p) → t.lineBusy (coreOf g) (s.strand g).info.ctx p = (u, false) →
      (u.strand g).setBearing = false →
      s.memSlot g f m n k =
        (let r := u.homeAtomic g p n (atomBytes (u.strand g) f m n k)
         (r.1.chargeLine (u.workOf g) (dieOf g) p true false).startLoad
           { id := 0, work := u.workOf g, uni := false, reg := dstReg m.d, slot := k, pa := p, n := n, data := some r.2,
             home := false, l1 := 0, trip := false, miss := true }, .ok)) ∧
    (∀ t p sc r, m.op = .pref sc →
      (s.slotPlace g va .load = (t, .at p) → s.memSlot g f m n k = (t.prefSlot g f p k sc, .ok)) ∧
      (s.slotPlace g va .load = (t, .fail r) → s.memSlot g f m n k = (t, .ok)))

/-- R189, R225. One slot of a global word whose address lies in the scratchpad window, canonical and aligned. A prefetch does
nothing there; an access beyond the window faults with SPAD_RANGE. Else the loads of the word's lower slots have returned
before the slot acts: on the strand's own core it makes its step at the banks, a result is scoreboarded, and the slot is
charged n / 4 scratchpad units; to another core a message asks for it, which a slot with a result waits for. -/
def Sys2Proof.Claims.windowSlots : Prop :=
  ∀ (s : State) (g : Nat) (f : Flight) (m : MemForm) (n k x : Nat), m.op.spad = false →
    canonical (globalVa (s.strand g) f m n k) = true → globalVa (s.strand g) f m n k % n = 0 →
    (s.strand g).window (globalVa (s.strand g) f m n k) = some x →
    ((∃ sc, m.op = .pref sc) → s.memSlot g f m n k = (s, .ok)) ∧
    ((∀ sc, m.op ≠ .pref sc) →
      ((s.strand g).winSize < x + n → s.memSlot g f m n k =
        (s, .fault { cause := .spadRange, kind := m.op.kind, va := some x, size := n, slot := k })) ∧
      (∀ c o u, x + n ≤ (s.strand g).winSize → (s.strand g).winPlace x = (c, o) → u = s.bindWord g f.seq →
        (∀ r, c = coreOf g → s.spadOrder g c = true → u.spPerform c o (spadOp (s.strand g) f m n k) = some r →
          s.memSlot g f m n k = ((r.1.spadDone g f m k r.2 true false).slotCharge [(8, n / 4)], .ok)) ∧
        (c ≠ coreOf g → (s.strand g).sent = false → s.spadOrder g c = true → u.remoteFull c = false →
          (m.op.writesD = false → s.memSlot g f m n k =
            (((u.sendRemote g c k o (spadOp (s.strand g) f m n k) .none).modStrand g
              (fun t => { t with unacked := t.unacked + 1 })).slotCharge [(8, n / 4)], .ok)) ∧
          (m.op.writesD = true → s.memSlot g f m n k =
            ((u.sendRemote g c k o (spadOp (s.strand g) f m n k) .slot).modStrand g (fun t => { t with sent := true }),
              .stop .remote))) ∧
        (∀ b, c ≠ coreOf g → (s.strand g).sent = true → (s.strand g).reply8 = some b → s.memSlot g f m n k =
          (((u.setStrand g { s.strand g with sent := false, reply8 := none }).spadDone g f m k b true true).slotCharge
            [(8, n / 4)], .ok))))

/-- R254 to R258. One slot of a global word of a strand that a set binds, canonical, aligned and outside the window. An
atomic outside every set is a SET_VIOLATION with detail 6, and a store outside every set joins the store queue. In a set the
slot first acquires its granule: host memory is a violation with detail 5, a granule on the hold list lets it go on, and one
that has not been asked for, with room for it, is asked for at its home, and the slot waits. With the granule a store goes
into the hold buffer, an atomic makes its step there on the fetched line, and a load starts. -/
def Sys2Proof.Claims.setSlots : Prop :=
  (∀ (s : State) (g : Nat) (f : Flight) (m : MemForm) (n k va : Nat), va = globalVa (s.strand g) f m n k →
    m.op.spad = false → canonical va = true → va % n = 0 → (s.strand g).window va = none → (s.strand g).setBound = true →
    (m.op.access = .atomic → (s.strand g).inSet va = none → s.memSlot g f m n k =
      (s, .fault { cause := .setViolation, detail := 6, kind := m.op.kind, va := some va, size := n, slot := k })) ∧
    (m.op = .st → (s.strand g).inSet va = none → ∃ e, e.va = BitVec.ofNat 64 va ∧ e.data = (s.strand g).dBytes m.d n k ∧
      (s.sqRoom e = true → s.memSlot g f m n k = (s.enqueueStore e, .ok)) ∧
      (s.sqRoom e = false → s.memSlot g f m n k = (s, .stop .stores))) ∧
    (∀ t p u r, s.storeBefore g va n = false → m.op = .st ∨ m.op = .ld ∨ m.op.access = .atomic →
      (s.strand g).inSet va ≠ none → s.slotPlace g va m.op.access = (t, .at p) → t.slotGranule g va p k = (u, r) →
      (r ≠ .ok → s.memSlot g f m n k = (u, r)) ∧
      (r = .ok → m.op = .st → s.memSlot g f m n k =
        ((u.holdStore g p ((s.strand g).dBytes m.d n k)).1,
          if (u.holdStore g p ((s.strand g).dBytes m.d n k)).2 then .ok else .stop .granWait)) ∧
      (∀ v, r = .ok → m.op = .ld → u.lineBusy (coreOf g) (s.strand g).info.ctx p = (v, false) →
        s.memSlot g f m n k = (v.loadSlot g f m p n k, .ok)) ∧
      (∀ v w old, r = .ok → m.op.access = .atomic → m.op.writesD = true →
        u.lineBusy (coreOf g) (s.strand g).info.ctx p = (v, false) → (v.strand g).setBound = true →
        (v.strand g).inSet va ≠ none → v.heldAtomic g p n (atomBytes (v.strand g) f m n k) = (w, some old) →
        s.memSlot g f m n k = (w.startLoad
          { id := 0, work := v.workOf g, uni := false, reg := dstReg m.d, slot := k, pa := p, n := n, data := some old,
            home := false, l1 := 0, trip := false, miss := true }, .ok)) ∧
      (∀ w old op, r = .ok → m.op = .red op → (u.strand g).setBound = true → (u.strand g).inSet va ≠ none →
        u.heldAtomic g p n (atomBytes (u.strand g) f m n k) = (w, some old) → s.memSlot g f m n k = (w, .ok)))) ∧
  (∀ (s : State) (g va k i : Nat) (d : BitVec 128) (p : PAddr), (s.strand g).inSet va = some (i, d) →
    let x := granuleAt d p
    let h := s.slice x.home
    (p.host = true → s.slotGranule g va p k = (s, .fault { cause := .setViolation, detail := 5, va := some va, slot := k })) ∧
    (p.host = false → x ∈ (s.strand g).aset.holds → s.slotGranule g va p k = (s, .ok)) ∧
    (p.host = false → x ∉ (s.strand g).aset.holds → h.waitList.any (fun e => e.task.work.g == g && e.gran == x) = false →
      h.reqs.any (fun e => e.1.work.g == g && e.2 == x) = false → Event.granuleGrant g x.base x.glog ∉ s.pending →
      (s.strand g).aset.holds.length + s.granulesDue g < 64 →
      ∃ t, s.slotGranule g va p k = (t, .stop .granReq) ∧ (t.slice x.home).reqs = h.reqs ++ [(s.ageOf g, x)] ∧
        Event.granuleRequest x.home ∈ t.pending ∧ t.hbm = s.hbm ∧ t.hostMem = s.hostMem ∧
        (∀ c, (t.core c).sq = (s.core c).sq))) ∧
  (∀ (s : State) (g : Nat) (p : PAddr) (n : Nat) (fn : List Byte → List Byte), (s.strand g).hasLine p = true →
    ∀ l, (s.strand g).fetchedLine p = some l →
    let u := s.bindOverlap g p n
    let old := ((u.ownBytes g p.line l).drop (p.addr % 64)).take n
    s.heldAtomic g p n fn = (u.modStrand g (fun t => t.holdBytes p (fn old)), some old))

/-- R53, R181, R220. The operations of the atomic words by function code, on an old value and the value in. -/
def Sys2Proof.Claims.ruleAtom (code : Nat) (old v : Word) : Option Word :=
  match code with
  | 0x0 => some (old + v)
  | 0x1 => some (BitVec.ofInt 32 (min old.toInt v.toInt))
  | 0x2 => some (BitVec.ofInt 32 (max old.toInt v.toInt))
  | 0x3 => some (BitVec.ofNat 32 (min old.toNat v.toNat))
  | 0x4 => some (BitVec.ofNat 32 (max old.toNat v.toNat))
  | 0x5 => some (old &&& v)
  | 0x6 => some (old ||| v)
  | 0x7 => some (old ^^^ v)
  | 0x8 => some v
  | 0x9 => some (BitVec.ofNat 32 (f32.add rne old.toNat v.toNat).1)
  | 0xA => some (minMax false old v).1
  | 0xB => some (minMax true old v).1
  | _ => none

/-- R53, R202, R211, R219 to R221. An atomic step of n bytes at a place. The core's combining entries of the context for the
line are applied and its translated stores to the line land first, which gives the state u; then memory at the place becomes
what the operation makes of the bytes as they stand there, the old bytes are returned, and every other byte of both memories
stays. Where nothing of the line is on its way, u has the memory as it was. The operation is that of the word's function
code, or the compare-and-swap. -/
def Sys2Proof.Claims.atomicSteps : Prop :=
  (∀ (s : State) (g n : Nat) (p : PAddr) (fn : List Byte → List Byte),
    let u := (s.flushLine (coreOf g) (s.strand g).info.ctx p).landLine (coreOf g) p.line s.nextId
    let r := s.homeAtomic g p n fn
    r.2 = u.memBytes p n ∧
    ((fn r.2).length = n → r.1.memBytes p n = fn r.2 ∧
      (∀ a : PAddr, (a.host ≠ p.host ∨ a.addr < p.addr ∨ p.addr + n ≤ a.addr) → r.1.memByte a = u.memByte a)) ∧
    ((∀ e ∈ (s.core (coreOf g)).cb, e.work.ctx ≠ (s.strand g).info.ctx ∨ e.pa ≠ p.line) →
      (∀ e ∈ (s.core (coreOf g)).sq, ∀ q, e.pa = some q → q.line ≠ p.line) →
      ∀ a, u.memByte a = s.memByte a)) ∧
  (∀ code old v, code < 12 → ruleAtom code old v = some (atomOp code old v)) ∧
  (∀ (t : Strand) (f : Flight) (m : MemForm) (k code : Nat) (old : Word), m.op = .atom code ∨ m.op = .red code →
    atomBytes t f m 4 k (bytesOfWord old) = bytesOfWord (atomOp code old (t.vreg (dstReg m.d) k))) ∧
  (∀ (t : Strand) (f : Flight) (m : MemForm) (n k : Nat) (old : List Byte), m.op = .cas →
    atomBytes t f m n k old = (if old = f.bBytes n k then t.dBytes m.d n k else old))

/-- R53, R187, R189, R202, R210, R216 to R221, R254, R257. A slot of a global word: in memory, in the scratchpad window, inside
an atomic set; and what an atomic step leaves in memory and returns. -/
def Obligations.GlobalSlots : Prop :=
  Sys2Proof.Claims.plainSlots ∧ Sys2Proof.Claims.windowSlots ∧ Sys2Proof.Claims.setSlots ∧ Sys2Proof.Claims.atomicSteps

/-! ### The matrix unit, the copy engine and byte barriers -/

/-- R237, R240. Every earlier access of the strand has returned or reached its `.core` visibility point. -/
def Sys2Proof.Claims.OwnDone (s : State) : Prop :=
  s.untranslated s.iss.g = false ∧ s.loadsOut s.iss.g = false ∧ s.remotesOut s.iss.g = false

/-- R206, R234. The release of a word is over in state `q`; in the combined run of its group it is not looked at again. -/
def Sys2Proof.Claims.Released (s q : State) (scope : Nat) : Prop :=
  if s.iss.go = true then q = s else s.releaseStep s.iss.g scope = (q, true)

/-- R206, R234. A release waits in state `q`. -/
def Sys2Proof.Claims.Releasing (s q : State) (scope : Nat) : Prop :=
  s.iss.go = false ∧ s.releaseStep s.iss.g scope = (q, false)

/-- R206. What a word that releases waits for: its stores, or what else its release names. -/
def Sys2Proof.Claims.releaseHold (q : State) (g : Nat) : Hold := if q.untranslated g then .stores else .release

/-- R275, R290. An M word names a tile that is allotted and that is not suspended under a handler, and its uniform
registers are ready. -/
def Sys2Proof.Claims.MReady (s : State) (t : BitVec 2) (p : Nat) (regs : List (Nat × Nat)) : Prop :=
  s.old.info.tiles[t.toNat]? = some p ∧ s.UReady regs ∧
  (s.me.trap.inHandler && ((s.quarter s.myQuarter).tileSt p).susp.isSome) = false

/-- R277. The queue of the quarter's unit has a free entry. -/
def Sys2Proof.Claims.QueueFree (s : State) : Prop := (s.quarter s.myQuarter).mq.length < 4

/-- R292. Sixteen registers of the slots of a mask wait for a tile port. -/
def Sys2Proof.Claims.blockPending (s : State) (sel : Word) (r id : Nat) : State :=
  let l := (slotsOf sel).flatMap (fun k => (List.range 16).map (fun i => (r + i, k, id)))
  s.modMe (fun t => { t with pendV := t.pendV ++ l })

/-- R277. An entry of a unit's queue as a word makes it. -/
def Sys2Proof.Claims.newEntry (s : State) (p : Nat) (k : MKind) : MEntry :=
  { id := s.nextId, work := s.myWork, tile := p, kind := k, staged := none, running := false, row := 0,
    handlerWork := s.me.handlerMark, info := s.me.info }

/-- An M word is accepted into its unit's queue as the last entry, with what it read at issue, and the charge of its
tile access; MTOV makes its registers pending, MRP reads the state of the tile, and MMA with no selected row is complete
at once. An MMA needs a unit that is not Idle, and a request for one from an Idle unit leaves the word waiting. A word
waits while the queue holds four entries. A tile that is not allotted, and a register that is not, is an illegal operand;
an illegal layout or barrier offset traps. -/
def Obligations.MatrixWords : Prop :=
  (∀ (s : State) (p : Nat) (k : MKind), ((s.quarter s.myQuarter).tileSt p).susp = none →
    ((s.quarter s.myQuarter).tileSt p).heldWords = [] →
    s.acceptM p k =
      (s.takeId.modQuarter s.myQuarter (fun x => { x with mq := x.mq ++ [newEntry s p k] })).kickM s.myQuarter) ∧
  (∀ (s : State) (c : Bool) (t : BitVec 2) (f : BitVec 6) (a b : BitVec 8) (p : Nat),
    f.toNat ≤ 6 → MReady s t p [(a.toNat, 4), (b.toNat, 4)] →
    (layoutOf (s.u128 a.toNat)).ok f.toNat true s.old.fm = true →
    (layoutOf (s.u128 b.toNat)).ok f.toNat false s.old.fm = true →
    (s.mask 0 = 0 → exec (.mma c t f a b) s = .next s.done) ∧
    (s.mask 0 ≠ 0 → ¬QueueFree s → exec (.mma c t f a b) s = .next (s.hold .matrixUnit)) ∧
    (s.mask 0 ≠ 0 → QueueFree s → OwnDone s →
      ((s.quarter s.myQuarter).unit ≠ .idle →
        exec (.mma c t f a b) s = .next (s.acceptM p (.mma
          { fmt := f.toNat, la := s.u128 a.toNat, lb := s.u128 b.toNat, fms := s.old.fm, sel := s.mask 0, r0 := 0 })).done) ∧
      ((s.quarter s.myQuarter).unit = .idle →
        exec (.mma c t f a b) s =
          .next (((s.modQuarter s.myQuarter (fun x => { x with request := true })).governM s.myQuarter).hold .matrixUnit)))) ∧
  (∀ (s : State) (c : Bool) (t : BitVec 2) (f : BitVec 6) (a b : BitVec 8) (p : Nat),
    (6 < f.toNat → exec (.mma c t f a b) s = .next (s.enc .illegalOpcode)) ∧
    (f.toNat ≤ 6 → MReady s t p [(a.toNat, 4), (b.toNat, 4)] →
      (layoutOf (s.u128 a.toNat)).ok f.toNat true s.old.fm = false ∨ (layoutOf (s.u128 b.toNat)).ok f.toNat false s.old.fm = false →
      exec (.mma c t f a b) s = .next (s.trap { cause := .illegalOperand }))) ∧
  (∀ (s : State) (c : Bool) (t : BitVec 2) (p : Nat), MReady s t p [] → ¬QueueFree s →
    exec (.mzero c t) s = .next (s.hold .matrixUnit)) ∧
  (∀ (s : State) (c : Bool) (t : BitVec 2) (p : Nat), MReady s t p [] → QueueFree s →
    exec (.mzero c t) s = .next ((s.acceptM p (.mzero (s.mask 0))).raw 21 (2 * popCount (s.mask 0))).done) ∧
  (∀ (s : State) (c : Bool) (t : BitVec 2) (k : BitVec 3) (a : BitVec 8) (p : Nat), MReady s t p [] → QueueFree s →
    s.old.blockOk a.toNat = true → s.old.flight = none → s.old.pendsV a.toNat 16 = false → s.old.lateIn a.toNat 16 = false →
    exec (.mtov c t k a) s =
      .next (((blockPending (s.modMe (fun t => (t.commitBuf (fun b => b.seq ≤ s.old.vseq)).commitLate (fun x =>
        x.delivered && x.seq ≤ s.old.vseq && a.toNat ≤ x.reg && x.reg < a.toNat + 16))) (s.mask 0) a.toNat s.nextId).acceptM p
        (.mtov (s.mask 0) a.toNat k.toNat)).blockCharge a.toNat (s.mask 0)).done) ∧
  (∀ (s : State) (c : Bool) (t : BitVec 2) (k : BitVec 3) (a : BitVec 8) (p : Nat), MReady s t p [] → QueueFree s →
    s.old.blockOk a.toNat = true → s.old.flight = none → s.old.pendsV a.toNat 16 = false → (∀ x ∈ s.old.late, x.delivered = true) →
    exec (.mfromv c t k a) s =
      .next (((s.modMe (fun t => t.commitBuf (fun b => b.seq ≤ s.old.vseq))).acceptM p (.mfromv (s.mask 0) k.toNat
        ((slotsOf (s.mask 0)).flatMap (fun k => (List.range 16).map (fun i =>
          (32 * i + k, s.old.commitAll.vreg (a.toNat + i) k)))))).blockCharge a.toNat (s.mask 0)).done) ∧
  (∀ (s : State) (c : Bool) (t : BitVec 2) (a : BitVec 8) (add : BitVec 1) (h : BitVec 4) (p : Nat),
    MReady s t p [(a.toNat, 8)] → QueueFree s → OwnDone s → (s.me.setBound && !s.me.aset.holds.isEmpty) = false →
    s.me.handle h.toNat ≠ .pending → (s.core s.myCore).creq.length < 32 →
    (s.u (a.toNat + 7) = 0xFFFFFFFF ∨ s.barrierTrap (s.u (a.toNat + 7)).toNat = none) →
    exec (.mdrain c t a add h) s =
      .next (((s.newRequest (6 + add.toNat) h.toNat ((List.range 8).map (fun i => s.u (a.toNat + i))) none).acceptM p
        (.mdrain s.nextId)).raw 21 64).done) ∧
  (∀ (s : State) (c : Bool) (t : BitVec 2) (a : BitVec 8) (add : BitVec 1) (h : BitVec 4) (p : Nat) (x : TrapInfo),
    MReady s t p [(a.toNat, 8)] → (s.me.setBound && !s.me.aset.holds.isEmpty) = false →
    s.u (a.toNat + 7) ≠ 0xFFFFFFFF → s.barrierTrap (s.u (a.toNat + 7)).toNat = some x →
    exec (.mdrain c t a add h) s = .next (s.trap x)) ∧
  (∀ (s : State) (c : Bool) (t : BitVec 2) (a : BitVec 8) (p : Nat), s.old.info.tiles[t.toNat]? = some p → s.UReady [(a.toNat, 1)] →
    exec (.mrp c t a) s = .next ((s.raw 1 1).setU a.toNat ((s.quarter s.myQuarter).mrp p s.myWork)).done) ∧
  (∀ (s : State) (c : Bool) (t : BitVec 2) (f : BitVec 6) (a b : BitVec 8) (k : BitVec 3) (add : BitVec 1) (h : BitVec 4),
    s.old.info.tiles[t.toNat]? = none →
    (f.toNat ≤ 6 → exec (.mma c t f a b) s = .next (s.enc .illegalOperand)) ∧
    ∀ i ∈ [Instr.mzero c t, .mrp c t a, .mtov c t k a, .mfromv c t k a, .mdrain c t a add h],
      exec i s = .next (s.enc .illegalOperand)) ∧
  (∀ (s : State) (c : Bool) (t : BitVec 2) (a : BitVec 8) (k : BitVec 3), s.old.blockOk a.toNat = false →
    exec (.mtov c t k a) s = .next (s.enc .illegalOperand) ∧ exec (.mfromv c t k a) s = .next (s.enc .illegalOperand))

/-- R298. An entry of the core's engine is free. -/
def Sys2Proof.Claims.EngineFree (s : State) : Prop := (s.core s.myCore).creq.length < 32

/-- The form that a CPY word gives its request. -/
def Sys2Proof.Claims.cpyForm (c : Bool) (h : BitVec 4) (a : BitVec 8) : List (Instr × Nat) :=
  [(.cpyG2s c h a, 0), (.cpyS2g c h a, 1), (.cpyS2gAdd c h a, 2), (.cpyG2g c h a, 3), (.cpyS2s c h a, 4), (.cpyGate c h a, 5)]

/-- R304 to R306. What the registers w of a CPY form hold that is an illegal operand: a shape address that is not a multiple of
128; a scratchpad side with a high register that is not zero or an offset that is not a multiple of 4; a SPAN without SWZ;
SWZ on a form without a scratchpad destination. -/
def Sys2Proof.Claims.badCopy (form : Nat) (w : Nat → Nat) : Prop :=
  w 0 % 128 ≠ 0 ∨
  ((form = 1 ∨ form = 2 ∨ form = 4) ∧ (w 3 ≠ 0 ∨ w 2 % 4 ≠ 0)) ∨
  ((form = 0 ∨ form = 4) ∧ (w 5 ≠ 0 ∨ w 4 % 4 ≠ 0)) ∨
  (w 7 / 8 % 2 = 0 ∧ w 7 % 8 ≠ 0) ∨
  (w 7 / 8 % 2 = 1 ∧ form ≠ 0 ∧ form ≠ 4)

/-- A CPY word, and CKICK with a list, makes a request of the core's engine with its registers as they stand and its handle
Pending; the request's start is due. Fields that the rules call illegal trap with the cause they name, and while the handle
is Pending, or the engine's 32 entries are taken, the word waits. The checks of R306 are a table of their own here: an illegal
operand, else a byte barrier (28 bits of s(A+7), all ones for none) that does not lie whole in the window, else none. -/
def Obligations.CopyWords : Prop :=
  (∀ (s : State) (c : Bool) (h : BitVec 4) (a : BitVec 8) (i : Instr) (form : Nat), (i, form) ∈ cpyForm c h a →
    s.UReady [(a.toNat, 8)] →
    (∀ x, checkCopy form ((List.range 8).map (fun i => s.u (a.toNat + i))) s.me.winSize = some x →
      exec i s = .next ((s.raw 1 1).trap x)) ∧
    (checkCopy form ((List.range 8).map (fun i => s.u (a.toNat + i))) s.me.winSize = none →
      (s.me.setBound && !s.me.aset.holds.isEmpty) = false →
      (s.me.handle h.toNat = .pending → exec i s = .next ((s.raw 1 1).hold .handlePending)) ∧
      (s.me.handle h.toNat ≠ .pending → 32 ≤ (s.core s.myCore).creq.length →
        exec i s = .next ((s.raw 1 1).hold .copyEngine)) ∧
      (s.me.handle h.toNat ≠ .pending → (s.core s.myCore).creq.length < 32 → OwnDone s →
        exec i s = .next ((((s.raw 1 1).newRequest form h.toNat ((List.range 8).map (fun i => s.u (a.toNat + i))) none).due
          (.copyRequestStart s.myCore s.nextId)).done)))) ∧
  (∀ (s : State) (c : Bool) (h : BitVec 4) (a b : BitVec 8) (off n : Nat), s.UReady [(a.toNat, 1), (b.toNat, 1)] →
    off = (s.u a.toNat).toNat → n = (s.u b.toNat).toNat →
    (n < 1 ∨ 64 < n ∨ off % 32 ≠ 0 → exec (.ckick c h a b) s = .next ((s.raw 1 1).trap { cause := .illegalOperand })) ∧
    (1 ≤ n → n ≤ 64 → off % 32 = 0 → s.me.winSize < off + 32 * n →
      exec (.ckick c h a b) s = .next ((s.raw 1 1).trap { cause := .spadRange, va := some off })) ∧
    (1 ≤ n → n ≤ 64 → off % 32 = 0 → off + 32 * n ≤ s.me.winSize → (s.me.setBound && !s.me.aset.holds.isEmpty) = false →
      s.me.handle h.toNat ≠ .pending → (s.core s.myCore).creq.length < 32 → OwnDone s →
      exec (.ckick c h a b) s =
        .next ((((s.raw 1 1).newRequest 0 h.toNat [] (some (off, n, 0))).due (.copyRequestStart s.myCore s.nextId)).done))) ∧
  (∀ (s : State) (form h : Nat) (regs : List Word) (l : Option (Nat × Nat × Nat)),
    (s.newRequest form h regs l).me.handle h = .pending ∧
    (s.newRequest form h regs l).nextId = s.nextId + 1 ∧
    ((s.newRequest form h regs l).core s.myCore).creq.length = (s.core s.myCore).creq.length + 1) ∧
  (∀ (form winSize : Nat) (regs : List Word), form ≤ 5 →
    let w (i : Nat) : Nat := (regs.getD i 0).toNat
    let bar := w 7 / 16
    (badCopy form w → checkCopy form regs winSize = some { cause := .illegalOperand }) ∧
    (¬ badCopy form w → bar ≠ 0xFFFFFFF → winSize < bar * 16 + 16 →
      checkCopy form regs winSize = some { cause := .spadRange, va := some (bar * 16) }) ∧
    (¬ badCopy form w → (bar = 0xFFFFFFF ∨ bar * 16 + 16 ≤ winSize) → checkCopy form regs winSize = none))

/-- The requests of a strand's handle that HCANCEL names, on whichever core each runs (R318, R319). -/
def Sys2Proof.Claims.cancels (s : State) (h : BitVec 4) (r : CopyReq) : Bool :=
  r.own == s.myWork && r.exported.isNone && r.handle == h.toNat && r.failed.isNone

/-- R319. The export entries that a strand may import by a token: those of its cohort, or its own as a task. -/
def Sys2Proof.Claims.Imports (s : State) (tok : Word) (e : ExportEntry) : Prop :=
  e.token = tok ∧ e.work = s.me.info.work ∧ ∀ id, s.me.info.work = .task id → e.exporter = s.iss.g

/-- HTEST reads the status of a handle. HWAIT is a switch point that waits for a Pending handle, and otherwise reads the
status and empties the handle. HCANCEL marks the request of a handle that was Pending before the group. HMOVE gives a handle to another name and empties it, and
does nothing when both are one. HEXPORT puts the handle into the core's export table under a new token, and waits while the
table is full; HIMPORT takes it out again, and gives status 7 for a token that is not the strand's to import. Each needs a
free entry of the engine to issue. -/
def Obligations.HandleWords : Prop :=
  (∀ (s : State) (c : Bool) (d : BitVec 8) (h k : BitVec 4), s.UReady [(d.toNat, 1)] → ¬EngineFree s →
    ∀ i ∈ [Instr.htest c d h, .hwait c d h, .hcancel c h, .hmove c k h, .hexport c d h, .himport c h d],
      exec i s = .next ((s.raw 1 1).hold .copyEngine)) ∧
  (∀ (s : State) (c : Bool) (d : BitVec 8) (h : BitVec 4), s.UReady [(d.toNat, 1)] → EngineFree s →
    exec (.htest c d h) s = .next ((s.raw 1 1).setU d.toNat (handleStatus (s.old.handle h.toNat))).done) ∧
  (∀ (s : State) (c : Bool) (d : BitVec 8) (h : BitVec 4), s.UReady [(d.toNat, 1)] → EngineFree s →
    (s.me.setBound && !s.me.aset.holds.isEmpty) = false →
    (s.old.handle h.toNat = .pending → exec (.hwait c d h) s =
      .next ((((s.raw 1 1).modMe Strand.switchPoint).enterWait s.iss.g (.handle h.toNat d.toNat)).done)) ∧
    (s.old.handle h.toNat ≠ .pending → exec (.hwait c d h) s =
      .next (((((s.raw 1 1).modMe Strand.switchPoint).setU d.toNat (handleStatus (s.old.handle h.toNat))).modMe
        (fun t => t.setHandle h.toNat .empty)).done))) ∧
  (handleStatus .empty = 8 ∧ handleStatus .pending = 15 ∧ ∀ w, handleStatus (.done w) = w) ∧
  (∀ (s : State) (c : Bool) (h : BitVec 4), EngineFree s → s.old.handle h.toNat ≠ .pending →
    exec (.hcancel c h) s = .next (s.raw 1 1).done) ∧
  (∀ (s : State) (c : Bool) (h : BitVec 4), EngineFree s → s.old.handle h.toNat = .pending →
    exec (.hcancel c h) s =
      .next (((s.cores.flatMap (fun x => (x.2.creq.filter (cancels s h)).map (fun r => (x.1, r.id)))).foldl
        (fun (s' : State) i => s'.dueOnce (.copyCancelEffect i.1 i.2))
        { s.raw 1 1 with cores := s.cores.map (fun x => (x.1, { x.2 with
            creq := updWhere (cancels s h) (fun r => { r with cancel := true }) x.2.creq })) }).done)) ∧
  (∀ (s : State) (c : Bool) (h : BitVec 4), EngineFree s → exec (.hmove c h h) s = .next (s.raw 1 1).done) ∧
  (∀ (s : State) (c : Bool) (d h : BitVec 4), EngineFree s → d ≠ h → s.me.handle d.toNat = .pending →
    exec (.hmove c d h) s = .next ((s.raw 1 1).hold .handlePending)) ∧
  (∀ (s : State) (c : Bool) (d h : BitVec 4), EngineFree s → d ≠ h → s.me.handle d.toNat ≠ .pending → s.old.handle h.toNat ≠ .pending →
    exec (.hmove c d h) s =
      .next (((s.raw 1 1).modMe (fun t => (t.setHandle d.toNat (s.old.handle h.toNat)).setHandle h.toNat .empty)).done)) ∧
  (∀ (s : State) (c : Bool) (d h : BitVec 4), EngineFree s → d ≠ h → s.me.handle d.toNat ≠ .pending → s.old.handle h.toNat = .pending →
    exec (.hmove c d h) s =
      .next ((((s.raw 1 1).renameHandle s.myWork h.toNat none s.iss.g d.toNat none).modMe
        (fun t => (t.setHandle d.toNat .pending).setHandle h.toNat .empty)).done)) ∧
  (∀ (s : State) (c : Bool) (d : BitVec 8) (h : BitVec 4), s.UReady [(d.toNat, 1)] → EngineFree s →
    (256 ≤ (s.core s.myCore).exports.length → exec (.hexport c d h) s = .next ((s.raw 1 1).hold .exportFull)) ∧
    ((s.core s.myCore).exports.length < 256 →
      ∀ serial tok named, serial = (s.core s.myCore).serial % (2 ^ 24 - 1) + 1 →
        tok = BitVec.ofNat 32 (s.me.info.strandId % 256 * 2 ^ 24 + serial) →
        named = (if s.old.handle h.toNat = .pending then
          (s.raw 1 1).renameHandle s.myWork h.toNat none s.iss.g h.toNat (some tok) else s.raw 1 1) →
        exec (.hexport c d h) s =
          .next (((((named.modCore s.myCore (fun x => { x with serial := serial, exports := x.exports ++
            [{ token := tok, work := s.me.info.work, exporter := s.iss.g, handle := s.old.handle h.toNat }] })).setU d.toNat tok).modMe
              (fun t => t.setHandle h.toNat .empty)).done)))) ∧
  (∀ (s : State) (tok : Word), s.exportFor s.iss.g tok = none ↔ ∀ x ∈ s.cores, ∀ e ∈ x.2.exports, ¬Imports s tok e) ∧
  (∀ (s : State) (tok : Word) (k : Nat) (e : ExportEntry), s.exportFor s.iss.g tok = some (k, e) →
    Imports s tok e ∧ ∃ x ∈ s.cores, x.1 = k ∧ e ∈ x.2.exports) ∧
  (∀ (s : State) (c : Bool) (d : BitVec 4) (a : BitVec 8), s.UReady [(a.toNat, 1)] → EngineFree s →
    (s.me.handle d.toNat = .pending → exec (.himport c d a) s = .next ((s.raw 1 1).hold .handlePending)) ∧
    (s.me.handle d.toNat ≠ .pending →
      (s.exportFor s.iss.g (s.u a.toNat) = none →
        exec (.himport c d a) s = .next (((s.raw 1 1).modMe (fun t => t.setHandle d.toNat (.done 7))).done)) ∧
      (∀ k e named, s.exportFor s.iss.g (s.u a.toNat) = some (k, e) →
        named = (if e.handle = .pending then
          (s.raw 1 1).renameHandle (s.workOf e.exporter) 0 (some (s.u a.toNat)) s.iss.g d.toNat none else s.raw 1 1) →
        exec (.himport c d a) s =
          .next ((named.modCore k (fun x => { x with exports := x.exports.filter (fun y => y != e) })).modMe
            (fun t => t.setHandle d.toNat e.handle)).done)))

/-- R186, R313. A BB word may make its step on the barrier at window offset `o`, which is at offset `p` of a core: no
message of the strand to another core is out, no earlier V word of the strand is still at the banks, and no acquire stands. -/
def Sys2Proof.Claims.BbHere (s : State) (o p : Nat) : Prop :=
  s.barrierTrap o = none ∧ (s.core s.myCore).creq.length < 32 ∧ s.me.winPlace o = (coreOf s.iss.g, p) ∧ s.me.usent = none ∧
  s.awaitsAcquire = false ∧ s.bankWaits (coreOf s.iss.g) = false

/-- R171, R313. The barrier at window offset `o` is on another core, and the reply to the word's message has come. -/
def Sys2Proof.Claims.BbReplied (s : State) (o : Nat) (b : List Byte) : Prop :=
  s.barrierTrap o = none ∧ (s.core s.myCore).creq.length < 32 ∧ (s.me.winPlace o).1 ≠ coreOf s.iss.g ∧
  s.me.usent.isSome = true ∧ s.me.ureply = some b

/-- The step of a BB word is made: the state after it and the bytes that it returns. -/
def Sys2Proof.Claims.BbStep (s q : State) (o : Nat) (op : SpOp) (r : State × List Byte) : Prop :=
  (∃ p, BbHere s o p ∧ q.spPerform (coreOf s.iss.g) p op = some r) ∨
  (∃ b, BbReplied s o b ∧ r = (q.modMe (fun t => { t with usent := none, ureply := none }), b))

/-- R238, R314. The scope at which a wait of the strand acquires at the barrier at window offset `o`. -/
def Sys2Proof.Claims.flipAt (s : State) (o : Nat) : Nat := s.flipScope (s.me.winPlace o).1 (s.me.winPlace o).2

/-- What a barrier's phase, its counts and its test word become (R313). BBINIT sets the expectation, BBEXPECT and BBARRIVE
add to a count, saturating at 2^32 - 1 with OVF set; a barrier whose counts meet flips its phase. BBTEST gives the phase in
bit 0 and the bytes still expected above it, and acquires. BBWAIT is a switch point that passes when the phase stands as it
awaits, and waits otherwise. BBEXPECT and BBARRIVE wait as a release. -/
def Obligations.ByteBarrierWords : Prop :=
  (∀ (b : ByteBar) (v : Word), b.step 0 v = { expect := v.toNat, arrived := 0, reload := v.toNat, phase := false, ovf := false }) ∧
  (∀ (b : ByteBar) (v : Word), b.expect + v.toNat < 2 ^ 32 → b.step 1 v = ({ b with expect := b.expect + v.toNat } : ByteBar).settle) ∧
  (∀ (b : ByteBar) (v : Word), 2 ^ 32 ≤ b.expect + v.toNat →
    b.step 1 v = ({ b with expect := 2 ^ 32 - 1, ovf := true } : ByteBar).settle) ∧
  (∀ (b : ByteBar) (v : Word), b.arrived + v.toNat < 2 ^ 32 → b.step 2 v = ({ b with arrived := b.arrived + v.toNat } : ByteBar).settle) ∧
  (∀ (b : ByteBar) (v : Word), 2 ^ 32 ≤ b.arrived + v.toNat →
    b.step 2 v = ({ b with arrived := 2 ^ 32 - 1, ovf := true } : ByteBar).settle) ∧
  (∀ (b : ByteBar), b.expect = 0 ∨ b.arrived < b.expect → b.settle = b) ∧
  (∀ (b : ByteBar), b.expect ≠ 0 → b.expect ≤ b.arrived →
    b.settle = ({ b with arrived := b.arrived - b.expect, expect := b.reload, phase := !b.phase } : ByteBar).settle) ∧
  (∀ (b : ByteBar), b.test = BitVec.ofNat 32 ((if b.phase then 1 else 0) + 2 * min (b.expect - b.arrived) 0x7FFFFFFF)) ∧
  (∀ (c : CoreSt) (o fn : Nat) (v : Word), fn < 4 → c.spStep o (.bb fn v) = some (c.setByteBar o ((c.byteBar o).step fn v), [])) ∧
  (∀ (c : CoreSt) (o : Nat), c.spStep o (.bb 4 0) = some (c, bytesOfWord (c.byteBar o).test)) ∧
  (∀ (s : State) (c : Bool) (d a : BitVec 8) (x : TrapInfo), s.UReady [(d.toNat, 1), (a.toNat, 1)] →
    s.barrierTrap (s.u d.toNat).toNat = some x →
    exec (.bbinit c d a) s = .next ((s.raw 1 1).trap x) ∧ exec (.bbexpect c d a) s = .next ((s.raw 1 1).trap x) ∧
    exec (.bbarrive c d a) s = .next ((s.raw 1 1).trap x) ∧ exec (.bbwait c d a) s = .next ((s.raw 1 1).trap x) ∧
    exec (.bbtest c a d) s = .next ((s.raw 1 1).trap x)) ∧
  (∀ (s : State) (core p : Nat) (op : SpOp), (∃ fn v, op = .bb fn v) → ∃ r, s.spPerform core p op = some r) ∧
  (∀ (s : State) (c : Bool) (d a : BitVec 8) (r : State × List Byte) (o : Nat), s.UReady [(d.toNat, 1), (a.toNat, 1)] →
    o = (s.u d.toNat).toNat → BbStep s ((s.raw 1 1).raw 8 4) o (.bb 0 (s.u a.toNat)) r →
    exec (.bbinit c d a) s = .next r.1.done) ∧
  (∀ (s q : State) (c : Bool) (d a : BitVec 8) (r : State × List Byte) (o : Nat), s.UReady [(d.toNat, 1), (a.toNat, 1)] →
    o = (s.u d.toNat).toNat → s.barrierTrap o = none → EngineFree s →
    Released (s.raw 1 1) q ((s.raw 1 1).barrierScope o) →
    (BbStep q (q.raw 8 4) o (.bb 1 (q.u a.toNat)) r → exec (.bbexpect c d a) s = .next r.1.done) ∧
    (BbStep q (q.raw 8 4) o (.bb 2 (q.u a.toNat)) r → exec (.bbarrive c d a) s = .next r.1.done)) ∧
  (∀ (s q : State) (c : Bool) (d a : BitVec 8) (o : Nat), s.UReady [(d.toNat, 1), (a.toNat, 1)] →
    o = (s.u d.toNat).toNat → s.barrierTrap o = none → EngineFree s →
    Releasing (s.raw 1 1) q ((s.raw 1 1).barrierScope o) →
    exec (.bbexpect c d a) s = .next (q.hold (releaseHold q s.iss.g)) ∧ exec (.bbarrive c d a) s = .next (q.hold (releaseHold q s.iss.g))) ∧
  (∀ (s : State) (c : Bool) (d a : BitVec 8) (r : State × List Byte) (o : Nat), s.UReady [(d.toNat, 1), (a.toNat, 1)] →
    o = (s.u d.toNat).toNat → BbStep s (s.raw 1 1) o (.bb 4 0) r →
    exec (.bbtest c a d) s = .next (((r.1.setU a.toNat (wordOfBytes r.2)).acquireNow r.1.iss.g (flipAt r.1 o)).done) ∧
    ((s.me.setBound && !s.me.aset.holds.isEmpty) = false →
      ((wordOfBytes r.2).getLsbD 0 = (r.1.u a.toNat).getLsbD 0 →
        exec (.bbwait c d a) s = .next ((r.1.modMe Strand.switchPoint).acquireNow r.1.iss.g (flipAt r.1 o)).done) ∧
      ((wordOfBytes r.2).getLsbD 0 ≠ (r.1.u a.toNat).getLsbD 0 →
        exec (.bbwait c d a) s =
          .next ((r.1.modMe Strand.switchPoint).enterWait r.1.iss.g
            (.byteBarrier (r.1.me.winPlace o).1 (r.1.me.winPlace o).2 ((r.1.u a.toNat).getLsbD 0))).done)))

/-! ### Barriers, tasks, atomic sets, energy and the end of a strand -/

/-- R329. The instance that a strand's SYNC word names, for a strand that may use one. -/
def Sys2Proof.Claims.BarNamed (s : State) (sc : BitVec 3) (n : BitVec 5) (i : Nat) (b : BarInst) : Prop :=
  1 ≤ sc.toNat ∧ sc.toNat ≤ 5 ∧ s.me.setBound = false ∧ s.barInst s.iss.g sc.toNat n.toNat = some i ∧ s.bars.find? i = some b

/-- R112. No earlier V word of the strand may still raise a flag. -/
def Sys2Proof.Claims.FlagsDone (s : State) : Prop := s.old.flight = none ∧ s.old.flagsSettled = true

/-- What one step does to an instance: an arrival counts, and the generation advances when every registered strand has
arrived; pending joins and drops take effect then, and every strand that stays may arrive again. A strand arrives once in a
generation. A drop arrives too, where the strand has not, and unregisters from the next generation. A first join registers
at once, and a later one from the next generation; a strand that is registered already is not joined again. -/
def Sys2Proof.Claims.barrierSteps : Prop :=
  (∀ (b : BarInst), 0 < b.reg → b.arr = b.reg →
    b.settle.gen = b.gen + 1 ∧ b.settle.arr = 0 ∧ b.settle.reg = b.reg - b.drop + b.join ∧ b.settle.drop = 0 ∧ b.settle.join = 0 ∧
    (∀ g, b.settle.mayArrive g = b.registered g) ∧ (∀ g, b.settle.registered g = b.registered g)) ∧
  (∀ (b : BarInst), b.arr ≠ b.reg → b.settle = b) ∧
  (∀ (b : BarInst) (g : Nat), b.arr + 1 ≠ b.reg →
    (b.arrive g).arr = b.arr + 1 ∧ (b.arrive g).gen = b.gen ∧ (b.arrive g).reg = b.reg ∧ (b.arrive g).mayArrive g = false) ∧
  (∀ (b : BarInst) (g : Nat), b.arr + 1 = b.reg →
    (b.arrive g).arr = 0 ∧ (b.arrive g).gen = b.gen + 1 ∧ (b.arrive g).reg = b.reg - b.drop + b.join ∧
    (b.arrive g).mayArrive g = b.registered g) ∧
  (∀ (b : BarInst) (g : Nat), b.member g = none → b.reg = 0 →
    (b.doJoin g).2 = b.gen ∧ (b.doJoin g).1.reg = 1 ∧ (b.doJoin g).1.registered g = true ∧ (b.doJoin g).1.mayArrive g = true) ∧
  (∀ (b : BarInst) (g : Nat), b.member g = none → b.reg ≠ 0 →
    (b.doJoin g).2 = b.gen + 1 ∧ (b.doJoin g).1.reg = b.reg ∧ (b.doJoin g).1.join = b.join + 1 ∧
    (b.doJoin g).1.registered g = true ∧ (b.doJoin g).1.mayArrive g = false) ∧
  (∀ (b : BarInst) (g : Nat) (m : BarMember), b.member g = some m → m.dropped = false →
    (b.doJoin g).1 = b ∧ (b.doJoin g).2 = if m.pending || m.arrived then b.gen + 1 else b.gen) ∧
  (∀ (b : BarInst) (g : Nat) (m : BarMember), b.member g = some m → m.dropped = false → m.pending = false → m.arrived = false →
    (b.arr + 1 ≠ b.reg → (b.doDrop g).arr = b.arr + 1 ∧ (b.doDrop g).drop = b.drop + 1 ∧ (b.doDrop g).gen = b.gen ∧
      (b.doDrop g).reg = b.reg) ∧
    (b.arr + 1 = b.reg → (b.doDrop g).arr = 0 ∧ (b.doDrop g).gen = b.gen + 1 ∧ (b.doDrop g).reg = b.reg - (b.drop + 1) + b.join)) ∧
  (∀ (b : BarInst) (g : Nat) (m : BarMember), b.member g = some m → m.dropped = false → m.pending = false → m.arrived = true →
    b.arr ≠ b.reg → (b.doDrop g).arr = b.arr ∧ (b.doDrop g).drop = b.drop + 1 ∧ (b.doDrop g).reg = b.reg) ∧
  (∀ (x y : Word), passed x y = true ↔ 0 < (x - y).toInt)

/-- BAR and BARA arrive, BARD drops and BARJ joins, by one message to the instance; BAR then waits for the generation to
pass, BARW waits only, and BARA and BARJ write the generation. A word of a strand that is not registered, or an instance
that does not exist, traps, as every SYNC word of a task bound by atomic sets does; before it arrives a word waits for the
flags and the release of its scope, and it waits for the next generation where the strand has arrived in this one. A
pending armed flag traps BAR, BARA, BARW and BARD. -/
def Sys2Proof.Claims.barrierWords : Prop :=
  (∀ (s q : State) (c : Bool) (sc : BitVec 3) (n : BitVec 5) (a : BitVec 8) (i : Nat) (b : BarInst),
    BarNamed s sc n i b → b.member s.iss.g ≠ none → FlagsDone s → s.old.satPending = false →
    (Released (s.raw 1 1) q sc.toNat →
      (b.mayArrive s.iss.g = true →
        exec (.bar c sc n) s = .next (((q.barMessage sc.toNat).barStep i s.iss.g .arrive).waitBarrier i sc.toNat b.gen) ∧
        (s.UReady [(a.toNat, 1)] →
          exec (.bara c sc n a) s = .next (((q.barMessage sc.toNat).barStep i s.iss.g .arrive).setU a.toNat b.gen).done) ∧
        exec (.bard c sc n) s = .next ((q.barMessage sc.toNat).barStep i s.iss.g .drop).done) ∧
      (b.mayArrive s.iss.g = false →
        exec (.bar c sc n) s = .next (q.hold .barrier) ∧ exec (.bard c sc n) s = .next (q.hold .barrier) ∧
        (s.UReady [(a.toNat, 1)] → exec (.bara c sc n a) s = .next (q.hold .barrier)))) ∧
    (Releasing (s.raw 1 1) q sc.toNat →
      exec (.bar c sc n) s = .next (q.hold (releaseHold q s.iss.g)) ∧ exec (.bard c sc n) s = .next (q.hold (releaseHold q s.iss.g)) ∧
      (s.UReady [(a.toNat, 1)] → exec (.bara c sc n a) s = .next (q.hold (releaseHold q s.iss.g))))) ∧
  (∀ (s : State) (c : Bool) (sc : BitVec 3) (n : BitVec 5) (a : BitVec 8) (i : Nat) (b : BarInst),
    BarNamed s sc n i b → s.UReady [(a.toNat, 1)] → FlagsDone s → s.old.satPending = true →
    exec (.barw c sc n a) s = .next ((s.raw 1 1).trap { cause := .satPending }) ∧
    (b.member s.iss.g ≠ none →
      exec (.bar c sc n) s = .next ((s.raw 1 1).trap { cause := .satPending }) ∧
      exec (.bara c sc n a) s = .next ((s.raw 1 1).trap { cause := .satPending }) ∧
      exec (.bard c sc n) s = .next ((s.raw 1 1).trap { cause := .satPending }))) ∧
  (∀ (s : State) (c : Bool) (sc : BitVec 3) (n : BitVec 5) (a : BitVec 8) (i : Nat) (b : BarInst),
    BarNamed s sc n i b → s.UReady [(a.toNat, 1)] →
    (FlagsDone s → s.old.satPending = false →
      exec (.barw c sc n a) s = .next ((s.raw 1 1).waitBarrier i sc.toNat (s.u a.toNat))) ∧
    (b.registered s.iss.g = true →
      exec (.barj c sc n a) s = .next (((s.raw 1 1).barStep i s.iss.g .join).setU a.toNat (b.doJoin s.iss.g).2).done) ∧
    (b.registered s.iss.g = false →
      exec (.barj c sc n a) s =
        .next (((((s.raw 1 1).barMessage sc.toNat).barStep i s.iss.g .join).setU a.toNat (b.doJoin s.iss.g).2).done)) ∧
    (b.member s.iss.g = none →
      exec (.bar c sc n) s = .next ((s.raw 1 1).trap { cause := .illegalOperand }) ∧
      exec (.bara c sc n a) s = .next ((s.raw 1 1).trap { cause := .illegalOperand }) ∧
      exec (.bard c sc n) s = .next ((s.raw 1 1).trap { cause := .illegalOperand }))) ∧
  (∀ (s : State) (c : Bool) (sc : BitVec 3) (n : BitVec 5) (a : BitVec 8), 1 ≤ sc.toNat → sc.toNat ≤ 5 → s.UReady [(a.toNat, 1)] →
    ∀ i ∈ [Instr.bar c sc n, .bara c sc n a, .barw c sc n a, .bard c sc n, .barj c sc n a],
      (s.me.setBound = true → exec i s = .next ((s.raw 1 1).trap { cause := .setViolation, detail := 7 })) ∧
      (s.me.setBound = false → s.barInst s.iss.g sc.toNat n.toNat = none →
        exec i s = .next ((s.raw 1 1).trap { cause := .illegalOperand }))) ∧
  (∀ (s : State) (c : Bool) (sc : BitVec 3) (n : BitVec 5) (a : BitVec 8), sc = 0 ∨ sc = 6 ∨ sc = 7 →
    ∀ i ∈ [Instr.bar c sc n, .bara c sc n a, .barw c sc n a, .bard c sc n, .barj c sc n a], exec i s = .next (s.enc .illegalOperand)) ∧
  (∀ (s : State) (i sc : Nat) (gen : Word) (b : BarInst), s.bars.find? i = some b →
    (passed b.gen gen = true → s.waitBarrier i sc gen = ((s.modMe Strand.switchPoint).acquireNow s.iss.g sc).done) ∧
    (passed b.gen gen = false → s.waitBarrier i sc gen = ((s.modMe Strand.switchPoint).enterWait s.iss.g (.barrier i gen)).done)) ∧
  (∀ (s : State) (i g : Nat) (b : BarInst), s.bars.find? i = some b → g < 4194304 →
    (b.mayArrive g = true → s.barStep i g .arrive = s.putBar i b (b.arrive g)) ∧
    s.barStep i g .drop = s.putBar i b (b.doDrop g) ∧ s.barStep i g .join = s.putBar i b (b.doJoin g).1)

/-- R325 to R330. The barrier words, and the step of an instance that each of them asks for. -/
def Obligations.BarrierWordsAndSteps : Prop :=
  Sys2Proof.Claims.barrierSteps ∧ Sys2Proof.Claims.barrierWords

/-- R333. The registers that a TASK word's home has sent. -/
def Sys2Proof.Claims.replyIn (s : State) : State :=
  s.me.replyRegs.foldl (fun (s : State) x => s.setU x.1 x.2)
    ((s.raw 1 1).modMe (fun t => { t with replied := false, replyRegs := [] }))

/-- R199, R222, R333. A TASK word of `n` bytes finds its place in state `t`: the address is canonical, aligned and
translated, in device memory unless `any`, no acquire of the strand is under way, no earlier store of the strand to its bytes
waits, and its line's stores land. -/
def Sys2Proof.Claims.TaskPlace (s t : State) (va n : Nat) (k : Access) (any : Bool) (p : PAddr) : Prop :=
  canonical va = true ∧ va % n = 0 ∧ (any = true ∨ p.host = false) ∧
  ∃ u, (s.raw 1 1).translateFor (.group s.iss.g) (s.workOf s.iss.g) s.myCore va k = (u, .ok p) ∧
    u.awaitsAcquire = false ∧ u.storeBefore s.iss.g va n = false ∧ u.rodTouches s.iss.g va n = false ∧ t = u.landLine s.myCore p.line u.nextId

/-- R333. Neither a reply nor a word of the strand at its home. -/
def Sys2Proof.Claims.NoHome (s : State) : Prop := s.me.replied = false ∧ s.me.homeOp = none

/-- R336. The queue header at a place in state `t`, with entries of `n` bytes, that a queue word may use: `d` is its data
register and `x` the number of its status registers. -/
def Sys2Proof.Claims.QueueAt (t : State) (va : Nat) (p : PAddr) (d : BitVec 8) (x n : Nat) : Prop :=
  n = (t.qhead p.addr).n ∧ (t.qhead p.addr).ok p.addr (t.pageEnd va p) = true ∧ d.toNat % (n / 4) = 0 ∧
  t.uOk d.toNat (n / 4 + x) = true ∧ t.old.pendsU d.toNat (n / 4 + x) = false

/-- A TASK word goes to its home and holds its group until the reply, then completes with the registers that the home has
sent; a blocking queue word whose home keeps it among its waiters completes as a switch point and waits. SPAWN, QPUSH,
QTRYPUSH and TLSIG go as releases. A task bound by atomic sets that spawns or pushes defers the entry to its end, and may
not use a queue's trying words, a pop, a timeline signal or COLL. TLWAIT is a switch point that passes when the timeline
stands at the threshold. COLL makes its handle Pending. An address that is not canonical or not aligned traps. -/
def Sys2Proof.Claims.taskWords : Prop :=
  (∀ (s : State) (c : Bool) (d a : BitVec 8), s.me.replied = true →
    (s.UReady [(d.toNat, 1), (a.toNat, 2)] → exec (.spawn c d a) s = .next (replyIn s).done) ∧
    (s.UReady [(d.toNat, 2), (a.toNat, 2)] →
      exec (.tlread c d a) s = .next (replyIn s).done ∧
      (s.me.setBound = false → exec (.tlsig c d a) s = .next (replyIn s).done)) ∧
    (s.UReady [(a.toNat, 2)] → s.me.setBound = false →
      exec (.qtrypush c d a) s = .next (replyIn s).done ∧
      exec (.qtrypop c d a) s = .next (replyIn s).done ∧
      ∀ x, x = (replyIn s).modMe Strand.switchPoint →
        (x.me.homeOp = none →
          exec (.qpush c d a) s = .next x.done ∧ exec (.qpop c d a) s = .next x.done) ∧
        (∀ hdr r n l b, x.me.homeOp = some (.qpush hdr r n l b) →
          exec (.qpush c d a) s = .next (x.enterWait x.iss.g (.queue hdr false)).done) ∧
        (∀ hdr r n b, x.me.homeOp = some (.qpop hdr r n b) →
          exec (.qpop c d a) s = .next (x.enterWait x.iss.g (.queue hdr true)).done))) ∧
  (∀ (s t q : State) (c : Bool) (d a : BitVec 8) (p : PAddr), NoHome s →
    (s.UReady [(d.toNat, 1), (a.toNat, 2)] → TaskPlace s t (s.u2 a.toNat).toNat 64 .load true p → t.me.setBound = false →
      Released t q 4 →
      exec (.spawn c d a) s =
        .next ((q.chargeLine (q.workOf t.iss.g) (dieOf t.iss.g) p false false).sendHome (.spawn d.toNat (t.engineBytes t.iss.g p 64)))) ∧
    (s.UReady [(d.toNat, 2), (a.toNat, 2)] →
      (TaskPlace s t (s.u2 a.toNat).toNat 8 .load false p → exec (.tlread c d a) s = .next (t.sendHome (.tlread p.addr d.toNat))) ∧
      (TaskPlace s t (s.u2 a.toNat).toNat 8 .atomic false p → s.me.setBound = false → Released t q 5 →
        exec (.tlsig c d a) s = .next (q.sendHome (.tlsig p.addr (q.u2 d.toNat)))))) ∧
  (∀ (s t : State) (c : Bool) (d a : BitVec 8) (p : PAddr) (r : State) (dep : Nat) (rec_ : List Byte), NoHome s →
    s.UReady [(d.toNat, 1), (a.toNat, 2)] → TaskPlace s t (s.u2 a.toNat).toNat 64 .load true p → t.me.setBound = true →
    r = t.chargeLine (t.workOf t.iss.g) (dieOf t.iss.g) p false false → dep = t.me.info.depth + 1 → rec_ = t.engineBytes t.iss.g p 64 →
    (taskValid rec_ = false → exec (.spawn c d a) s = .next (r.setU d.toNat 3).done) ∧
    (taskValid rec_ = true → 8 < dep → exec (.spawn c d a) s = .next (r.setU d.toNat 1).done) ∧
    (taskValid rec_ = true → dep ≤ 8 → r.holdRoom t.iss.g = none → exec (.spawn c d a) s =
      .next (((r.makeLineRoom t.iss.g).modMe (fun x => { x with aset := { x.aset with
        deferred := x.aset.deferred ++ [.spawn (withDepth rec_ dep)] } })).setU d.toNat 0).done)) ∧
  (∀ (s t : State) (c : Bool) (d a : BitVec 8) (p : PAddr) (n : Nat), NoHome s → s.UReady [(a.toNat, 2)] →
    TaskPlace s t (s.u2 a.toNat).toNat 64 .atomic false p →
    (s.me.setBound = false →
      (QueueAt t (s.u2 a.toNat).toNat p d 0 n → exec (.qpop c d a) s = .next (t.sendHome (.qpop p.addr d.toNat n false))) ∧
      (QueueAt t (s.u2 a.toNat).toNat p d 1 n → exec (.qtrypop c d a) s = .next (t.sendHome (.qpop p.addr d.toNat n true))) ∧
      (∀ q, t.me.setBound = false → Released t q 4 →
        (QueueAt t (s.u2 a.toNat).toNat p d 1 n → exec (.qtrypush c d a) s =
          .next (q.sendHome (.qpush p.addr d.toNat n ((List.range (n / 4)).map (fun i => t.u (d.toNat + i))) true))) ∧
        (QueueAt t (s.u2 a.toNat).toNat p d 0 n → exec (.qpush c d a) s =
          .next (q.sendHome (.qpush p.addr d.toNat n ((List.range (n / 4)).map (fun i => t.u (d.toNat + i))) false))))) ∧
    (t.me.setBound = true → QueueAt t (s.u2 a.toNat).toNat p d 0 n → t.holdRoom t.iss.g = none → exec (.qpush c d a) s =
      .next (((t.makeLineRoom t.iss.g).modMe Strand.switchPoint).modMe (fun x => { x with aset := { x.aset with
        deferred := x.aset.deferred ++ [.qpush p.addr ((List.range (n / 4)).map (fun i => t.u (d.toNat + i)))] } })).done)) ∧
  (∀ (s t : State) (c : Bool) (d a : BitVec 8) (p : PAddr) (r : State), s.UReady [(d.toNat, 2), (a.toNat, 2)] →
    (s.me.setBound && !s.me.aset.holds.isEmpty) = false → TaskPlace s t (s.u2 a.toNat).toNat 8 .load false p →
    r = (t.chargeLine (t.workOf t.iss.g) (dieOf t.iss.g) p false false).modMe Strand.switchPoint →
    (r.reached p.addr (r.u2 d.toNat) = true → exec (.tlwait c d a) s = .next (r.acquireNow t.iss.g 5).done) ∧
    (r.reached p.addr (r.u2 d.toNat) = false →
      exec (.tlwait c d a) s = .next (r.enterWait t.iss.g (.timeline p.addr (r.u2 d.toNat))).done)) ∧
  (∀ (s : State) (c : Bool) (d a : BitVec 8) (va : Nat), NoHome s → va = (s.u2 a.toNat).toNat → s.UReady [(d.toNat, 2), (a.toNat, 2)] →
    (canonical va = false →
      exec (.tlread c d a) s = .next ((s.raw 1 1).trap { cause := .loadFault, reason := 1, kind := 1, va := some va, size := 8 }) ∧
      (s.me.setBound = false →
        exec (.tlsig c d a) s = .next ((s.raw 1 1).trap { cause := .loadFault, reason := 1, kind := 2, va := some va, size := 8 }))) ∧
    (canonical va = true → va % 8 ≠ 0 →
      exec (.tlread c d a) s = .next ((s.raw 1 1).trap { cause := .align, kind := 1, va := some va, size := 8 }) ∧
      (s.me.setBound = false →
        exec (.tlsig c d a) s = .next ((s.raw 1 1).trap { cause := .align, kind := 2, va := some va, size := 8 })))) ∧
  (∀ (s : State) (c : Bool) (h : BitVec 4) (d a : BitVec 8), s.me.setBound = true → s.UReady [(a.toNat, 2)] →
    (∀ i ∈ [Instr.coll c h a, .qpop c d a, .qtrypop c d a, .qtrypush c d a],
      exec i s = .next ((s.raw 1 1).trap { cause := .setViolation, detail := 7 })) ∧
    (s.UReady [(d.toNat, 2), (a.toNat, 2)] →
      exec (.tlsig c d a) s = .next ((s.raw 1 1).trap { cause := .setViolation, detail := 7 }))) ∧
  (∀ (s : State) (c : Bool) (h : BitVec 4) (a : BitVec 8), s.me.setBound = false → s.UReady [(a.toNat, 2)] →
    (s.me.handle h.toNat = .pending → exec (.coll c h a) s = .next ((s.raw 1 1).hold .handlePending)) ∧
    (s.me.handle h.toNat ≠ .pending → OwnDone s →
      ∀ t r, (s.raw 1 1).collRead s.myWork (s.u2 a.toNat).toNat = (t, r) →
        (∀ w, r = .error w → exec (.coll c h a) s = .next (t.hold w)) ∧
        (∀ b, r = .ok b → exec (.coll c h a) s = .next (t.collPost h b).done))) ∧
  (∀ (s : State) (h : BitVec 4) (b : Option (List Byte)), (s.collPost h b).me.handle h.toNat = .pending)

/-- What the home of a TASK word does. A timeline takes the greater value and is read whole; a queue without a free or a
filled entry answers a trying word with 1 and keeps a blocking one among its waiters; a spawn is refused with 3 for an
invalid record, 1 beyond depth 8 and 2 when the task queue is full, and else answered with 0. -/
def Sys2Proof.Claims.taskHomes : Prop :=
  (∀ (s : State) (g pa : Nat) (v : DWord) (old : DWord), (s.strand g).homeOp = some (.tlsig pa v) → old = BitVec.ofNat 64 (s.hbmNat pa 8) →
    (0 < (v - old).toInt →
      exec (.queueHomeStep g) s =
        .next (((s.taskLine (s.workOf g) pa true).memWrite { host := false, addr := pa } (natLe 8 v.toNat)).homeReply g [])) ∧
    ((v - old).toInt ≤ 0 → exec (.queueHomeStep g) s = .next ((s.taskLine (s.workOf g) pa true).homeReply g []))) ∧
  (∀ (s : State) (g pa d : Nat), (s.strand g).homeOp = some (.tlread pa d) →
    exec (.queueHomeStep g) s =
      .next (((s.taskLine (s.workOf g) pa false).acquireNow g 5).homeReply g
        [(d, loWord (BitVec.ofNat 64 (s.hbmNat pa 8))), (d + 1, hiWord (BitVec.ofNat 64 (s.hbmNat pa 8)))])) ∧
  (∀ (s : State) (g d : Nat) (r : List Byte), (s.strand g).homeOp = some (.spawn d r) →
    (taskValid r = false → exec (.queueHomeStep g) s = .next (s.homeReply g [(d, 3)])) ∧
    (taskValid r = true → 8 < (s.strand g).info.depth + 1 → exec (.queueHomeStep g) s = .next (s.homeReply g [(d, 1)])) ∧
    (taskValid r = true → (s.strand g).info.depth + 1 ≤ 8 → s.taskQueueFull (s.strand g).info.ctx = true →
      exec (.queueHomeStep g) s = .next (s.homeReply g [(d, 2)])) ∧
    (taskValid r = true → (s.strand g).info.depth + 1 ≤ 8 → s.taskQueueFull (s.strand g).info.ctx = false →
      exec (.queueHomeStep g) s =
        .next ((s.enqueueTask (s.strand g).info.ctx (withDepth r ((s.strand g).info.depth + 1))).homeReply g [(d, 0)]))) ∧
  (∀ (s : State) (g hdr d n : Nat) (data : List Word) (b : Bool) (q : State), (s.strand g).homeOp = some (.qpush hdr d n data b) →
    (s.strand g).homeWait = false → q = (s.serveAll hdr false).taskLine (s.workOf g) hdr true →
    ((q.qhead hdr).free ≠ 0 →
      exec (.queueHomeStep g) s =
        .next ((q.qreservePush (s.workOf g) hdr (bytesOfWords data)).homeReply g (if b then [(d + n / 4, 0)] else []))) ∧
    ((q.qhead hdr).free = 0 →
      exec (.queueHomeStep g) s =
        .next (if b then q.homeReply g [(d + n / 4, 1)]
               else (q.queueWait g hdr false d n data).sendReply g))) ∧
  (∀ (s : State) (g hdr d n : Nat) (b : Bool) (q : State), (s.strand g).homeOp = some (.qpop hdr d n b) →
    (s.strand g).homeWait = false → q = (s.serveAll hdr true).taskLine (s.workOf g) hdr true →
    ((q.qhead hdr).filled ≠ 0 → exec (.queueHomeStep g) s = .next (q.qreservePop hdr g d b)) ∧
    ((q.qhead hdr).filled = 0 →
      exec (.queueHomeStep g) s =
        .next (if b then q.homeReply g [(d + n / 4, 1)]
               else (q.queueWait g hdr true d n []).sendReply g))) ∧
  (∀ (s : State) (g : Nat), (s.strand g).homeOp = none ∨ (s.strand g).homeWait = true ∧
      (∀ pa v, (s.strand g).homeOp ≠ some (.tlsig pa v)) ∧ (∀ pa d, (s.strand g).homeOp ≠ some (.tlread pa d)) ∧
      (∀ d r, (s.strand g).homeOp ≠ some (.spawn d r)) →
    exec (.queueHomeStep g) s = .next s) ∧
  (∀ (s : State) (g : Nat) (t : Strand), t = s.strand g → t.homeDone = true →
    exec (.taskWordHomeReply g) s = .next (s.setStrand g (Strand.unpark { t with homeDone := false, replied := true }))) ∧
  (∀ (s : State) (g : Nat), (s.strand g).homeDone = false → ∃ t, exec (.taskWordHomeReply g) s = .next t ∧ ∀ x, t.strand x = s.strand x) ∧
  (∀ (s : State) (hdr : Nat) (pop : Bool), exec (.queueWaiterServe hdr pop) s = .next (s.serveQueue hdr pop))

/-- R333 to R341. The TASK words, and what their homes answer. -/
def Obligations.TaskWordsAndHomes : Prop :=
  Sys2Proof.Claims.taskWords ∧ Sys2Proof.Claims.taskHomes

/-- ASDEF writes or clears a set slot before the first granule; ASAGE reads the task's stamp; ASQ reads the status of an
address, which is zero for a task without sets; ASTOUCH of no granule does nothing, of an address in no set or of more
granules than the set has from it on is a violation, and it passes over each granule that the task holds; ASRETRY asks for a
rollback at a time.
A task without sets, a slot beyond its count, and a definition after a grant are violations. -/
def Obligations.SetWords : Prop :=
  (∀ (s : State) (c : Bool) (n : BitVec 2) (a : BitVec 8), s.UReady [(a.toNat, 4)] →
    (s.me.setBearing = false → exec (.asdef c n a) s = .next ((s.raw 1 1).trap (violation 1))) ∧
    (s.me.setBearing = true → s.me.info.setCount ≤ n.toNat → exec (.asdef c n a) s = .next ((s.raw 1 1).trap (violation 3))) ∧
    (s.me.setBearing = true → n.toNat < s.me.info.setCount → s.me.aset.granted = true →
      exec (.asdef c n a) s = .next ((s.raw 1 1).trap (violation 4))) ∧
    (s.me.setBearing = true → n.toNat < s.me.info.setCount → s.me.aset.granted = false →
      (descV (s.u128 a.toNat) = false →
        ∃ t, exec (.asdef c n a) s = .next t ∧ t.iss.res = .done ∧ t.me.aset.sets = s.me.aset.sets.erase n.toNat ∧
          s.OnlyStrand t ∧ { t.me with aset := s.me.aset } = s.me) ∧
      (descV (s.u128 a.toNat) = true →
        descValid ((s.me.aset.sets.filter (fun x => x.1 != n.toNat)).map (·.2)) (s.u128 a.toNat) = true →
        ∃ t, exec (.asdef c n a) s = .next t ∧ t.iss.res = .done ∧
          t.me.aset.sets = s.me.aset.sets.insert n.toNat (s.u128 a.toNat) ∧
          s.OnlyStrand t ∧ { t.me with aset := s.me.aset } = s.me) ∧
      (descV (s.u128 a.toNat) = true →
        descValid ((s.me.aset.sets.filter (fun x => x.1 != n.toNat)).map (·.2)) (s.u128 a.toNat) = false →
        exec (.asdef c n a) s = .next ((s.raw 1 1).trap (violation 2))))) ∧
  (∀ (s : State) (c : Bool) (d : BitVec 8), s.UReady [(d.toNat, 2)] →
    ∃ t, exec (.asage c d) s = .next t ∧ t.me.uregs.get d.toNat = loWord s.me.info.stamp ∧
      t.me.uregs.get (d.toNat + 1) = hiWord s.me.info.stamp ∧ s.UniformFrame t [d.toNat, d.toNat + 1]) ∧
  (∀ (s : State) (c : Bool) (d a : BitVec 8), s.UReady [(d.toNat, 1), (a.toNat, 2)] →
    (s.me.setBearing = false →
      (∃ t, exec (.asq c d a) s = .next t ∧ t.me.uregs.get d.toNat = 0 ∧ s.UniformFrame t [d.toNat]) ∧
      exec (.astouch c d a) s = .next ((s.raw 1 1).trap (violation 1))) ∧
    (s.me.setBearing = true →
      (∀ t v, (s.raw 1 1).asStatus (s.u2 a.toNat).toNat = (t, .ok v) → exec (.asq c d a) s = .next (t.setU d.toNat v).done) ∧
      (∀ t h, (s.raw 1 1).asStatus (s.u2 a.toNat).toNat = (t, .error h) → exec (.asq c d a) s = .next (t.hold h)) ∧
      (s.u d.toNat = 0 → exec (.astouch c d a) s = .next (s.raw 1 1).done) ∧
      (64 < (s.u d.toNat).toNat → exec (.astouch c d a) s = .next ((s.raw 1 1).trap (violation 6))) ∧
      (1 ≤ (s.u d.toNat).toNat → (s.u d.toNat).toNat ≤ 64 → s.me.inSet (s.u2 a.toNat).toNat = none →
        exec (.astouch c d a) s = .next ((s.raw 1 1).trap (violation 6 (some (s.u2 a.toNat).toNat)))) ∧
      (∀ n x i, 1 ≤ (s.u d.toNat).toNat → (s.u d.toNat).toNat ≤ 64 → s.me.inSet (s.u2 a.toNat).toNat = some (n, x) →
        i = ((s.u2 a.toNat).toNat - descBase x) / descSize x →
        (i + (s.u d.toNat).toNat ≤ descCount x →
          exec (.astouch c d a) s =
            .next ((s.raw 1 1).touch x ((List.range (s.u d.toNat).toNat).map (fun j => descBase x + (i + j) * descSize x)))) ∧
        (descCount x < i + (s.u d.toNat).toNat →
          exec (.astouch c d a) s = .next ((s.raw 1 1).trap (violation 6 (some (s.u2 a.toNat).toNat))))))) ∧
  (∀ (s : State) (d : BitVec 128), s.touch d [] = s.done) ∧
  (∀ (s t u : State) (d : BitVec 128) (va : Nat) (l : List Nat) (p : PAddr) (x : Acquired),
    s.translateFor (.group s.iss.g) (s.workOf s.iss.g) s.myCore va .load = (t, .ok p) → t.acquire s.iss.g d p = (u, x) →
    (x = .held → s.touch d (va :: l) = u.touch d l) ∧ (x = .violation → s.touch d (va :: l) = u.trap (violation 5 (some va))) ∧
    (x ≠ .held → x ≠ .violation → s.touch d (va :: l) = u.hold .granule)) ∧
  (∀ (s : State) (c : Bool) (a : BitVec 8), s.UReady [(a.toNat, 1)] →
    (s.me.setBearing = false ∨ s.me.aset.serialised = true →
      exec (.asretry c a) s = .next ((s.raw 1 1).trap (violation 1))) ∧
    (s.me.setBearing = true → s.me.aset.serialised = false →
      exec (.asretry c a) s =
        .next ((((s.raw 1 1).modMe (fun t => { t with aset := { t.aset with retryAt := s.podTime + (s.u a.toNat).setWidth 64 } })).markRollback
          s.iss.g 7 false).done)))

/-- R366. What ERD and EBKT read, by their selector. A context's energies are read in nanojoules. -/
def Sys2Proof.Claims.ruleErd (s : State) (n : Nat) : Option Int :=
  if n = 0 then some (nJ s.iss.ctx0.account)
  else if n = 1 then some s.iss.purse0
  else if n = 2 then some (nJ s.iss.ctx0.rollback)
  else if n = 3 then some (nJ s.iss.ctx0.resid)
  else if n = 4 then some s.old.incCharge
  else if n = 5 then some (s.corrOf (qDom s.myQuarter))
  else if 0x40 ≤ n ∧ n ≤ 0x5A then some (Config.weight (s.opOf s.myCtx) (n - 0x40))
  else none

/-- R366. What EBKT reads, by its selector. -/
def Sys2Proof.Claims.ruleEbkt (s : State) (n : Nat) : Option Int :=
  if n = 0 then some s.iss.ctx0.level
  else if n = 1 then some s.iss.ctx0.cap
  else if n = 2 then some s.iss.ctx0.refill
  else if n = 3 then some (min s.iss.ctx0.holdCount 0xFFFFFFFF)
  else if n = 4 then some (s.part s.iss.ctx0.part).holdLimit
  else none

/-- ERD, EBKT, CNTRD and TSTAMP write a pair of uniform registers and change nothing else: an energy that their selector
names, an entry of the context's readable session, and the context's time. EOP writes a status, and starts a change of the
operating point when the point is allowed and is not the present one. An unassigned selector is an illegal operand. -/
def Sys2Proof.Claims.energyWords : Prop :=
  ∀ (s : State) (c : Bool) (d a : BitVec 8), 
    (s.UReady [(d.toNat, 2)] →
      (∀ v, ruleErd s a.toNat = some v →
        ∃ t, exec (.erd c d a) s = .next t ∧ t.me.uregs.get d.toNat = loWord (BitVec.ofInt 64 v) ∧
          t.me.uregs.get (d.toNat + 1) = hiWord (BitVec.ofInt 64 v) ∧ s.UniformFrame t [d.toNat, d.toNat + 1]) ∧
      (∀ v, ruleEbkt s a.toNat = some v →
        ∃ t, exec (.ebkt c d a) s = .next t ∧ t.me.uregs.get d.toNat = loWord (BitVec.ofInt 64 v) ∧
          t.me.uregs.get (d.toNat + 1) = hiWord (BitVec.ofInt 64 v) ∧ s.UniformFrame t [d.toNat, d.toNat + 1]) ∧
      (∃ t, exec (.tstamp c d) s = .next t ∧ t.me.uregs.get d.toNat = loWord (s.ctxTime s.myCtx) ∧
        t.me.uregs.get (d.toNat + 1) = hiWord (s.ctxTime s.myCtx) ∧ s.UniformFrame t [d.toNat, d.toNat + 1]) ∧
      (s.readable s.myCtx = none → exec (.cntrd c d a) s = .next ((s.raw 1 1).trap { cause := .priv })) ∧
      (∀ x, s.readable s.myCtx = some x →
        (x.entries[a.toNat]? = none → exec (.cntrd c d a) s = .next ((s.raw 1 1).trap { cause := .illegalOperand })) ∧
        (∀ e, x.entries[a.toNat]? = some e →
          ∃ t, exec (.cntrd c d a) s = .next t ∧ t.me.uregs.get d.toNat = loWord e.word ∧
            t.me.uregs.get (d.toNat + 1) = hiWord e.word ∧ s.UniformFrame t [d.toNat, d.toNat + 1]))) ∧
    (ruleErd s a.toNat = none → exec (.erd c d a) s = .next (s.enc .illegalOperand)) ∧
    (ruleEbkt s a.toNat = none → exec (.ebkt c d a) s = .next (s.enc .illegalOperand)) ∧
    (s.UReady [(d.toNat, 1), (a.toNat, 1)] →
      ∀ r, r = eopStatus (s.u a.toNat).toNat (s.ctx s.myCtx).eopok (s.part (s.ctx s.myCtx).part) →
        (r.2 = none →
          ∃ t, exec (.eop c d a) s = .next t ∧ t.me.uregs.get d.toNat = BitVec.ofNat 32 r.1 ∧ s.UniformFrame t [d.toNat]) ∧
        (∀ v, r.2 = some v →
          exec (.eop c d a) s =
            .next (((s.raw 1 1).setU d.toNat (BitVec.ofNat 32 r.1)).done.startChange (s.ctx s.myCtx).part v)))

/-- R367. The status of an EOP by its rules, in their order. -/
def Sys2Proof.Claims.operatingPointStatus : Prop :=
  ∀ (v : Nat) (ok : Bool) (p : Partition),
    (8 ≤ v → eopStatus v ok p = (4, none)) ∧
    (v < 8 → ok = false → eopStatus v ok p = (3, none)) ∧
    (v < 8 → ok = true → ∀ x, p.chg = some x → eopStatus v ok p = (if v = x then 0 else 2, none)) ∧
    (v < 8 → ok = true → p.chg = none →
      (p.maxop < v → eopStatus v ok p = (1, none)) ∧
      (v ≤ p.maxop → v = p.op → eopStatus v ok p = (0, none)) ∧
      (v ≤ p.maxop → v ≠ p.op → eopStatus v ok p = (0, some v)))

/-- R365 to R367, R370, R423. The ENER and CNT words, and the status that EOP writes. -/
def Obligations.EnergyAndCounterWords : Prop :=
  Sys2Proof.Claims.energyWords ∧ Sys2Proof.Claims.operatingPointStatus

/-- EXIT alone in its group waits until its rod is free, its stores are translated, its matrix words are complete and its
release is over; then a strand without atomic sets ends, and a set-bearing task drains its hold buffer, releases its
granules, runs its deferred entries and ends. In a handler the suspended matrix words are discarded first. Beside a word of
another pipe it issues once the rod is free and the stores are translated, and the strand waits for the rest of its course.
TRET in a handler charges the lines it reads, restores what the record holds and goes on at the strand's place; a recorded
PC that is no packet traps. -/
def Obligations.ExitAndReturn : Prop :=
  (∀ (s x : State) (c : Bool), s.iss.multi = false →
    x = (if s.me.trap.inHandler then (s.raw 1 1).discardSuspended s.iss.g else s.raw 1 1) →
    (x.me.flight ≠ none → exec (.exit c) s = .next (x.hold .rod)) ∧
    (x.me.flight = none → x.untranslated s.iss.g = true → exec (.exit c) s = .next (x.hold .stores)) ∧
    (x.me.flight = none → x.untranslated s.iss.g = false → x.mBusy s.iss.g = true → exec (.exit c) s = .next (x.hold .exitDrain)) ∧
    (x.me.flight = none → x.untranslated s.iss.g = false → x.mBusy s.iss.g = false →
      (∀ q, x.releaseStep s.iss.g (x.exitScope s.iss.g) = (q, false) → exec (.exit c) s = .next (q.hold .release)) ∧
      (∀ q, x.releaseStep s.iss.g (x.exitScope s.iss.g) = (q, true) →
        (q.me.setBearing = false → exec (.exit c) s = .next (q.leave s.iss.g).done) ∧
        (q.me.setBearing = true → q.me.exitStep = 0 → exec (.exit c) s =
          .next (((q.modMe (fun t => { t with exitStep := 1, aset := { t.aset with committing := true } })).dueOnce
            (.holdBufferDrainComplete s.iss.g)).hold .exitDrain)) ∧
        (q.me.setBearing = true → q.me.exitStep = 1 ∨ q.me.exitStep = 3 → exec (.exit c) s = .next (q.hold .exitDrain)) ∧
        (q.me.setBearing = true → q.me.exitStep ≠ 0 → q.me.exitStep ≠ 1 → q.me.exitStep ≠ 3 →
          (∀ r, q.runDeferred s.iss.g q.me.aset.deferred = (r, true) → exec (.exit c) s = .next (r.leave s.iss.g).done) ∧
          (∀ r, q.runDeferred s.iss.g q.me.aset.deferred = (r, false) → exec (.exit c) s = .next (r.hold .exitDrain)))))) ∧
  (∀ (s : State) (c : Bool), s.iss.multi = true → s.old.flight = none → s.untranslated s.iss.g = false →
    exec (.exit c) s =
      .next ((s.raw 1 1).modMe (fun t => { t with leaving := true, state := if t.state = .ready then .waiting else t.state,
                                                  wait := if t.state = .ready then .exit else t.wait })).done) ∧
  (∀ (s : State) (g : Nat), s.runDeferred g [] = (s, true)) ∧
  (∀ (s : State) (c : Bool), s.old.trap.inHandler = true → s.old.flight = none → s.untranslated s.iss.g = false →
    (pcValid (s.old.rec64 4) = false → exec (.tret c) s = .next ((s.raw 1 1).trap { cause := .illegalPc })) ∧
    (pcValid (s.old.rec64 4) = true →
      ∀ t, t = ((((s.raw 1 1).leaveHandler s.iss.g).reenterReported s.iss.g).retryStores
          (((s.raw 1 1).leaveHandler s.iss.g).reenterReported s.iss.g).myCore) →
        exec (.tret c) s = .next (t.goTo t.me.pc t.me.widx).done))

/-! ### Events of memory, scratchpad and synchronisation -/

/-- R216, R222. What a load that has returned leaves in its strand: its words in its registers, which are no longer pending. -/
def Sys2Proof.Claims.loaded (t : Strand) (r : LoadReq) : Strand :=
  let u := (wordsOf (r.data.getD [])).zipIdx.foldl (fun (t : Strand) x =>
    if r.uni then t.setU (r.reg + x.2) x.1 else t.writeV (r.reg + x.2) r.slot x.1) t
  { u with pendU := u.pendU.filter (fun x => x.2 != r.id), pendV := u.pendV.filter (fun x => x.2.2 != r.id) }

/-- Events of loads, stores, reductions, walks and host translations that are due, each with its own effect: a load binds
its bytes after the earlier ones that it follows and returns them to its registers, a yield window or a starvation ends, a
store is translated and reaches its home with the stores that have joined it, a combining entry is flushed and applied one
value at a time, a dirty line is written back, a walker takes the oldest miss and answers it, a host page's answer enters
the die's table, is asked for by PRI, or is refused, and invalidated answers are discarded. -/
def Sys2Proof.Claims.memoryEventSteps : Prop :=
  (∀ (s : State) (id : Nat) (r : LoadReq), s.loads.find? (fun r => r.id == id) = some r →
    exec (.globalLoadCompletion id) s = .next ((s.completeLoad id).retryCore (coreOf r.work.g)) ∧
    (∀ x t, (s.bindLoad r).loads.find? (fun r => r.id == id) = some x →
      t = ({ s.bindLoad r with loads := (s.bindLoad r).loads.filter (fun y => y.id != id) } : State).chargeLoad x →
      (t.liveWork x.work = true → s.completeLoad id = t.modStrand x.work.g (fun y => loaded y x)) ∧
      (t.liveWork x.work = false → s.completeLoad id = t))) ∧
  (∀ (s : State) (id : Nat), s.loads.find? (fun r => r.id == id) = none → exec (.globalLoadCompletion id) s = .next s) ∧
  (∀ (s : State) (g : Nat),
    exec (.packetFetch g) s = .next ((s.modStrand g (fun t => { t with line := none })).fetchLine g true).1 ∧
    (∃ t, exec (.yieldWindowExpiry g) s = .next t ∧ (t.strand g).yielding = false ∧
      { t.strand g with yielding := (s.strand g).yielding } = s.strand g ∧ (∀ h, h ≠ g → t.strand h = s.strand h)) ∧
    ((s.strand g).resident = true →
      ∃ t, exec (.issueStarvationPromotion g) s = .next t ∧ (t.strand g).promoted = true ∧
        { t.strand g with promoted := (s.strand g).promoted } = s.strand g ∧ (∀ h, h ≠ g → t.strand h = s.strand h)) ∧
    exec (.storeQueueTranslation g) s = .next ((s.translateStore g).retryCore (coreOf g)) ∧
    (∀ k, exec (.scratchpadResultDelivery g k) s =
      .next (s.modStrand g (fun t => t.deliverLate (fun x => !x.sfu && x.slot == k))))) ∧
  (∀ (s : State) (core id : Nat) (e : SqEntry) (p : PAddr) (last : Nat), (s.core core).sq.find? (fun e => e.id == id) = some e →
    e.pa = some p →
    last = ((s.core core).sq.filter (fun x => x.pa.any (fun q => q.line == p.line)
      && (s.core core).sq.any (fun f => f.id == id && f.joins x))).foldl (fun n x => max n x.id) id →
    exec (.storeArrivesHome core id) s = .next ((s.landLine core p.line last).retryCore core).flushCpls) ∧
  (∀ (s : State) (core id : Nat), ((s.core core).sq.find? (fun e => e.id == id)).bind (·.pa) = none →
    exec (.storeArrivesHome core id) s = .next s) ∧
  (∀ (s : State) (core id : Nat),
    exec (.combiningEntryTimeout core id) s = .next (s.flushCb core (fun e => e.id == id)) ∧
    exec (.combiningFlushApplied core id) s = .next (((s.flushStep core id).retryStores core).retryCore core).flushCpls ∧
    (∀ e v w l, (s.core core).cb.find? (fun e => e.id == id) = some e → e.vals = v :: w :: l →
      s.flushStep core id = ((s.flushValue core e v).modCore core (fun c =>
        { c with cb := updWhere (fun x => x.id == id) (fun x => { x with vals := w :: l }) c.cb })).dueFirst (.combiningFlushApplied core id)) ∧
    (∀ e v, (s.core core).cb.find? (fun e => e.id == id) = some e → e.vals = [v] → s.flushStep core id = s.flushEntry core e [v])) ∧
  (∀ (s : State) (line : Nat) (l : ScLine), s.scache.find? line = some l →
    ∃ t, exec (.sharedCacheWriteback line) s = .next t ∧ t.scache.find? line = none ∧
      t = { s.writeBack line l with scache := (s.writeBack line l).scache.erase line }) ∧
  (∀ (s : State) (line : Nat), s.scache.find? line = none → exec (.sharedCacheWriteback line) s = .next s) ∧
  (∀ (s : State) (die : Nat),
    exec (.sharedCacheFlush die) s = .next (s.cleanLines (fun line => homeDie { host := false, addr := line * 64 } == die))) ∧
  (∀ (s : State) (die : Nat) (w : WalkReq) (t : State), ((s.die die).walks.filter (·.walking)).length < 64 →
    (s.die die).walks.find? (fun w => !w.walking) = some w →
    t = (s.setDie die { s.die die with walks := updWhere (fun x => x.id == w.id) (fun x => { x with walking := true }) (s.die die).walks }).due
      (.pageWalkComplete die w.id) →
    exec (.pageWalkStart die) s =
      .next (if 256 ≤ ((s.die die).walks.filter (fun x => !x.walking)).length
        then (t.countEv (512 + die) 0x23 w.work.ctx 1).retryWaiters die else t.countEv (512 + die) 0x23 w.work.ctx 1)) ∧
  (∀ (s : State) (die : Nat), 64 ≤ ((s.die die).walks.filter (·.walking)).length → exec (.pageWalkStart die) s = .next s) ∧
  (∀ (s : State) (die id : Nat) (w : WalkReq) (reason : Nat) (t : State),
    (s.die die).walks.find? (fun w => w.id == id && w.walking) = some w → (s.walk w.ctx (w.vpn * 65536)).1 = .error reason →
    t = ((s.chargeWalk w.work die (s.walk w.ctx (w.vpn * 65536)).2).modDie die
      (fun d => { d with walks := d.walks.filter (fun x => x.id != id) })).failAsks die w.ctx false w.vpn reason →
    exec (.pageWalkComplete die id) s =
      .next ((if (t.die die).walks.any (fun x => !x.walking) then t.dueOnce (.pageWalkStart die) else t).retryWaiters die)) ∧
  (∀ (s : State) (die id : Nat) (w : WalkReq) (e : TlbEntry) (t : State),
    (s.die die).walks.find? (fun w => w.id == id && w.walking) = some w → (s.walk w.ctx (w.vpn * 65536)).1 = .ok e →
    t = ((s.chargeWalk w.work die (s.walk w.ctx (w.vpn * 65536)).2).modDie die (fun d => { d with
      walks := d.walks.filter (fun x => !(x.id == id || (!x.walking && e.hits x.ctx (x.vpn * 65536)))),
      asks := d.asks.filter (fun a => a.host || !e.hits a.ctx (a.page * 65536)) })).fillTlbs (coreOf w.work.g) e →
    exec (.pageWalkComplete die id) s =
      .next ((if (t.die die).walks.any (fun x => !x.walking) then t.dueOnce (.pageWalkStart die) else t).retryWaiters die)) ∧
  (∀ (s : State) (die id hpa : Nat) (r : HostReq), (s.die die).atsReqs.find? (fun x => x.id == id) = some r →
    exec (.atsTranslationCompletion die id true hpa) s =
      .next ((s.setDie die { s.die die with
        atsReqs := (s.die die).atsReqs.filter (fun x => x.id != id),
        ats := (s.die die).ats ++ [{ ctx := r.ctx, page := r.page, hpa := hpa }] }).pageArrived die r.ctx r.page) ∧
    ((s.die die).pri.length < 64 → exec (.atsTranslationCompletion die id false hpa) s =
      .next (((s.setDie die { s.die die with
        atsReqs := (s.die die).atsReqs.filter (fun x => x.id != id), pri := (s.die die).pri ++ [r] }).send
          (.pri die id r.ctx r.page)).retryDie die)) ∧
    (64 ≤ (s.die die).pri.length → exec (.atsTranslationCompletion die id false hpa) s = .next (s.send (.ats die id r.ctx r.page)))) ∧
  (∀ (s : State) (die id hpa : Nat) (r : HostReq), (s.die die).pri.find? (fun x => x.id == id) = some r →
    exec (.priResponse die id true hpa) s =
      .next ((s.setDie die { s.die die with
        pri := (s.die die).pri.filter (fun x => x.id != id),
        ats := (s.die die).ats ++ [{ ctx := r.ctx, page := r.page, hpa := hpa }] }).pageArrived die r.ctx r.page) ∧
    exec (.priResponse die id false hpa) s =
      .next ((s.setDie die { s.die die with pri := (s.die die).pri.filter (fun x => x.id != id) }).pageRefused die r) ∧
    exec (.priTimeout die id) s =
      .next ((s.setDie die { s.die die with pri := (s.die die).pri.filter (fun x => x.id != id) }).pageRefused die r)) ∧
  (∀ (s : State) (die ctx base len : Nat),
    ∃ t, exec (.atsInvalidate die ctx base len) s = .next t ∧
      (∀ x, x ∈ (t.die die).ats ↔
        x ∈ (s.die die).ats ∧ ¬(x.ctx = ctx ∧ rangesMeet (x.page * 65536) 65536 base len = true)) ∧
      (∀ d, d ≠ die → t.die d = s.die d)) ∧
  (∀ (s : State) (ctx : Nat) (r : Option (Nat × Nat)), exec (.translationInvalidateCommand ctx r) s = .next (s.invalidate ctx r))

/-- R202, R210. The byte that a translated entry of the store queue stores at a physical address: those of its data, from
its physical address up. -/
def Sys2Proof.Claims.storedByte (e : SqEntry) (a : PAddr) : Option Byte :=
  e.pa.bind (fun q => if q.host = a.host ∧ q.addr ≤ a.addr then e.data[a.addr - q.addr]? else none)

/-- R202, R210. When a line of a core's store queue is written at its home, each byte of memory holds afterwards what the
newest of the entries that land stores there, and what it held before where none of them stores; both memories, under any
key slot that reads the bytes written. Those entries leave the queue, and the queue of every other core is as before. -/
def Sys2Proof.Claims.storesLand : Prop :=
  ∀ (s t : State) (core last : Nat) (p : PAddr) (es : List SqEntry), t = s.landLine core p.line last →
    es = (s.core core).sq.filter (fun e => e.id ≤ last && e.pa.any (fun q => q.line == p.line)) →
    (∀ a : PAddr, es.reverse.findSome? (fun e => storedByte e a) = none → t.memByte a = s.memByte a) ∧
    (∀ (a : PAddr) (b : Byte), es.reverse.findSome? (fun e => storedByte e a) = some b →
      a.host = true ∨ a.key = 0 ∨ p.key = 0 ∨ a.key = p.key → t.memByte a = b) ∧
    (t.core core).sq = (s.core core).sq.filter (fun e => !(e.id ≤ last && e.pa.any (fun q => q.line == p.line))) ∧
    (∀ c, c ≠ core → t.core c = s.core c)

/-- R216, R226, R228, R244. The byte that a load reads when it binds: the strand's held byte, else that of the newest
translated store of its core, else that of the core's L1 line, where it has the line and the load is not performed at the
home slice, else that of memory. -/
def Sys2Proof.Claims.boundByte (s : State) (r : LoadReq) (i : Nat) : Byte :=
  let a := r.pa.plus i
  let held := (s.strand r.work.g).aset.lines.findSome? (fun l =>
    if l.line = a.addr / 64 ∧ l.host = a.host then Assoc.find? l.bytes (a.addr % 64) else none)
  let stored := (s.core (coreOf r.work.g)).sq.reverse.findSome? (fun e => storedByte e a)
  let below := match (s.core (coreOf r.work.g)).l1.find? (fun l => l.pa == r.pa.line) with
    | some l => if r.home then s.memByte a else l.data.getD (a.addr % 64) 0
    | none => s.memByte a
  held.getD (stored.getD below)

/-- R75, R216. A load that returns, its strand's only one, leaves in its registers the words of the bytes that it binds then,
changes no other register of the strand, and no byte of either memory. -/
def Sys2Proof.Claims.loadReturns : Prop :=
  ∀ (s t : State) (id n : Nat) (r : LoadReq), s.loads.find? (fun r => r.id == id) = some r →
    s.loads.filter (fun x => x.work.g == r.work.g) = [r] → r.data = none → r.remote = false → r.raw = false →
    s.liveWork r.work = true → r.n = 4 * n → r.pa.addr % 64 + r.n ≤ 64 →
    (∀ l, (s.core (coreOf r.work.g)).l1.find? (fun l => l.pa == r.pa.line) = some l → l.data.length = 64) →
    t = s.completeLoad id →
    (t.hbm = s.hbm ∧ t.hostMem = s.hostMem ∧ t.keyed = s.keyed) ∧
    (∀ k, k < n → ∃ w, w = wordOfBytes ((List.range 4).map (fun i => boundByte s r (4 * k + i))) ∧
      (r.uni = true → (t.strand r.work.g).uregs.get (r.reg + k) = w) ∧
      (r.uni = false → r.slot < 32 → (t.strand r.work.g).vreg (r.reg + k) r.slot = w)) ∧
    (∀ x, r.uni = false ∨ x < r.reg ∨ r.reg + n ≤ x → (t.strand r.work.g).uregs.get x = (s.strand r.work.g).uregs.get x) ∧
    (∀ x k, k < 32 → r.slot < 32 → r.uni = true ∨ k ≠ r.slot ∨ x < r.reg ∨ r.reg + n ≤ x →
      (t.strand r.work.g).vreg x k = (s.strand r.work.g).vreg x k) ∧
    (∀ h, h ≠ r.work.g → t.strand h = s.strand h)

/-- R75, R194, R196, R197, R202, R210 to R212, R216. Events of loads, stores, reductions, walks and host translations; what a
landed store leaves in memory, and what a completed load leaves in its registers. -/
def Obligations.MemoryEvents : Prop :=
  Sys2Proof.Claims.memoryEventSteps ∧ Sys2Proof.Claims.storesLand ∧ Sys2Proof.Claims.loadReturns

/-- R340. What the ranks of a collective send: a member here the words of its buffer, another package what has come. -/
def Sys2Proof.Claims.collSends (s : State) (n : Nat) (oks : List (CollMember × (List PAddr × List PAddr)))
    (contribs : List (List Word)) : List (List Word) :=
  (List.range n).map (fun q =>
    match List.find? (fun x => x.1.rank == q) oks with
    | some x => wordsOf (x.2.1.map (fun p => (s.homeBytes (coreOf x.1.work.g) p 1).headD 0))
    | none => contribs.getD q [])

/-- Events of remote messages, full/empty bits, byte barriers, barriers, queues, timelines and collectives that are due:
the oldest message to a core that can be performed is performed at its banks and its reply is due, or its strand waits for
the bit; a waiting strand goes on when what it waits for stands and stays as it is when it does not; an entry of a queue
lands; a collective delivers its results, and one whose time is over ends ABORTED. -/
def Obligations.SynchronisationEvents : Prop :=
  (∀ (s : State) (core : Nat), (s.core core).remote = [] → exec (.remoteMessage core) s = .next s) ∧
  (∀ (s u : State) (core : Nat) (m : RemoteMsg) (rest : List RemoteMsg), (s.core core).remote = m :: rest →
    u = (if rest.isEmpty then s.modCore core (fun c => { c with remote := rest })
         else (s.modCore core (fun c => { c with remote := rest })).dueOnce (.remoteMessage core)) →
    (∀ t b, u.spPerform core m.off m.op true = some (t, b) → exec (.remoteMessage core) s = .next (t.replyTo m b)) ∧
    (u.spPerform core m.off m.op true = none →
      (u.liveWork m.work = false → exec (.remoteMessage core) s = .next u) ∧
      (u.liveWork m.work = true → exec (.remoteMessage core) s =
        .next (((u.modStrand m.work.g (fun t => { t with sent := false })).modFlight m.work.g (fun f => { f with stop := .fullEmpty })).enterWait
          m.work.g (.fullEmpty core m.off (m.op == .ldfe)))))) ∧
  (∀ (s : State) (m : RemoteMsg) (b : List Byte), s.liveWork m.work = true →
    (m.dest = .none → s.replyTo m b = s.due (.remoteReply m.work.g 33)) ∧
    (m.dest = .step → s.replyTo m b =
      ((s.modStrand m.work.g (fun t => { t with reply8 := some [], unacked := t.unacked + 1 })).due
        (.remoteReply m.work.g 33)).goOn m.work.g) ∧
    (m.dest = .slot → s.replyTo m b =
      (s.modStrand m.work.g (fun t => { t with reply8 := some b })).due (.remoteReply m.work.g m.k)) ∧
    (∀ n, m.dest = .uni n → (s.strand m.work.g).usent = some n → s.replyTo m b =
      (s.setStrand m.work.g { s.strand m.work.g with ureply := some b }).due (.remoteReply m.work.g m.k)) ∧
    (∀ n, m.dest = .uni n → (s.strand m.work.g).usent ≠ some n →
      ((s.strand m.work.g).trap.leftSent.any (fun x => x.1 == n) = true → s.replyTo m b =
        s.setStrand m.work.g { s.strand m.work.g with trap := { (s.strand m.work.g).trap with leftReply := some b } }) ∧
      ((s.strand m.work.g).trap.leftSent.any (fun x => x.1 == n) = false → s.replyTo m b = s)) ∧
    (∀ id, m.dest = .load id → s.replyTo m b =
      ({ s with loads := updWhere (fun r => r.id == id) (fun r => { r with data := some b }) s.loads } : State).due
        (.globalLoadCompletion id))) ∧
  (∀ (s : State) (m : RemoteMsg) (b : List Byte), s.liveWork m.work = false → s.replyTo m b = s) ∧
  (∀ (s : State) (g k : Nat) (f : Flight), (s.strand g).flight = some f → f.stop = .remote → f.cursor = k →
    (s.strand g).reply8.isSome = true → exec (.remoteReply g k) s = .next ((s.goOn g).retryDie (dieOf g))) ∧
  (∀ (s : State) (g k : Nat),
    (∀ f, (s.strand g).flight = some f → f.stop ≠ .remote ∨ f.cursor ≠ k ∨ (s.strand g).reply8 = none) →
    (k ≠ 33 → exec (.remoteReply g k) s = .next s) ∧
    (k = 33 → exec (.remoteReply g k) s =
      .next ((s.modStrand g (fun t => { t with unacked := t.unacked - 1 })).retryDie (dieOf g)))) ∧
  (∀ (s : State) (g core off : Nat) (b : Bool), (s.strand g).wait = .fullEmpty core off b → (s.strand g).state = .waiting →
    ((s.core core).full off = b → exec (.fullEmptyWake g) s = .next ((s.modStrand g Strand.wakeUp).goOn g)) ∧
    ((s.core core).full off ≠ b → exec (.fullEmptyWake g) s = .next s)) ∧
  (∀ (s : State) (g core off : Nat) (b : Bool), (s.strand g).wait = .byteBarrier core off b → (s.strand g).state = .waiting →
    (((s.core core).byteBar off).phase = b →
      exec (.byteBarrierWake g) s =
        .next ((s.modStrand g Strand.wakeUp).acquireNow g (s.flipScope core off))) ∧
    (((s.core core).byteBar off).phase ≠ b → exec (.byteBarrierWake g) s = .next s)) ∧
  (∀ (s : State) (core off : Nat) (b : SpBlock), (s.core core).blocks.find? (fun b => b.off == off) = some b →
    (s.blockReady core b = true → exec (.scratchpadBlockReturn core off) s =
      .next ((s.modCore core (fun c => { c with blocks := c.blocks.filter (fun x => x.off != off) })).coreReturned core)) ∧
    (s.blockReady core b = false → exec (.scratchpadBlockReturn core off) s = .next s)) ∧
  (∀ (s t : State) (i g : Nat) (op : BarOp), t = s.barStep i g op →
    exec (.barrierStep i g op) s = .next { t with
      bars := t.bars.filter (fun x => !(x.1 == i && ((t.launch? x.2.launch).isNone && !x.2.gangLives 0))) }) ∧
  (∀ (s : State) (g i : Nat) (gen : Word) (b : BarInst), (s.strand g).wait = .barrier i gen → (s.strand g).state = .waiting →
    s.bars.find? i = some b →
    (passed b.gen gen = true → exec (.barrierWake g) s = .next ((s.modStrand g Strand.wakeUp).acquireNow g b.scope)) ∧
    (passed b.gen gen = false → exec (.barrierWake g) s = .next s)) ∧
  (∀ (s : State) (id : Nat) (x : QueueXfer) (t : State) (r : Nat × List QueueXfer),
    s.xfers.find? (fun x => x.id == id && !x.landed) = some x →
    t = (s.memWrite { host := false, addr := (s.qhead x.hdr).entry x.hdr x.idx.toNat } x.data).taskLine x.work
      ((s.qhead x.hdr).entry x.hdr x.idx.toNat) true →
    r = settleXfers (updWhere (fun y => y.id == id) (fun y => { y with landed := true }) t.xfers) x.hdr false →
    exec (.queueEntryWritten id) s =
      .next (({ t with xfers := r.2 } : State).qput x.hdr 12 (((s.qhead x.hdr).filled + r.1) % 2 ^ 32))) ∧
  (∀ (s : State) (id : Nat), s.xfers = [] → exec (.queueEntryWritten id) s = .next s ∧ exec (.queueEntryRead id) s = .next s) ∧
  (∀ (s : State) (id g : Nat) (x : QueueXfer) (t u : State) (r : Nat × List QueueXfer) (ws : List Word) (l : List (Nat × Word)),
    s.xfers.find? (fun x => x.id == id && !x.landed) = some x → x.g = some g →
    r = settleXfers (updWhere (fun y => y.id == id) (fun y => { y with landed := true }) s.xfers) x.hdr true →
    t = ({ s with xfers := r.2 } : State).qput x.hdr 8 (((s.qhead x.hdr).free + r.1) % 2 ^ 32) →
    ws = wordsOf (s.memBytes { host := false, addr := (s.qhead x.hdr).entry x.hdr x.idx.toNat } x.n) →
    u = t.taskLine x.work ((s.qhead x.hdr).entry x.hdr x.idx.toNat) false → u.liveWork x.work = true →
    l = ws.zipIdx.map (fun y => (x.d + y.2, y.1)) ++ (if x.try_ then [(x.d + x.n / 4, 0)] else []) →
    (x.role = .word → exec (.queueEntryRead id) s = .next ((u.acquireNow g 4).homeReply g l)) ∧
    (x.role = .left → exec (.queueEntryRead id) s =
      .next ((u.acquireNow g 4).modStrand g (fun y => { y with trap := { y.trap with leftHome := none, leftRegs := some l } })))) ∧
  (∀ (s : State) (g pa : Nat) (thr : DWord), (s.strand g).wait = .timeline pa thr → (s.strand g).state = .waiting →
    (s.reached pa thr = true → exec (.timelineWake g) s = .next ((s.modStrand g Strand.wakeUp).acquireNow g 5)) ∧
    (s.reached pa thr = false → exec (.timelineWake g) s = .next s)) ∧
  (∀ (s : State) (id : Nat) (contribs : List (List (BitVec 32))) (missing : List Nat), s.colls = [] →
    exec (.collectiveComplete id contribs) s = .next s ∧ exec (.collectiveTimeout id missing) s = .next s) ∧
  (∀ (s : State) (id : Nat) (c : Collective) (contribs : List (List (BitVec 32))) (missing : List Nat),
    s.colls.find? (fun c => c.id == id) = some c →
    (c.bad = true ∨ c.strangers (s.localRanks c.launch c.grp) contribs = true → exec (.collectiveComplete id contribs) s =
      .next (c.members.foldl (fun (s : State) m => s.collEnd m 4 (some { cause := .illegalOperand }))
        { s with colls := s.colls.filter (fun x => x.id != id) })) ∧
    exec (.collectiveTimeout id missing) s =
      .next (c.members.foldl (fun (s : State) m => s.collAbort c m missing) { s with colls := s.colls.filter (fun x => x.id != id) })) ∧
  (∀ (s t u v : State) (id : Nat) (c : Collective) (contribs : List (List (BitVec 32))) (lines : List PAddr)
      (oks : List (CollMember × (List PAddr × List PAddr))),
    s.colls.find? (fun c => c.id == id) = some c → c.bad = false → c.strangers (s.localRanks c.launch c.grp) contribs = false →
    (∀ r ∈ s.localRanks c.launch c.grp, ∃ m ∈ c.members, m.rank = r) →
    (s.localRanks c.launch c.grp).length = c.n ∨ contribs.length = c.n →
    s.collAll id c.n c.members = (t, oks.map (fun x => (x.1, .ok x.2))) →
    u = { t with colls := t.colls.filter (fun x => x.id != id) } →
    lines = (oks.flatMap (fun x => (x.2.1 ++ x.2.2).map PAddr.line)).eraseDups →
    v = c.members.foldl (fun (w : State) m => lines.foldl (fun (w : State) p =>
      (w.flushLine (coreOf m.work.g) m.work.ctx p).landLine (coreOf m.work.g) p w.nextId) w) u →
    exec (.collectiveComplete id contribs) s =
      .next ((oks.foldl (fun (w : State) x => w.collDeliver c (collSends v c.n oks contribs) x.1 x.2) v).collAcquire c lines))

/-! ### Events of launches, atomic sets and the engines -/

/-- R165. The requests of a size that wait for scratchpad in a partition: the order of each and its context. -/
def Sys2Proof.Claims.spadAsks (s : State) (part lg : Nat) : List (Nat × Nat) :=
  (s.ctxs.filter (fun x => x.2.part == part && x.2.state == .running)).flatMap (fun x =>
    (((match s.headLaunch x.1 with
       | some (_, it) => if it.state = .checked ∧ it.f 142 138 = lg then [it.order] else []
       | none => []) ++ ((s.waitingTasks x.1).filter (fun y => recField y.bytes 78 74 == lg)).map (·.order)).map (fun o => (o, x.1))))

/-- R165. The i-th range of a size on a core holds no block that cannot come back. -/
def Sys2Proof.Claims.RangeFree (s : State) (core lg i : Nat) : Prop :=
  ∀ b ∈ (s.core core).blocks, rangesMeet b.off (2 ^ b.lg) (i * 2 ^ lg) (2 ^ lg) = true →
    b.exitPending = false ∧ ∀ g ∈ b.users, (s.strand g).state ≠ .halted

/-- Events of the launch queues and dispatchers: a command at the head is refused with its status or accepted, a gang's
members agree, report, go, start at their tick or abort together, the dispatcher places the first item that fits or
claims what it needs, an item passed over for 1 ms blocks later ones of its context, and the earliest waiting request of a
size reserves the lowest range of scratchpad in which every block can come back. That GANG_LOST comes in as a form of GANG_ABORT
is the model's choice (log 152). -/
def Obligations.LaunchEvents : Prop :=
  (∀ (s : State) (ctx l : Nat) (it : LaunchItem), s.headLaunch ctx = some (l, it) → it.state = .queued →
    (it.commandOk = false → exec (.launchCommandCheck ctx) s = .next ((s.endLaunch l 1).nextCheck ctx)) ∧
    (it.commandOk = true → it.f 147 147 = 1 → it.f 447 384 ≤ s.podTime.toNat →
      exec (.launchCommandCheck ctx) s = .next (s.abortGang l)) ∧
    (it.commandOk = true → it.f 147 147 ≠ 1 ∨ s.podTime.toNat < it.f 447 384 →
      (s.readMap it = .error .bad → exec (.launchCommandCheck ctx) s = .next ((s.endLaunch l 2).nextCheck it.ctx)) ∧
      (∀ m, s.readMap it = .ok m → s.readTable it = .error .bad →
        exec (.launchCommandCheck ctx) s = .next ((s.endLaunch l 1).nextCheck it.ctx)) ∧
      (∀ (n : Nat) (m : List Word) (a : AskItem), a = { who := .launch l, ctx := it.ctx, host := true, page := n } →
        s.readMap it = .error (.page n) ∨ (s.readMap it = .ok m ∧ s.readTable it = .error (.page n)) → s.takeAnswer 0 a = none →
        exec (.launchCommandCheck ctx) s = .next ((s.atsAsk 0 it.ctx n).listAsk 0 a)) ∧
      (∀ (n r : Nat) (t : State), s.readMap it = .error (.page n) →
        s.takeAnswer 0 { who := .launch l, ctx := it.ctx, host := true, page := n } = some (t, r) →
        exec (.launchCommandCheck ctx) s = .next ((t.endLaunch l 2).nextCheck it.ctx)) ∧
      (∀ (n r : Nat) (m : List Word) (t : State), s.readMap it = .ok m → s.readTable it = .error (.page n) →
        s.takeAnswer 0 { who := .launch l, ctx := it.ctx, host := true, page := n } = some (t, r) →
        exec (.launchCommandCheck ctx) s = .next ((t.endLaunch l 1).nextCheck it.ctx)) ∧
      (∀ m t, s.readMap it = .ok m → s.readTable it = .ok t →
        exec (.launchCommandCheck ctx) s = .next (s.acceptLaunch l it m t)))) ∧
  (∀ (s t : State) (l pkg : Nat) (it x : LaunchItem) (gid : BitVec 32) (tick : BitVec 64) (same : Bool), s.launch? l = some it →
    same = decide (it.f 351 320 = gid.toNat ∧ it.f 447 384 = tick.toNat) →
    x = { it with peers := it.peers.filter (· != pkg) ++ (if same then [pkg] else []),
                  differ := it.differ.filter (· != pkg) ++ (if same then [] else [pkg]) } →
    t = { s with launches := s.launches.insert l x } →
    (x.heard = false ∨ x.differ = [] → exec (.gangFieldsMessage l pkg gid tick) s = .next t) ∧
    (x.heard = true → x.differ ≠ [] → exec (.gangFieldsMessage l pkg gid tick) s =
      .next (t.abortGang l (if x.differ.contains ((x.peers ++ x.differ).foldl min s.pkg.num) then 1 else 3)))) ∧
  (∀ (s : State) (l pkg : Nat) (it : LaunchItem), s.launch? l = some it →
    exec (.gangReady l pkg) s = .next (s.modLaunch l (fun x => { x with ready := x.ready.filter (· != pkg) ++ [pkg] })) ∧
    exec (.gangGo l) s = .next (s.modLaunch l (fun x => { x with go := true })) ∧
    (it.f 147 147 = 1 → s.coordinates it = true →
      (it.ready.eraseDups.length = it.f 362 352 →
        exec (.gangGoCheck l) s = .next ((s.modLaunch l (fun x => { x with go := true })).gangSend it (.gangGo l))) ∧
      (it.ready.eraseDups.length ≠ it.f 362 352 → exec (.gangGoCheck l) s = .next (s.abortGang l))) ∧
    (it.f 147 147 = 1 → it.started = false →
      exec (.gangAbort ⟨l, false⟩) s = .next (s.failLaunch l 3) ∧
      (it.go = true → exec (.gangTick l) s = .next (s.modLaunch l (fun x => { x with started := true }))) ∧
      (it.go = false → exec (.gangTick l) s = .next (s.abortGang l))) ∧
    (it.f 147 147 = 1 → exec (.gangAbort ⟨l, true⟩) s = .next (s.killContext it.ctx 7)) ∧
    (it.started = true → exec (.gangAbort ⟨l, false⟩) s = .next s ∧ exec (.gangTick l) s = .next s)) ∧
  (∀ (s : State) (part : Nat), s.pickItem part = none → exec (.dispatchPlacement part) s = .next s) ∧
  (∀ (s : State) (part ctx l : Nat) (p : List Placed) (it : LaunchItem), s.pickItem part = some (ctx, .unit l it p, []) →
    exec (.dispatchPlacement part) s = .next (((s.placeUnit l it p).nextCheck ctx).dueOnce (.dispatchPlacement part))) ∧
  (∀ (s : State) (part ctx q off : Nat) (it : TaskItem), s.pickItem part = some (ctx, .task it q off, []) →
    exec (.dispatchPlacement part) s = .next (((s.stepFree.placeTask ctx it q off).nextCheck ctx).dueOnce (.dispatchPlacement part))) ∧
  (∀ (s : State) (part ctx : Nat) (item : Item) (c : Nat × UnitKind) (cs : List (Nat × UnitKind)), s.pickItem part = some (ctx, item, c :: cs) →
    exec (.dispatchPlacement part) s = .next (s.beginClaims ctx (c :: cs))) ∧
  (∀ (s : State) (ctx item : Nat),
    ∃ t, exec (.dispatchPassoverBlock ctx item) s = .next t ∧
      (t.ctx ctx).tasks = (s.ctx ctx).tasks.map (fun x => if x.id = item ∧ !x.running then { x with blocking := true } else x) ∧
      (∀ l, t.launches.find? l = (s.launches.find? l).map (fun x =>
        if l = item ∧ x.ctx = ctx then { x with blocking := true } else x)) ∧
      (∀ p, t.memByte p = s.memByte p) ∧ t.strands = s.strands) ∧
  (∀ (s : State) (core lg : Nat), (s.core core).reserved ≠ none → exec (.scratchpadReservation core lg) s = .next s) ∧
  (∀ (s : State) (core lg part : Nat), (s.core core).reserved = none → s.partOfCore core = some part →
    (spadAsks s part lg = [] ∨ lg < 10 ∨ 21 < lg ∨ (∀ i, i < 2 ^ (21 - lg) → ¬RangeFree s core lg i) →
      exec (.scratchpadReservation core lg) s = .next s) ∧
    (∀ i, i < 2 ^ (21 - lg) → RangeFree s core lg i → (∀ j, j < i → ¬RangeFree s core lg j) → 10 ≤ lg → lg ≤ 21 →
      spadAsks s part lg ≠ [] →
      ∃ a ∈ spadAsks s part lg, (∀ x ∈ spadAsks s part lg, a.1 ≤ x.1) ∧ exec (.scratchpadReservation core lg) s =
        .next (s.setCore core { s.core core with reserved := some { off := i * 2 ^ lg, lg := lg, ctx := a.2, order := a.1 } })))

/-- R256. A granted granule is on the task's hold list, and the V word or group that waits for it goes on. -/
def Sys2Proof.Claims.holdMore (x : Granule) (t : Strand) : Strand :=
  { t with aset := { t.aset with holds := t.aset.holds ++ [x], granted := true } }
def Sys2Proof.Claims.granuleCame (x : Granule) (t : Strand) : Strand :=
  Strand.unpark { t with flight := t.flight.map (fun f => if f.stop = .granWait ∧ f.granule = some x then { f with stop := .reissue } else f) }

/-- R255. The holds of a task that a release names: one granule, or every one at the slice. -/
def Sys2Proof.Claims.released (a : TaskAge) (which : Option Granule) (e : HoldEntry) : Bool :=
  e.task.work == a.work && (match which with | some x => e.gran == x | none => true)

/-- Events of atomic sets: a home slice answers its oldest request and its oldest release, a granted granule joins the
task's holds, a wound marks the incarnation of the task that it names, a marked task rolls back at its boundary and restarts
once every release has been acknowledged, the oldest waiting task takes the token, a committing task's lines reach their
homes one at a time, and a delayed task goes on when its time has come. -/
def Obligations.SetEvents : Prop :=
  (∀ (s u : State) (n : Nat) (a : TaskAge) (x : Granule) (rest : List (TaskAge × Granule)), (s.slice n).reqs = (a, x) :: rest →
    u = s.modSlice n (fun h => { h with reqs := rest }) →
    (u.liveWork a.work = true → exec (.granuleRequest n) s = .next ((u.homeRequest n a x).lookAgain a.work.g)) ∧
    (u.liveWork a.work = false → exec (.granuleRequest n) s = .next u)) ∧
  (∀ (s : State) (n : Nat) (a : TaskAge) (x : Granule), (s.slice n).holdTable.find? (fun e => e.gran == x) = none →
    ((s.slice n).holdTable.length < 2048 - s.retiredOf (.holdTable n) → s.homeRequest n a x = s.grantGranule n a x) ∧
    (∀ y, 2048 - s.retiredOf (.holdTable n) ≤ (s.slice n).holdTable.length → s.youngest HoldEntry.task (s.slice n).holdTable = some y →
      (s.older a y.task = true → s.homeRequest n a x = (s.woundOf y.task).homeWait_ n a x true) ∧
      (s.older a y.task = false → s.homeRequest n a x = s.bounce a 6))) ∧
  (∀ (s : State) (n : Nat) (a : TaskAge) (x : Granule) (e : HoldEntry),
    (s.slice n).holdTable.find? (fun e => e.gran == x) = some e →
    (e.task.work = a.work → s.homeRequest n a x = s.grantGranule n a x) ∧
    (e.task.work ≠ a.work → s.older a e.task = true → s.homeRequest n a x = (s.woundOf e.task).homeWait_ n a x false) ∧
    (e.task.work ≠ a.work → s.older a e.task = false → s.homeRequest n a x = s.homeWait_ n a x false)) ∧
  (∀ (s : State) (n : Nat) (a : TaskAge) (x : Granule) (slot : Bool),
    ((s.slice n).waitList.length < 8 → s.homeWait_ n a x slot =
      s.setSlice n { s.slice n with waitList := (s.slice n).waitList ++ [{ task := a, gran := x, slot := slot }] }) ∧
    (∀ y, 8 ≤ (s.slice n).waitList.length → s.youngest WaitEntry.task (s.slice n).waitList = some y →
      (s.older a y.task = true → s.homeWait_ n a x slot =
        (s.bounce y.task 2).modSlice n (fun h => { h with waitList := h.waitList ++ [{ task := a, gran := x, slot := slot }] })) ∧
      (s.older a y.task = false → s.homeWait_ n a x slot = s.bounce a 2))) ∧
  (∀ (s : State) (n : Nat), (s.slice n).reqs = [] → exec (.granuleRequest n) s = .next s) ∧
  (∀ (s : State) (n : Nat), (s.slice n).rels = [] → exec (.granuleRelease n) s = .next s) ∧
  (∀ (s : State) (g base glog : Nat), (s.strand g).resident = true →
    ({ base := base, glog := glog } ∉ (s.strand g).aset.holds → exec (.granuleGrant g base glog) s =
      .next ((((s.modStrand g (holdMore { base := base, glog := glog })).l1DropCtx (coreOf g) (s.strand g).info.ctx).modStrand g
        (granuleCame { base := base, glog := glog })).lookAgain g)) ∧
    ({ base := base, glog := glog } ∈ (s.strand g).aset.holds → exec (.granuleGrant g base glog) s = .next s)) ∧
  (∀ (s t u : State) (n : Nat) (a : TaskAge) (which : Option Granule) (rest : List (TaskAge × Option Granule)),
    (s.slice n).rels = (a, which) :: rest →
    t = ((((s.slice n).holdTable.filter (released a which)).map (·.gran)).foldl (fun (s : State) x => s.passOn n x)
      (s.setSlice n { s.slice n with holdTable := (s.slice n).holdTable.filter (fun e => !released a which e), rels := rest })).fillTable n
        (s.slice n).waitList.length →
    u = t.modStrand a.work.g (fun t => { t with aset := { t.aset with acks := t.aset.acks - 1 } }) →
    ((t.strand a.work.g).resident = true → (t.strand a.work.g).info.stamp = a.stamp → exec (.granuleRelease n) s =
      .next (if (u.strand a.work.g).aset.rolling && (u.strand a.work.g).aset.acks = 0 then u.dueOnce (.rollbackRestart a.work.g) else u)) ∧
    ((t.strand a.work.g).resident = false ∨ (t.strand a.work.g).info.stamp ≠ a.stamp → exec (.granuleRelease n) s = .next t)) ∧
  (∀ (s : State) (n : Nat) (x : Granule) (e : WaitEntry),
    s.oldest WaitEntry.task ((s.slice n).waitList.filter (fun e => e.gran == x)) = some e →
    s.passOn n x = ((s.unwait n e).grantGranule n e.task x).lookAgain e.task.work.g) ∧
  (∀ (s : State) (n : Nat) (x : Granule), (∀ e ∈ (s.slice n).waitList, e.gran ≠ x) → s.passOn n x = s) ∧
  (∀ (s : State) (stamp : DWord) (restart g : Nat) (t : Strand),
    List.find? (fun x => x.2.resident && x.2.setBound && x.2.info.stamp == stamp && x.2.aset.restarts == restart) s.strands = some (g, t) →
    exec (.wound stamp restart) s = .next (s.markRollback g 1 false)) ∧
  (∀ (s : State) (stamp : DWord) (restart : Nat), (∀ x ∈ s.strands, x.2.resident = true → x.2.setBound = true →
      x.2.info.stamp = stamp → x.2.aset.restarts ≠ restart) → exec (.wound stamp restart) s = .next s) ∧
  (∀ (s : State) (g : Nat), (s.strand g).resident = true → (s.strand g).aset.rolling = true →
    ((s.strand g).runsFirst = true → exec (.rollback g) s = .next (s.dueOnce (.rollback g))) ∧
    ((s.strand g).runsFirst = false → exec (.rollback g) s = .next (s.rollBack g)) ∧
    ((s.strand g).aset.acks = 0 → (s.strand g).aset.fromRecord = false → exec (.rollbackRestart g) s = .next (s.restart g)) ∧
    ((s.strand g).aset.acks = 0 → (s.strand g).aset.fromRecord = true → exec (.rollbackRestart g) s = .next (s.leavePlace g)) ∧
    ((s.strand g).aset.acks ≠ 0 → exec (.rollbackRestart g) s = .next s)) ∧
  (∀ (s : State), s.tokenHeld = true → exec .irrevocableTokenGrant s = .next s) ∧
  (∀ (s : State) (g : Nat), s.tokenHeld = false → s.oldest s.ageOf s.serialWait = some g → (s.strand g).state = .waiting → (s.strand g).more = [] →
    ∃ t, exec .irrevocableTokenGrant s = .next t ∧ t.tokenHeld = true ∧ (∀ h, h ∈ t.serialWait ↔ h ∈ s.serialWait ∧ h ≠ g) ∧
      (t.strand g).aset.token = true ∧ (t.strand g).state = .ready ∧ (∀ h, h ≠ g → t.strand h = s.strand h)) ∧
  (∀ (s : State) (g : Nat), (s.strand g).resident = true → (s.strand g).wait = .retry → (s.strand g).aset.rolling = false →
    (((s.strand g).aset.retryAt - s.podTime).toInt ≤ 0 →
      exec (.asretryDelayExpiry g) s = .next (s.modStrand g Strand.wakeUp)) ∧
    (0 < ((s.strand g).aset.retryAt - s.podTime).toInt → exec (.asretryDelayExpiry g) s = .next s)) ∧
  (∀ (s : State) (g : Nat), (s.strand g).resident = true → (s.strand g).aset.committing = true → (s.strand g).exitStep = 1 →
    (s.strand g).spilt.lines = 0 →
    ((s.strand g).aset.lines = [] → exec (.holdBufferDrainComplete g) s =
      .next (((s.releaseHolds g).returnToken g).modStrand g (fun t => { t with exitStep := 2 }))) ∧
    (∀ i l, i = Config.pick s.free % (s.strand g).aset.lines.length → (s.strand g).aset.lines[i]? = some l →
      exec (.holdBufferDrainComplete g) s = .next (((s.stepFree.writeHeld g l).modStrand g (fun t =>
        { t with aset := { t.aset with lines := t.aset.lines.eraseIdx i } })).dueOnce (.holdBufferDrainComplete g)))) ∧
  (∀ (s : State) (g : Nat), (s.strand g).spilt.lines ≠ 0 ∨ (s.strand g).aset.committing = false →
    exec (.holdBufferDrainComplete g) s = .next s)

/-- R240, R287. The entry of a unit's queue whose pipes read on: its units of staging, or of the row that it runs. -/
def Sys2Proof.Claims.Stages (s : State) (q id : Nat) (e : MEntry) (a : MmaArgs) : Prop :=
  (s.quarter q).mq.find? (fun e => e.id == id && e.staged.isNone && e.fail.isNone && !e.running) = some e ∧ e.kind = .mma a

/-- R278, R286. The row that the running MMA of a unit is at, one that is selected and that no byte has stopped. -/
def Sys2Proof.Claims.AtRow (s : State) (q : Nat) (e : MEntry) (a : MmaArgs) (st : Staging) : Prop :=
  (s.quarter q).current = some e ∧ e.kind = .mma a ∧ e.staged = some st ∧ e.row < 64

/-- Events of a quarter's matrix unit: its load pipes read the units of an MMA's staging, any number of them in a step, and
the whole is a staging buffer; the unit starts the oldest ready MMA; the pipes read for each row of the running one, which
commits as the rule of its format says; a byte that cannot be read suspends it; the last row ends it; and a word of a tile's
port reads or writes the tile. An Idle unit asks the governor, which grants, returns and releases units within its limit at
each boundary and charges the fillers of those that are Stopping. -/
def Sys2Proof.Claims.matrixUnitEvents : Prop :=
  (∀ (s t : State) (q id : Nat) (e e' : MEntry) (a : MmaArgs), Stages s q id e a → s.pipeStep e (stageUnits a) = (t, e') →
    ((stageUnits a).length ≤ e'.pos → exec (.mmaStagingComplete q id) s =
      .next ((t.putM q { e' with staged := some (stagingOf a e'.got.bytes), pos := 0, got := {} }).kickM q)) ∧
    (e'.pos < (stageUnits a).length →
      (e'.fail.isSome = true → exec (.mmaStagingComplete q id) s = .next ((t.putM q e').kickM q)) ∧
      (e'.fail = none → e'.pos = e.pos → exec (.mmaStagingComplete q id) s = .next (t.putM q e')) ∧
      (e'.fail = none → e'.pos ≠ e.pos → exec (.mmaStagingComplete q id) s =
        .next ((t.putM q e').dueOnce (.mmaStagingComplete q id))))) ∧
  (∀ (s : State) (e : MEntry) (units : List PipeUnit),
    (units.drop e.pos = [] → s.pipeStep e units = (s, e)) ∧
    (units.drop e.pos ≠ [] → s.pipeStep e units =
      s.stepFree.readUnits e (units.drop e.pos) (1 + Config.pick s.free % (units.drop e.pos).length))) ∧
  (∀ (s t v : State) (e : MEntry) (u : PipeUnit) (l : List PipeUnit) (n : Nat) (x : PipeRes), s.blockWaits e u l = (v, false) →
    v.pipeUnit e u = (t, x) →
    (x = .wait → s.readUnits e (u :: l) (n + 1) = (t, e)) ∧
    (∀ y, x = .stop y → s.readUnits e (u :: l) (n + 1) = (t, { e with fail := some y })) ∧
    (∀ b p, x = .ok b p → s.readUnits e (u :: l) (n + 1) =
      (t.landUnit e u.n p).readUnits ((t.takeScale e u).took (e.valueOf u b) p) l
        (if l.head?.any (fun x => x.inside) then n + 1 else n))) ∧
  (∀ (s v : State) (e : MEntry) (u : PipeUnit) (l : List PipeUnit) (n : Nat), s.blockWaits e u l = (v, true) →
    s.readUnits e (u :: l) (n + 1) = (v, e)) ∧
  (∀ (s : State) (e : MEntry) (u : PipeUnit) (l : List PipeUnit),
    (u.lead = 0 → s.blockWaits e u l = (s, false)) ∧
    (u.lead ≠ 0 → s.blockWaits e u l = s.anyWaits e (u :: l.take u.lead ++ u.scaleUnit.toList))) ∧
  (∀ (e : MEntry) (u : PipeUnit) (b : List Byte) (x : Nat × Byte),
    (u.opnd < 2 → e.valueOf u b = b) ∧
    (2 ≤ u.opnd → e.got.scales.find? (fun y => y.1 == u.va) = some x → e.valueOf u b = [x.2])) ∧
  (∀ (s : State) (q : Nat) (e : MEntry), (s.quarter q).ready = some e → (s.quarter q).current = none →
    ((s.quarter q).unit = .running →
      exec (.mmaStart q) s = .next ((s.setQuarter q { s.quarter q with
        mq := updWhere (fun m => m.id == e.id) (fun m => { m with running := true }) (s.quarter q).mq,
        lastWork := e.work }).dueOnce (.mmaRowCommit q))) ∧
    ((s.quarter q).unit = .idle → exec (.mmaStart q) s = .next ((s.setQuarter q { s.quarter q with request := true }).governM q)) ∧
    ((s.quarter q).unit = .stopping → exec (.mmaStart q) s = .next (s.governM q))) ∧
  (∀ (s : State) (q : Nat), (s.quarter q).ready = none ∨ (s.quarter q).current ≠ none → exec (.mmaStart q) s = .next s) ∧
  (∀ (s : State) (q : Nat), (s.quarter q).current = none → exec (.mmaRowCommit q) s = .next s ∧ exec (.mmaComplete q) s = .next s) ∧
  (∀ (s : State) (q : Nat) (e : MEntry) (a : MmaArgs) (st : Staging), AtRow s q e a st →
    (rowSelected a.sel e.row = false →
      exec (.mmaRowCommit q) s = .next ((s.land e.work [(19, 2, qDom q)]).nextRow q e)) ∧
    (rowSelected a.sel e.row = true → e.fail.isSome = true → exec (.mmaRowCommit q) s = .next (s.kickM q)) ∧
    (∀ t e', rowSelected a.sel e.row = true → e.fail = none → s.pipeStep e (rowUnitsOf a e.row) = (t, e') →
      ((rowUnitsOf a e.row).length ≤ e'.pos → exec (.mmaRowCommit q) s = .next (t.commitRow q e' a st)) ∧
      (e'.pos < (rowUnitsOf a e.row).length →
        (e'.fail.isSome = true → exec (.mmaRowCommit q) s = .next (((t.stallRow q e').putM q e').kickM q)) ∧
        (e'.fail = none → e'.pos = e.pos → exec (.mmaRowCommit q) s = .next (t.putM q e')) ∧
        (e'.fail = none → e'.pos ≠ e.pos → exec (.mmaRowCommit q) s = .next ((t.putM q e').dueOnce (.mmaRowCommit q)))))) ∧
  (∀ (s u : State) (q : Nat) (e : MEntry) (a : MmaArgs) (st : Staging) (n : Nat), n = (layoutOf a.la).rowBytes a.fmt true →
    u = (if (rowUnitsOf a e.row).isEmpty then s else s.stallRow q e) →
    s.commitRow q e a st = ((((u.land e.work [(mmaClass a.fmt, mmaK a.fmt / 64, qDom q)]).countEv (coreOfQuarter q) 0x05 e.work.ctx 1).modTile q
      e.tile (fun t => { t with data := mmaRow a st (e.got.bytes.take n) (e.got.bytes.drop n) e.row t.data })).nextRow q e)) ∧
  (∀ (s : State) (q : Nat) (e : MEntry) (x : PipeStop), (s.quarter q).stops = some (e, x) →
    exec (.mmaSuspension q) s = .next (s.suspendM q e e.row x)) ∧
  (∀ (s : State) (q : Nat), (s.quarter q).stops = none → exec (.mmaSuspension q) s = .next s) ∧
  (∀ (a : MmaArgs) (st : Staging) (row sc : List Byte) (i : Nat) (d : Words) (n : Nat), i < 64 →
    (n < 64 * i ∨ 64 * i + 64 ≤ n → (mmaRow a st row sc i d).get n = d.get n) ∧
    (∀ j, j < 64 → n = 64 * i + j →
      (mmaRow a st row sc i d).get n = mmaElem a st sc j (d.get n) (aValues a st row i) (bValues a st j) 0 (mmaK a.fmt / 32))) ∧
  (∀ (s : State) (q : Nat) (e : MEntry), (s.quarter q).current = some e → 64 ≤ e.row →
    exec (.mmaRowCommit q) s = .next (s.dueOnce (.mmaComplete q)) ∧
    exec (.mmaComplete q) s = .next ((((s.modTile q e.tile (fun t => { t with rp := 0 })).dropM q e.id).kickM q).endRun q)) ∧
  (∀ (s : State) (q tile : Nat) (e : MEntry), (s.quarter q).mq.find? (fun e => e.tile == tile) = some e →
    (e.kind.isMma = true → exec (.tilePortComplete q tile) s = .next s) ∧
    (∀ sel reg blk, e.kind = .mtov sel reg blk →
      ((s.dropM q e.id).liveWork e.work = true → exec (.tilePortComplete q tile) s =
        .next (((s.dropM q e.id).modStrand e.work.g (fun t =>
          t.portRead ((s.quarter q).tileSt tile).data sel reg blk e.id)).kickM q)) ∧
      ((s.dropM q e.id).liveWork e.work = false → exec (.tilePortComplete q tile) s = .next ((s.dropM q e.id).kickM q))) ∧
    (∀ sel, e.kind = .mzero sel →
      exec (.tilePortComplete q tile) s =
        .next (((s.dropM q e.id).modTile q tile (fun t => { t with data := portWrite (.mzero sel) t.data })).kickM q)) ∧
    (∀ sel blk vals, e.kind = .mfromv sel blk vals →
      exec (.tilePortComplete q tile) s =
        .next (((s.dropM q e.id).modTile q tile (fun t => { t with data := portWrite (.mfromv sel blk vals) t.data })).kickM q)) ∧
    (∀ id put, e.kind = .mdrain id →
      put = (fun (r : CopyReq) => { r with drain := (List.range 4096).map (fun i => ((s.quarter q).tileSt tile).data.get i) }) →
      exec (.tilePortComplete q tile) s =
        .next ((((s.dropM q e.id).modCore (coreOfQuarter q) (fun c => { c with creq := updWhere (fun r => r.id == id) put c.creq })).dueOnce
          (.copyRequestStart (coreOfQuarter q) id)).kickM q))) ∧
  (∀ (sel : Word) (d : Words) (i j : Nat), j < 64 →
    (portWrite (.mzero sel) d).get (64 * i + j) = if rowSelected sel i then 0 else d.get (64 * i + j)) ∧
  (∀ (s u v w x : State) (die lim : Nat) (qs : List (Nat × QuarterSt)),
    qs = s.quarters.filter (fun x => dieOfCore (coreOfQuarter x.1) == die) →
    lim = slewLimit (qs.filter (fun x => x.2.unit != .idle)).length →
    u = (qs.filter (fun x => x.2.unit == .stopping)).foldl (fun (s : State) x => s.fillM x.1) s →
    v = ((qs.filter (fun x => x.2.unit == .idle && x.2.request)).take
      (min lim (128 - (qs.filter (fun x => x.2.unit != .idle)).length))).foldl (fun (s : State) x => s.grantM x.1) u →
    w = ((qs.filter (fun x => x.2.unit == .stopping)).filter (fun x => x.2.ready.isSome)).foldl
      (fun (s : State) x => (s.modQuarter x.1 (fun y => { y with unit := .running })).kickM x.1) v →
    x = ((((qs.filter (fun x => x.2.unit == .stopping)).filter (fun x => x.2.ready.isNone)).foldl (fun l x => insertStop x l) []).take lim).foldl
      (fun (s : State) x => s.releaseM x.1) w →
    exec (.governorStepBoundary die) s =
      .next (if x.quarters.any (fun y => dieOfCore (coreOfQuarter y.1) == die && (y.2.unit == .stopping || (y.2.unit == .idle && y.2.request)))
             then x.dueOnce (.governorStepBoundary die) else x)) ∧
  (∀ (a : Nat), slewLimit a = if a < 8 then 2 else if a < 16 then 4 else if a < 32 then 8 else if a < 64 then 16 else 32) ∧
  (∀ (s : State) (q : Nat), s.quarterRuns q = false → s.fillM q = s) ∧
  (∀ (s : State) (q : Nat) (x : QuarterSt), x = s.quarter q → s.quarterRuns q = true →
    s.fillM q = (let t := s.setQuarter q { x with stopRun := x.stopRun + s.boundary q, stopDone := (x.stopRun + 699) / 700 }
      if (x.stopRun + 699) / 700 = x.stopDone then t else t.land x.lastWork [(19, (x.stopRun + 699) / 700 - x.stopDone, qDom q)]))

/-- R115. The value of a finite number in units of 2^E, for E at most its exponent. -/
def Sys2Proof.Claims.exactIn (E : Int) : FVal → Int
  | .fin n m e => (if n then -(m : Int) else m) * 2 ^ (e - E).toNat
  | _ => 0

/-- R115. An element of a row takes its K-blocks of 32 products in ascending order. A product is exact, with the exclusive OR of
its factors' signs; a block sum is exact, −0 only when every product is; the block is multiplied by both scales in the MX
formats; and it is added to the element with one rounding to nearest even. NaN, 0 × ∞ and ∞ − ∞ make the sum NaN, and
another infinity makes it infinite. -/
def Sys2Proof.Claims.matrixElements : Prop :=
  (∀ (a : MmaArgs) (st : Staging) (sc : List Byte) (j kb n : Nat) (acc : Word) (av bv : List FVal) (b x y p : FVal),
    b = blockSum (List.zipWith mulX (av.take 32) (bv.take 32)) →
    x = scaleValue a.fms (a.fms.get (layoutOf a.la).fmt) (sc.getD kb 0).toNat →
    y = scaleValue a.fms (a.fms.get (layoutOf a.lb).fmt) ((st.scales.getD j []).getD kb 0).toNat →
    p = (if a.fmt = 4 ∨ a.fmt = 5 then mulX (mulX b x) y else b) →
    mmaElem a st sc j acc av bv kb 0 = acc ∧
    mmaElem a st sc j acc av bv kb (n + 1) = mmaElem a st sc j (accumulate acc p) (av.drop 32) (bv.drop 32) (kb + 1) n) ∧
  (∀ (n n' : Bool) (m m' : Nat) (e e' : Int), mulX (.fin n m e) (.fin n' m' e') = .fin (n != n') (m * m') (e + e') ∧
    mulX (.fin n 0 e) (.inf n') = .nan false ∧ mulX (.inf n') (.fin n 0 e) = .nan false ∧
    (m ≠ 0 → mulX (.fin n m e) (.inf n') = .inf (n != n') ∧ mulX (.inf n') (.fin n m e) = .inf (n' != n)) ∧
    mulX (.inf n) (.inf n') = .inf (n != n')) ∧
  (∀ (x y : FVal), x.isNaN = true ∨ y.isNaN = true → (mulX x y).isNaN = true) ∧
  (∀ (l : List FVal), (∃ x ∈ l, x.isNaN = true) ∨ (.inf true ∈ l ∧ .inf false ∈ l) → blockSum l = .nan false) ∧
  (∀ (l : List FVal) (n : Bool), (∀ x ∈ l, x.isNaN = false) → .inf n ∈ l → .inf (!n) ∉ l → blockSum l = .inf n) ∧
  (∀ (l : List FVal) (E : Int), (∀ x ∈ l, ∃ n m e, x = .fin n m e ∧ E ≤ e) →
    (∃ n m e, blockSum l = .fin n m e) ∧ exactIn E (blockSum l) = (l.map (exactIn E)).sum ∧
    ((l.map (exactIn E)).sum = 0 → blockSum l = .fin (l.all (fun x => x.isZero && x.neg)) 0 0)) ∧
  (∀ (acc : Word) (n : Bool) (m : Nat) (e E total : Int), f32Finite acc → E ≤ e → E ≤ -149 →
    total = f32Val acc * 2 ^ (-149 - E).toNat + exactIn E (.fin n m e) →
    (total ≠ 0 → ∃ flags, f32Rounds 0 (decide (total < 0)) total.natAbs E ((accumulate acc (.fin n m e)).toNat, flags)) ∧
    (total = 0 → accumulate acc (.fin n m e) = if acc.msb && n then 0x80000000 else 0)) ∧
  (∀ (acc : Word) (n : Bool) (m : Nat) (e : Int),
    (0x7F800000 < acc.toNat % 2 ^ 31 → accumulate acc (.fin n m e) = 0x7FC00000 ∧ accumulate acc (.inf n) = 0x7FC00000) ∧
    accumulate acc (.nan false) = 0x7FC00000 ∧
    (f32Finite acc → accumulate acc (.inf n) = if n then 0xFF800000 else 0x7F800000) ∧
    (acc = 0x7F800000 → accumulate acc (.fin n m e) = acc ∧ accumulate acc (.inf true) = 0x7FC00000 ∧
      accumulate acc (.inf false) = acc) ∧
    (acc = 0xFF800000 → accumulate acc (.fin n m e) = acc ∧ accumulate acc (.inf false) = 0x7FC00000 ∧
      accumulate acc (.inf true) = acc))

/-- R115, R277 to R288, R356, R357. Events of a quarter's matrix unit and of the governor, and the arithmetic of an element of a
row. -/
def Obligations.MatrixEvents : Prop :=
  Sys2Proof.Claims.matrixElements ∧ Sys2Proof.Claims.matrixUnitEvents

/-- Events of a copy engine: a request starts once its shape record is read and checked, a list's entry becomes the
request, the next chunk begins when all of its bytes can move, moves its pieces, is charged and is credited, the last one
ends the request, and a failed or cancelled request ends with its status. -/
def Obligations.CopyEvents : Prop :=
  (∀ (s : State) (core id : Nat), s.creq? core id = none →
    exec (.copyRequestStart core id) s = .next s ∧ exec (.ckickEntryFetch core id) s = .next s ∧
    exec (.copyChunkComplete core id) s = .next s ∧ exec (.copyRequestComplete core id) s = .next s ∧
    exec (.copyFailure core id) s = .next s ∧ exec (.copyCancelEffect core id) s = .next s) ∧
  (∀ (s : State) (core id : Nat) (r : CopyReq), s.creq? core id = some r → r.started = false → r.failed = none →
    (6 ≤ r.form → r.drain = [] → exec (.copyRequestStart core id) s = .next s) ∧
    (r.form < 6 ∨ r.drain ≠ [] → r.regs = [] → exec (.copyRequestStart core id) s = .next (s.dueOnce (.ckickEntryFetch core id))) ∧
    (r.form < 6 ∨ r.drain ≠ [] → r.regs ≠ [] →
      (∀ t f, s.copyPlaces r.waiter r.work .load 2 (r.pair 0) 128 = (t, .error (.fail f)) →
        exec (.copyRequestStart core id) s = .next (t.failReq core r f)) ∧
      (∀ t, s.copyPlaces r.waiter r.work .load 2 (r.pair 0) 128 = (t, .error .wait) → exec (.copyRequestStart core id) s = .next t) ∧
      (∀ t ps x, s.copyPlaces r.waiter r.work .load 2 (r.pair 0) 128 = (t, .ok ps) →
        x = shapeOf (ps.flatMap (fun p => t.homeBytes core p 1)) →
        (r.shapeOk x = true → t.gateRefuses r x.shape = false →
          exec (.copyRequestStart core id) s =
            .next ((t.modReq core id (fun y =>
              { y with shape := some x.shape, started := true, done := [], part := [], turn := t.nextId })).takeId.dueOnce
                (.copyChunkComplete core id))) ∧
        (r.shapeOk x = false → exec (.copyRequestStart core id) s = .next (t.failReq core r { code := 4 })) ∧
        (r.shapeOk x = true → t.gateRefuses r x.shape = true →
          exec (.copyRequestStart core id) s = .next (t.failReq core r { code := 5 }))))) ∧
  (∀ (s u : State) (core id : Nat) (r : CopyReq) (off n i form : Nat) (ws regs : List Word), s.creq? core id = some r →
    r.failed = none → r.regs = [] → r.list = some (off, n, i) → i < n →
    ws = wordsOf ((s.core (r.windowOf.winPlace (off + 32 * i)).1).readSp (r.windowOf.winPlace (off + 32 * i)).2 32) →
    form = (ws.getD 0 0).toNat % 8 → regs = ws.set 0 (BitVec.ofNat 32 ((ws.getD 0 0).toNat / 8 * 8)) →
    u = s.land r.work [(8, 8, qDom r.work.q)] →
    (6 ≤ form → exec (.ckickEntryFetch core id) s = .next (u.failReq core r { code := 4 })) ∧
    (∀ t, form < 6 → checkCopy form regs r.windowOf.winSize = some t → exec (.ckickEntryFetch core id) s =
      .next (u.failReq core r { code := (if t.cause = .spadRange then 3 else 4), va := t.va, spad := (decide (t.cause = .spadRange)) })) ∧
    (form < 6 → checkCopy form regs r.windowOf.winSize = none → exec (.ckickEntryFetch core id) s =
      .next ((u.modReq core id (fun y =>
        { y with form := form, regs := regs, started := false, shape := none, done := [], tagged := [], part := [] })).dueOnce
          (.copyRequestStart core id)))) ∧
  (∀ (s : State) (core id : Nat) (r : CopyReq) (sh : Shape), s.creq? core id = some r → r.started = true → r.failed = none →
    r.shape = some sh → r.chunk = none →
    (r.nextLine sh = none → exec (.copyChunkComplete core id) s = .next (s.dueOnce (.copyRequestComplete core id))) ∧
    (∀ line, r.nextLine sh = some line → s.hasTurn core r = false →
      exec (.copyChunkComplete core id) s = .next (s.dueOnce (.copyChunkComplete core id))) ∧
    (∀ line ps t x, r.nextLine sh = some line → s.hasTurn core r = true → ps = ((r.chunkBytes sh line).map (·.1)).eraseDups →
      s.checkPieces r sh line ps = (t, x) →
      (x = none → exec (.copyChunkComplete core id) s =
        .next ((t.takeId.modReq core id (fun z => { z with chunk := some { line := line, left := ps }, turn := t.nextId })).dueOnce
          (.copyChunkComplete core id))) ∧
      (x = some .wait → exec (.copyChunkComplete core id) s = .next t) ∧
      (∀ f, x = some (.fail f) → exec (.copyChunkComplete core id) s = .next (t.failReq core r f)))) ∧
  (∀ (s t u : State) (core id : Nat) (r r' : CopyReq) (sh : Shape) (ch ch' : CopyChunk) (x : Option CopyStop),
    s.creq? core id = some r → r.started = true → r.failed = none → r.shape = some sh → r.chunk = some ch →
    s.stepFree.movePieces r sh ch
      (r.joined sh ch.line ch.left 16 (ch.left.take (1 + Config.pick s.free % max 1 ch.left.length))) = (t, r', ch', x) →
    u = t.modReq core id (fun z => { z with tagged := r'.tagged, part := r'.part, chunk := some ch' }) →
    (x = some .wait → exec (.copyChunkComplete core id) s = .next u) ∧
    (∀ f, x = some (.fail f) → exec (.copyChunkComplete core id) s = .next ((u.chargeChunk r' ch').failReq core r' f)) ∧
    (x = none → exec (.copyChunkComplete core id) s =
      .next (if ch'.left = [] then u.endChunk core r' sh ch' else u.dueOnce (.copyChunkComplete core id)))) ∧
  (∀ (s u v : State) (core n : Nat) (r : CopyReq) (sh : Shape) (ch : CopyChunk), n = (r.chunkBytes sh ch.line).length →
    u = (s.chargeChunk r ch).countEv core 0x0B r.work.ctx n → v = (if u.rolled.contains r.work.inc then u else u.credit r n) →
    s.endChunk core r sh ch =
      (v.modReq core r.id (fun z => { z with done := ch.line :: z.done, tagged := r.tagged, part := r.part, chunk := none })).dueOnce
        (if r.cancel then .copyCancelEffect core r.id else .copyChunkComplete core r.id)) ∧
  (∀ (s : State) (core id : Nat) (r : CopyReq), s.creq? core id = some r → r.started = true → r.failed = none →
    (r.list = none → exec (.copyRequestComplete core id) s = .next (s.endReq core r 0)) ∧
    (∀ off n i, r.list = some (off, n, i) →
      (i + 1 < n → exec (.copyRequestComplete core id) s =
        .next ((s.modReq core id (fun y =>
          { y with list := some (off, n, i + 1), regs := [], started := false, shape := none, done := [], part := [] })).dueOnce
            (.ckickEntryFetch core id))) ∧
      (n ≤ i + 1 → exec (.copyRequestComplete core id) s = .next (s.endReq core r 0)))) ∧
  (∀ (s : State) (core id : Nat) (r : CopyReq), s.creq? core id = some r →
    (r.failed = none → exec (.copyFailure core id) s = .next s) ∧
    (∀ t, r.failed = some t →
      exec (.copyFailure core id) s = .next ((s.failHandle r.own r.handle r.exported r.handlerWork t).endReq core r r.status)) ∧
    (r.cancel = true → r.failed = none → r.chunk = none → exec (.copyCancelEffect core id) s = .next (s.endReq core r 1)) ∧
    (r.cancel = false ∨ r.failed.isSome = true ∨ r.chunk.isSome = true → exec (.copyCancelEffect core id) s = .next s))

/-! ### Events of energy, halting, traps and counters -/

/-- Events of the energy clocks and of operating points: a changed point takes effect at its restart, and the words
on the rods go on, firmware sets an allowance, a draw is granted to a context whose level reaches 4 units and refused otherwise, a resident strand is charged
for its clock, windows and ticks reckon, a tick refills every bucket and serves the refused purses, writes to an energy block act at once or at the next tick, records are made each
second, and the frames of a cap round are taken by the master and by the package they name. -/
def Sys2Proof.Claims.energyClockEvents : Prop :=
  (∀ (s : State) (part : Nat),
    (∀ v, (s.part part).chg = some v →
      exec (.opChangeClockRestart part) s = .next (((s.modPart part (fun p => { p with op := v, chg := none })).settlePoint part).retryFlights
        (fun g => (s.strand g).info.part == part))) ∧
    ((s.part part).chg = none → exec (.opChangeClockRestart part) s = .next s) ∧
    (∀ op m, exec (.firmwareSetAllowance part op m) s = .next (s.setAllowance part op m))) ∧
  (∀ (s : State), s.draws = [] → exec .drawServed s = .next s) ∧
  (∀ (s : State) (q ctx : Nat) (l : List (Nat × Nat)), s.draws = (q, ctx) :: l →
    (4 ≤ (s.ctx ctx).level →
      exec .drawServed s = .next (((({ s with draws := l } : State).grantDraw q ctx).drawCheck q ctx).releaseHeld q ctx)) ∧
    ((s.ctx ctx).level < 4 →
      exec .drawServed s = .next (({ s with draws := l } : State).setPurse q ctx
        { ({ s with draws := l } : State).purse q ctx with drawing := false, refused := true, counted := false }))) ∧
  (∀ (s : State) (g : Nat),
    ((s.strand g).resident = true → (s.strand g).spilt.slot = false → (s.part (s.strand g).info.part).chg = none →
      exec (.residentIdleCharge g) s = .next (s.land (s.workOf g) [(20, 1, qDom (quarterOf g))])) ∧
    ((s.strand g).resident = false → exec (.residentIdleCharge g) s = .next s)) ∧
  (∀ (s : State) (m : List (Nat × Int)),
    exec (.reckoningWindowClose m) s = .next (s.reckon m) ∧
    (∀ t u v : State, t = { s.reckon m with ctxs := (s.reckon m).ctxs.map (fun x => (x.1, x.2.takeWrites.deficitOnce.refillOnce)) } →
      u = (match t.refusedPurses with | [] => t | x :: _ => { t with tickStart := x.1 }) →
      v = t.refusedPurses.foldl (fun (s : State) x => s.releaseHeld x.1 x.2) (u.retryPasses 40000 t.refusedPurses) →
      exec (.refillTick m) s =
        .next ((v.quarters.flatMap (fun x => x.2.purses.map (fun p => (x.1, p.1)))).foldl (fun (u : State) x => u.settlePurse x.1 x.2) v))) ∧
  (∀ (s : State) (q ctx : Nat),
    (4 ≤ (s.ctx ctx).level → s.retryPass [(q, ctx)] = s.grantDraw q ctx) ∧
    ((s.ctx ctx).level < 4 → s.retryPass [(q, ctx)] = s)) ∧
  (∀ (c : Ctx), c.refillOnce = { c with level := min (c.level + c.refill) c.cap }) ∧
  (∀ (s : State) (ctx : Nat) (c : Ctx), s.ctxs.find? ctx = some c →
    (∀ v, ∃ t, exec (.energyBlockWrite ctx (.level v)) s = .next t ∧ t.ctx ctx = { c with level := (BitVec.ofInt 64 v).toInt }) ∧
    (∀ v, ∃ t, exec (.energyBlockWrite ctx (.cap v)) s = .next t ∧ t.ctx ctx = { c with nextCap := some (v % 2 ^ 32) }) ∧
    (∀ v, ∃ t, exec (.energyBlockWrite ctx (.refill v)) s = .next t ∧ t.ctx ctx = { c with nextRefill := some (v % 2 ^ 32) }) ∧
    (∀ v, ∃ t, exec (.energyBlockWrite ctx (.quantum v)) s = .next t ∧ t.ctx ctx = { c with nextQuantum := some (v % 2 ^ 16) }) ∧
    (∀ v, ∃ t, exec (.energyBlockWrite ctx (.eopok v)) s = .next t ∧ t.ctx ctx = { c with eopok := v }) ∧
    (∀ v, ∃ t, exec (.energyBlockWrite ctx (.tenant v)) s = .next t ∧ t.ctx ctx = { c with tenant := v })) ∧
  (∀ (s : State), (∀ x ∈ s.ctxs, x.2.metered = false) → ∃ t, exec .meterRecordSecond s = .next t ∧ t.ctxs = s.ctxs ∧ t.pkg = s.pkg) ∧
  (∀ (s : State) (ctx : Nat) (c : Ctx), s.ctxs = [(ctx, c)] → c.metered = true →
    ∃ t, exec .meterRecordSecond s = .next t ∧ (t.ctx ctx).mseq = c.mseq + 1 ∧
      (t.ctx ctx).meterMark = (c.account, c.resid, c.holdCount) ∧ Event.meterBatchWrite ∈ t.pending) ∧
  (∀ (s : State) (d f : Nat),
    (s.pkg.capMaster = false →
      ∃ t, exec (.wyariRound d f) s = .next t ∧ t.pkg.round = (s.pkg.round + 1) % 2 ^ 32 ∧ t.pkg.floor = f ∧
        t.pkg.capMiss = s.pkg.capMiss + 1 ∧ t.pkg.cap = (if 4 ≤ s.pkg.capMiss + 1 then f else s.pkg.cap) ∧
        t.out = (match s.portTo s.pkg.master with
          | some port => .pod port s.pkg.master (.demand ((s.pkg.round + 1) % 2 ^ 32) s.pkg.num d f) :: s.out
          | none => s.out)) ∧
    (s.pkg.capMaster = true → ∀ u : State, u = s.answerRound →
      exec (.wyariRound d f) s = .next (({ u with pkg := { u.pkg with
        round := (u.pkg.round + 1) % 2 ^ 32, demands := [], floor := f, capMiss := u.pkg.capMiss + 1,
        cap := if 4 ≤ u.pkg.capMiss + 1 then f else u.pkg.cap } } : State).putDemand u.pkg.num d f)) ∧
    (∀ pkg, s.pkg.capMaster = true → exec (.demand s.pkg.round pkg d f) s = .next (s.putDemand pkg d f)) ∧
    (∀ r pkg, s.pkg.capMaster = false ∨ r ≠ s.pkg.round → exec (.demand r pkg d f) s = .next s) ∧
    (∀ cap pc, exec (.grant s.pkg.round s.pkg.num cap pc) s =
      .next { s with pkg := { s.pkg with cap := cap, capMiss := 0, podCap := pc } }) ∧
    (∀ r pkg cap pc, pkg ≠ s.pkg.num ∨ r ≠ s.pkg.round → exec (.grant r pkg cap pc) s = .next s))

/-- R352. The beads charged in a domain in the window, by context. -/
def Sys2Proof.Claims.charged (s : State) (d : Nat) : List (Nat × Nat) :=
  (s.windowCharge.filter (fun x => x.1 / 4096 == d && 0 < x.2)).map (fun x => (x.1 % 4096, x.2))

/-- R352, R353. The end of a window. In each of the 145 domains the residual is what was measured less what was charged. With
nothing charged it is unattributed; else each context that was charged takes the floor of its share, and the one with the
largest charge, ties to the lowest number, takes what is left too. A share leaves the bucket as nJ with carry and enters
ACCOUNT and RESID. The correction factor moves to round(F × E_m / E_c), half up, within three and five quarters of F and within
its own bounds, when at least 1,600,000 beads were charged. -/
def Sys2Proof.Claims.windowReckoning : Prop :=
  (∀ (s : State) (m : List (Nat × Int)), exec (.reckoningWindowClose m) s =
    .next { (List.range 145).foldl (fun (s : State) d => s.reckonDomain m d) s with windowCharge := [] }) ∧
  (∀ (s : State) (m : List (Nat × Int)) (d : Nat) (em : Int) (l : List (Nat × Nat)), l = charged s d →
    em = ((m.find? (fun x => x.1 == d)).map (·.2)).getD 0 →
    (l = [] → s.reckonDomain m d =
      { s with unattributed := s.unattributed.insert d ((s.unattributed.find? d).getD 0 + em) }) ∧
    (∀ (t : State) (ec : Nat) (res rest : Int) (share : Nat → Int), l ≠ [] → (l.map (·.1)).Nodup → t = s.reckonDomain m d →
      ec = (l.map (·.2)).sum → res = em - ec → (∀ n, share n = res * (n : Int) / ec) → rest = res - (l.map (fun x => share x.2)).sum →
      (∀ x ∈ l, ∀ total, total = share x.2 + (if ∀ y ∈ l, y.2 < x.2 ∨ (y.2 = x.2 ∧ x.1 ≤ y.1) then rest else 0) →
        t.ctx x.1 = { s.ctx x.1 with
          level := (s.ctx x.1).level - ((s.ctx x.1).residCarry + total) / 16000,
          residCarry := ((s.ctx x.1).residCarry + total) % 16000,
          account := (s.ctx x.1).account + total, resid := (s.ctx x.1).resid + total }) ∧
      (∀ c, (∀ x ∈ l, x.1 ≠ c) → t.ctx c = s.ctx c) ∧
      (1600000 ≤ ec → ∀ f n, f = s.corrOf d → n = (2 * f * em.toNat + ec) / (2 * ec) →
        t.corrOf d = max 0x2000 (min (max (f * 3 / 4) (min n (f * 5 / 4))) 0x7FFF)) ∧
      (ec < 1600000 → t.corrOf d = s.corrOf d) ∧ (∀ e, e ≠ d → t.corrOf e = s.corrOf e) ∧
      { t with ctxs := s.ctxs, corr := s.corr } = s))

/-- R345 to R353, R359 to R363. Events of the energy clocks, of the meters and of the operating points, and what the end of a
window reckons. -/
def Obligations.EnergyEvents : Prop :=
  Sys2Proof.Claims.energyClockEvents ∧ Sys2Proof.Claims.windowReckoning

/-- Events of halts, switches, claims and counters: a hold that outlasts the limit halts its strand, a context whose
strands have all halted is halted, a claimed unit is written out, a resuming strand gets its units back, and a session
opens, closes, is read, and reports a wrap. -/
def Obligations.HaltAndCounterEvents : Prop :=
  (∀ (s : State) (g : Nat),
    ((s.strand g).resident = true → (s.strand g).state = .held → exec (.holdLimitExpiry g) s = .next (s.haltStrand g)) ∧
    ((s.strand g).state ≠ .held → exec (.holdLimitExpiry g) s = .next s)) ∧
  (∀ (s : State) (ctx : Nat),
    ((s.ctx ctx).state ≠ .halting → exec (.partitionHaltComplete ctx) s = .next s) ∧
    ((s.ctx ctx).state = .halting → (s.haltSweep ctx).allHalted ctx = true →
      exec (.partitionHaltComplete ctx) s = .next ((s.haltSweep ctx).haltDone ctx)) ∧
    ((s.ctx ctx).state = .halting → (s.haltSweep ctx).allHalted ctx = false →
      exec (.partitionHaltComplete ctx) s = .next (s.haltSweep ctx))) ∧
  (∀ (s : State) (part out inc : Nat), s.parts.find? part = none → exec (.partitionSwitch part out inc) s = .next s) ∧
  (∀ (s t : State) (part out inc : Nat) (p : Partition) (want : Option Nat), s.parts.find? part = some p →
    want = (if (s.ctxs.find? inc).isSome ∧ (s.ctx inc).part = part then some inc else none) →
    ((s.ctxs.find? out).isSome = true → (s.ctx out).part = part → (s.ctx out).state = .running ∨ (s.ctx out).state = .halting →
      t = (((s.modPart part (fun p => { p with incoming := want })).modCtx out (fun c => { c with state := .halting })).haltSweep out) →
      exec (.partitionSwitch part out inc) s = .next (if t.allHalted out then t.haltDone out else t)) ∧
    (s.ctxs.find? out = none ∨ (s.ctx out).part ≠ part ∨ ((s.ctx out).state ≠ .running ∧ (s.ctx out).state ≠ .halting) →
      (want = none → exec (.partitionSwitch part out inc) s = .next (s.modPart part (fun p => { p with incoming := none }))) ∧
      (want = some inc → exec (.partitionSwitch part out inc) s =
        .next (((s.modPart part (fun p => { p with incoming := some inc })).modPart part (fun p => { p with incoming := none })).resumeContext inc)))) ∧
  (∀ (s t u : State) (id : Nat) (c : Claim), s.claims.find? (fun c => c.id == id) = some c →
    (s.claimReady c = false → exec (.spillComplete id) s = .next s) ∧
    (s.claimReady c = true → (s.strand c.g).resident = true →
      (∀ core off, c.kind = .spad core off → ∃ b ∈ (s.core core).blocks, b.off = off ∧ b.exitPending = false) →
      t = ({ s with claims := s.claims.filter (fun x => x.id != id) } : State).chargeUnit c.g c.claimer c.kind true →
      u = t.memWrite { host := false, addr := (t.unitImage c.g c.kind).1 } (t.unitImage c.g c.kind).2 →
      exec (.spillComplete id) s =
        .next ((u.spillUnit c.g c.kind).dueOnce (.dispatchPlacement (u.ctx c.claimer).part)))) ∧
  (∀ (s : State) (g : Nat), (s.strand g).resident = true → (s.strand g).state = .halted → (s.strand g).resuming = true →
    s.claimed g = false → (s.strand g).aset.rolling = false →
    (∀ u v, s.refillPlan g = some [] → u = (if s.onlyLines g then s.refillLine g else s.refillAll g) →
      v = (if (u.strand g).spilt.lines = 0 ∧ (s.strand g).aset.committing = true ∧ (s.strand g).exitStep = 1 then
        u.dueOnce (.holdBufferDrainComplete g) else u) →
      exec (.refillComplete g) s = .next (if v.whole g then v.unhalt g else v)) ∧
    (∀ c cs, s.refillPlan g = some (c :: cs) →
      exec (.refillComplete g) s = .next (s.beginClaims (s.strand g).info.ctx (c :: cs))) ∧
    (s.refillPlan g = none → exec (.refillComplete g) s = .next s)) ∧
  (∀ (s : State) (d : SessionDef),
    (s.openSession d = none → exec (.openCounterSession d) s = .next (s.send (.mailbox d.func 1))) ∧
    (∀ x, s.openSession d = some x →
      exec (.openCounterSession d) s =
        .next ((({ s with sessions := s.sessions ++ [x] } : State).takeId).send (.mailbox d.func 0)))) ∧
  (∀ (s : State) (id e : Nat),
    (∃ t, exec (.closeCounterSession id) s = .next t ∧
      (∀ x, x ∈ t.sessions ↔ x ∈ s.sessions ∧ (x.id ≠ id ∨ (s.func x.func).resetting = true))) ∧
    (∀ x, s.sessions.find? (fun x => x.id == id) = some x →
      ((s.func x.func).resetting = false → exec (.readcnt id) s = .next (s.send (.readcnt x.bytes))) ∧
      ((s.func x.func).resetting = true → exec (.readcnt id) s = .next (s.send (.mailbox x.func 1))) ∧
      (∀ y, x.entries[e]? = some y → y.ovf = true → x.ven = true →
        exec (.counterWrap id e) s = .next (s.send (.msix x.func x.vector))) ∧
      (x.ven = false → exec (.counterWrap id e) s = .next s)))

/-- TRAP_ENTRY of a strand whose rod has come to its stop, with a valid handler: results commit, the record of the trap
is in the strand and in its frame of device memory, the outstanding trap is taken, `em` is LIVE, the latches are zero, and
the strand is Ready at the handler's entry, in the handler. A trap of the handler's own work ends the strand, and
so do one of a V word in the group of its TRET and a missing handler. A held or halted strand, a V word still running, and a
request on its way to a home slice put the entry off. A strand that waits goes on waiting until the V word has run. -/
def Obligations.TrapEntry : Prop :=
  (∀ (s : State) (g : Nat), (s.strand g).takeable = none → exec (.trapEntry g) s = .next s) ∧
  (∀ (s : State) (g : Nat) (o : Outstanding), (s.strand g).takeable = some o → (s.strand g).resident = true →
    (s.strand g).aset.rolling = false →
    ((s.strand g).state = .held ∨ (s.strand g).state = .halted → exec (.trapEntry g) s = .next s) ∧
    ((s.strand g).state ≠ .held → (s.strand g).state ≠ .halted →
      ((s.strand g).trap.inHandler = true ∨ (o.vword = true ∧ o.handlerWork ≠ 0) →
        exec (.trapEntry g) s =
          .next (s.terminate g (bitsOf ((s.strand g).trap.record.get 0).toNat 7 0) o.info.cause.code)) ∧
      ((s.strand g).trap.inHandler = false → o.vword = false ∨ o.handlerWork = 0 → (s.strand g).asksHome = true →
        exec (.trapEntry g) s = .next s) ∧
      ((s.strand g).trap.inHandler = false → o.vword = false ∨ o.handlerWork = 0 → (s.strand g).asksHome = false →
        (s.strand g).rodRuns = true → exec (.trapEntry g) s = .next (s.modStrand g (fun t =>
          { t with state := if t.state = .waiting then .waiting else .trapEntry }))) ∧
      ((s.strand g).trap.inHandler = false → o.vword = false ∨ o.handlerWork = 0 → (s.strand g).asksHome = false →
        (s.strand g).rodRuns = false →
        ∀ w blk, w = (s.modStrand g (fun t => t.commitAll.freeRod)).writeRecord g o → blk = (w.ctx (w.strand g).info.ctx).trapAddr →
          (w.hbmNat (blk + 8) 1 % 2 = 1 → pcValid (BitVec.ofNat 64 (w.hbmNat blk 8)) = true →
            ∃ t, exec (.trapEntry g) s = .next t ∧ (t.strand g).pc = BitVec.ofNat 64 (w.hbmNat blk 8) ∧ (t.strand g).widx = 0 ∧
              (t.strand g).trap.inHandler = true ∧ (t.strand g).trap.first = o.info.cause.code ∧
              (t.strand g).masks.get 0 = (w.strand g).info.live ∧ (t.strand g).latches = [] ∧ (t.strand g).flight = none ∧
              (t.strand g).state = .ready ∧ (t.strand g).wait = .nothing ∧
              (t.strand g).trap.record = (w.strand g).trap.record ∧ (t.strand g).uregs = (w.strand g).uregs ∧
              (t.strand g).vregs = (w.strand g).vregs ∧ (t.strand g).trap.traps = (w.strand g).trap.traps ∧
              (∀ p, t.memByte p = w.memByte p) ∧ (∀ h, h ≠ g → t.strand h = w.strand h)) ∧
          (w.hbmNat (blk + 8) 1 % 2 = 0 ∨ pcValid (BitVec.ofNat 64 (w.hbmNat blk 8)) = false → exec (.trapEntry g) s = .next (w.terminate g o.info.cause.code 0))))) ∧
  (∀ (s : State) (g : Nat) (o : Outstanding) (t : State), t = s.writeRecord g o →
    (t.strand g).trap.record = s.record g o ((s.strand g).stoppedWord o)
      ((s.strand g).state == .waiting && (s.strand g).wait != .group) ∧
    (t.strand g).trap.traps = (s.strand g).trap.traps.erase o)

/-! ### Events of the platform, of tenants and of queue interfaces -/

/-- R431. An answer of the package that nothing else accompanies. -/
def Sys2Proof.Claims.sends (s : State) (i : Instr) (m : OutMsg) : Prop := exec i s = .next (s.send m)

/-- Events of the host side and of the platform. A host access reads or writes device memory below 2^40: firmware reads and
writes the energy blocks that lie there, and the lines that a host agent writes are externally fed. A die boundary counts
its failed tries, and the sixteenth in succession is a lasting error of both dies; a lost package ends its collectives and
gangs; ports, power, freezing, debug and throttling change the fields that name them, and power-off and reset leave a
package that is off. -/
def Obligations.PlatformEvents : Prop :=
  (∀ (s : State) (t : HostTxn), 2 ^ 40 < t.addr + (if t.write then t.data.length else t.len) →
    exec (.hostAccess t) s = .fault .noSuchAddress) ∧
  (∀ (s : State) (t : HostTxn), t.write = true → t.addr + t.data.length ≤ 2 ^ 40 →
    ∃ u, exec (.hostAccess t) s = .next u ∧
      (t.firmware = true → u.ctxs = s.ctxs.map (fun (c : Nat × Ctx) => (c.1, c.2.writeEnergy t.addr t.data))) ∧
      (t.firmware = false → u.ctxs = s.ctxs.map (fun (c : Nat × Ctx) => (c.1, { c.2 with
        fedLines := c.2.fedLines ++ (linesOf t.addr t.data.length).filter (fun l => !c.2.fedLines.contains l) }))) ∧
      (∀ a, a < t.addr ∨ t.addr + t.data.length ≤ a →
        u.memByte { host := false, addr := a } = s.memByte { host := false, addr := a }) ∧
      u.memBytes { host := false, addr := t.addr } t.data.length = t.data) ∧
  (∀ (s : State) (t : HostTxn), t.write = false → t.addr + t.len ≤ 2 ^ 40 →
    ∃ u, exec (.hostAccess t) s = .next u ∧ 
      OutMsg.hostData ((s.memBytes { host := false, addr := t.addr } t.len).zipIdx.map
        (fun x => (s.protByte (t.addr + x.2)).getD x.1)) ∈ u.out ∧
      u.ctxs = s.ctxs ∧ (∀ p, u.memByte p = s.memByte p)) ∧
  (∀ (s : State) (b : Nat), b < 22 →
    (∃ t, exec (.dieBoundaryRetry b false) s = .next t ∧ t.pkg.retries.find? b = none) ∧
    ((s.pkg.retries.find? b).getD 0 < 15 →
      ∃ t, exec (.dieBoundaryRetry b true) s = .next t ∧ t.pkg.retries.find? b = some ((s.pkg.retries.find? b).getD 0 + 1)) ∧
    (15 ≤ (s.pkg.retries.find? b).getD 0 →
      exec (.dieBoundaryRetry b true) s =
        .next ((({ s with pkg := { s.pkg with retries := s.pkg.retries.erase b } } : State).uncoreError (boundaryDies b).1).uncoreError
          (boundaryDies b).2))) ∧
  (∀ (s : State) (b : Nat) (x : Bool), 22 ≤ b → exec (.dieBoundaryRetry b x) s = .next s) ∧
  (∀ (s : State) (p : Nat),
    (∃ t, exec (.podPortDown p) s = .next t ∧ (∀ x, x ∈ t.pkg.portsUp ↔ x ∈ s.pkg.portsUp ∧ x ≠ p)) ∧
    (p < 16 → ∃ t, exec (.podPortUp p) s = .next t ∧ (∀ x, x ∈ t.pkg.portsUp ↔ x ∈ s.pkg.portsUp ∨ x = p)) ∧
    (16 ≤ p → exec (.podPortUp p) s = .next s) ∧
    ((s.portTo p).isSome = true → exec (.packageLost p) s = .next s) ∧
    (∀ u v : State, s.portTo p = none → u = { s with pkg := { s.pkg with lost := s.pkg.lost.filter (· != p) ++ [p] } } →
      v = s.colls.foldl (fun (s : State) c => s.loseRanks p c) u →
      exec (.packageLost p) s = .next ((v.gangsWith p).foldl (fun (s : State) c => s.killContext c 7) v)) ∧
    (∃ t, exec (.hbmPowerDown p) s = .next t ∧ (t.die p).hbmDown = true ∧ (∀ d, d ≠ p → t.die d = s.die d))) ∧
  (∀ (s : State), s.power ≠ .on → exec .freeze s = .next s) ∧
  (∀ (s : State), s.power = .on →
    ∃ t, exec .freeze s = .next t ∧ t.power = .frozen ∧ t.pkg.portsUp = [] ∧ t.strands = s.strands ∧ (∀ p, t.memByte p = s.memByte p) ∧
      t.pkg.nonce = some (Config.nonce s.free) ∧ OutMsg.nonce (Config.nonce s.free) ∈ t.out) ∧
  (∀ (s : State) (token : BitVec 256) (n : BitVec 64), s.power ≠ .off →
    ∃ t, exec (.unlock token n) s = .next t ∧ t.pkg.debug = (s.pkg.debug || (s.pkg.nonce == some n && Config.tokenValid token Config.serial n)) ∧
      t.pkg.nonce = some (Config.nonce s.free) ∧ OutMsg.nonce (Config.nonce s.free) ∈ t.out ∧ t.strands = s.strands) ∧
  (∀ (s : State) (cmd : ScanCmd),
    (s.power = .frozen → s.pkg.debug = true → sends s (.scanCommand cmd) (.scan cmd (s.scan cmd))) ∧
    (s.power ≠ .frozen ∨ s.pkg.debug = false → sends s (.scanCommand cmd) .scanRefused)) ∧
  (∀ (s : State) (n len : Nat),
    s.scan (.strand n) = .strand (s.strand n) ∧ s.scan (.core n) = .core (s.core n) ∧ s.scan (.quarter n) = .quarter (s.quarter n) ∧
    s.scan (.die n) = .die { s.die n with linkKey := 0, keys := [] } ∧
    s.scan (.memory n len) = .bytes ((List.range len).map (fun i =>
      Config.cipherByte (Sp.get 0 s.keyed (n + i)) (n + i) (Sp.get 0 s.hbm (n + i))))) ∧
  (∀ (s : State),
    (∃ t, exec .powerOff s = .next t ∧ t.power = .off ∧ t.strands = [] ∧ t.hbm = []) ∧
    (∃ t, exec .thermalTrip s = .next t ∧ t.power = .off ∧ t.strands = [] ∧ t.hbm = [] ∧ t.pkg.thermal = true) ∧
    (∃ t, exec .coldReset s = .next t ∧ t.power = .off ∧ t.strands = [] ∧ t.cores = [] ∧ (∀ d, (t.die d).keys = []) ∧
      t.hbm = scrambled s.free s.hbm) ∧
    (s.power = .off → s.pkg.thermal = true →
      ∀ b : BringUp, b.verified = true → ∃ t, exec (.powerOn b) s = .next t ∧ OutMsg.thermalTrip ∈ t.out) ∧
    (∀ b : BringUp, s.power = .off → b.verified = true →
      ∃ t, exec (.powerOn b) s = .next t ∧ t.power = .on ∧ t.pkg.thermal = false ∧ t.podTime = b.podTime ∧
        t.pkg.num = b.num % 1024 ∧ t.pkg.master = b.capMaster ∧
        (∀ p, p ∈ t.pkg.portsUp ↔ p ∈ b.ports ∧ p < 16) ∧
        (∀ d, d < 16 → t.die d =
          { trained := decide (d ∉ b.untrained), linkKey := (b.linkKeys[d]?).getD 0,
            keys := match b.firmwareKeys[d]? with | some k => [(0, k)] | none => [] } ∧
          (d ∈ b.untrained → OutMsg.dieOut d ∈ t.out))) ∧
    (∀ b : BringUp, s.power ≠ .off ∨ b.verified = false → exec (.powerOn b) s = .next s) ∧
    (∀ l, exec (.thermalThrottle l) s =
      .next (l.foldl (fun (s : State) p => s.setAllowance p none (some ((s.part p).maxop - 1))) s))) ∧
  (∀ (s : State) (ctx : Nat) (c : Ctx) (v : BitVec 64) (e : Nat), s.ctxs.find? ctx = some c →
    (c.state = .halted ∨ c.state = .idle →
      ∃ t, exec (.contextMigration ctx v e) s = .next t ∧
        (t.ctx ctx).ctoff = s.podTime - (v + (if s.frozenTime ctx then 0 else BitVec.ofNat 64 e))) ∧
    (c.state ≠ .halted → c.state ≠ .idle → exec (.contextMigration ctx v e) s = .next s))

/-- Events of partitions, contexts, keys, links, errors and attestation: each command that is allowed has its effect and is
answered, one that is not is refused and changes nothing else, and an event that finds nothing to act on changes nothing. -/
def Obligations.TenantEvents : Prop :=
  (∀ (s : State) (d : PartDef),
    (s.partOk d = true → exec (.definePartition d) s =
      .next ((s.setPart d.part { quads := d.quads, op := d.op, maxop := d.maxop, holdLimit := d.holdLimit.getD 10000 }).dueOnce
        (.dispatchPlacement d.part))) ∧
    (s.partOk d = false → exec (.definePartition d) s = .next s)) ∧
  (∀ (s : State) (d : CtxDef),
    (s.ctxOk d = true → exec (.createContext d) s =
      .next ((((s.setCtx d.ctx (newCtx d s.podTime)).memWrite { host := false, addr := d.schedAddr } (natLe 64 0)).memWrite
        { host := false, addr := d.trapAddr } (natLe 64 0)).send (.mailbox 0 0))) ∧
    (s.ctxOk d = false → sends s (.createContext d) (.mailbox 0 1))) ∧
  (∀ (s : State) (ctx : Nat) (c : Ctx), s.ctxs.find? ctx = some c →
    (s.ctxQuiet ctx = true → (s.func 0).resetting = false →
      exec (.destroyContext ctx) s = .next ((s.dropCtx ctx).send (.mailbox 0 0))) ∧
    (s.ctxQuiet ctx = false → sends s (.destroyContext ctx) (.mailbox 0 1)) ∧
    ((s.func 0).resetting = false → exec (.hostKill ctx) s = .next ((s.killContext ctx 6).send (.mailbox 0 0))) ∧
    (s.watchdogArmed ctx = true → c.state = .running → s.strandsOf ctx ≠ [] → (∀ x ∈ s.strandsOf ctx, s.externalWait x.1 x.2 = false) →
      exec (.watchdogIdleFire ctx) s = .next (s.killContext ctx 1)) ∧
    (s.watchdogArmed ctx = false ∨ c.state ≠ .running ∨ s.strandsOf ctx = [] ∨
        (∃ x ∈ s.strandsOf ctx, s.externalWait x.1 x.2 = true) →
      exec (.watchdogIdleFire ctx) s = .next s) ∧
    (∀ page, c.prot = false → (s.func 0).resetting = false → exec (.reclaim ctx page) s = .next (s.freePage ctx page)) ∧
    (∀ page, c.prot = true → (s.func 0).resetting = false → exec (.reclaim ctx page) s =
      .next ((s.addLog ctx (logBytes 5 0 0 ctx 0 s.podTime page (pageData (s.pageAt ctx page)))).modCtx ctx
        (fun c => { c with reclaim := c.reclaim.filter (· != page) ++ [page] }))) ∧
    (∀ page, c.prot = false → sends s (.force ctx page) (.mailbox 0 1)) ∧
    (∀ page t, c.prot = true → (s.func 0).resetting = false →
      t = ((s.pagesUnder c.keys).foldl (fun (s : State) l => s.zeroRange l.pa (2 ^ l.lg)) ((s.killContext ctx 4).invalidate ctx none)) →
      exec (.force ctx page) s =
        .next (((t.clearKeys (t.ctx ctx).keys).modCtx ctx (fun c => { c with reclaim := c.reclaim.filter (· != page) })).send
          (.reclaimed ctx page))) ∧
    (∀ page, c.reclaim.contains page = true → (s.func c.func).resetting = false → (s.func 0).resetting = false →
      exec (.accept ctx page) s = .next (s.freePage ctx page)) ∧
    (∀ page, c.reclaim.contains page = false ∨ (s.func c.func).resetting = true ∨ (s.func 0).resetting = true → sends s (.accept ctx page) (.mailbox c.func 1))) ∧
  (∀ (s : State) (ctx : Nat), s.ctxs.find? ctx = none →
    sends s (.destroyContext ctx) (.mailbox 0 1) ∧ sends s (.hostKill ctx) (.mailbox 0 1) ∧
    (∀ page, sends s (.reclaim ctx page) (.mailbox 0 1) ∧ sends s (.force ctx page) (.mailbox 0 1) ∧
      sends s (.accept ctx page) (.mailbox 0 1))) ∧
  (∀ (s : State) (ctx page : Nat), (s.func 0).resetting = true →
    sends s (.destroyContext ctx) (.mailbox 0 1) ∧ sends s (.hostKill ctx) (.mailbox 0 1) ∧
    sends s (.reclaim ctx page) (.mailbox 0 1) ∧ sends s (.force ctx page) (.mailbox 0 1)) ∧
  (∀ (s : State) (l : Nat), s.launch? l = none → exec (.watchdogRunFire l) s = .next s) ∧
  (∀ (s : State) (l : Nat) (it : LaunchItem), s.launch? l = some it →
    (s.watchdogArmed it.ctx = true → s.overLimit it = true → exec (.watchdogRunFire l) s = .next (s.killContext it.ctx 1)) ∧
    (s.watchdogArmed it.ctx = false ∨ s.overLimit it = false → exec (.watchdogRunFire l) s = .next s)) ∧
  (∀ (s : State) (die slot : Nat) (k : BitVec 256), die < 16 → slot < 1024 →
    (∃ t, exec (.keySlotWrite die slot (some k)) s = .next t ∧ (t.die die).keys.find? slot = some k ∧
      (∀ d, d ≠ die → t.die d = s.die d)) ∧
    exec (.keySlotWrite die slot none) s =
      .next (((s.cleanKeys [die] [slot]).staleKeys [die] [slot] true).modDie die (fun d => { d with keys := d.keys.erase slot }))) ∧
  (∀ (s : State) (die slot : Nat) (k : Option (BitVec 256)), 16 ≤ die ∨ 1024 ≤ slot → exec (.keySlotWrite die slot k) s = .next s) ∧
  (∀ (s : State) (fn : Nat), 64 ≤ fn → exec (.flr fn) s = .next s) ∧
  (∀ (s : State) (fn : Nat), fn < 64 →
    (s.pkg.flr.contains fn = true → exec (.flrDrainTimeout fn) s = .next (s.finishReset fn)) ∧
    (s.pkg.flr.contains fn = false → exec (.flrDrainTimeout fn) s = .next s) ∧
    (∀ t u : State, t = (resetScope fn).foldl (fun (s : State) f => s.modFunc f (fun x => { x with resetting := true })) s →
      u = { t with pkg := { t.pkg with flr := t.pkg.flr.filter (· != fn) ++ [fn] } } →
      exec (.flr fn) s = .next (if (resetScope fn).any u.linkBusy then u else u.finishReset fn))) ∧
  (∀ (s : State) (u : EccUnit),
    exec (.uncorrectableRead u) s = .next { s with pkg := { s.pkg with ecc := s.pkg.ecc ++ [u] } }) ∧
  (∀ (s : State) (ok : Bool), s.pkg.ecc = [] → exec (.eccRetryResult ok) s = .next s) ∧
  (∀ (s : State) (u : EccUnit) (l : List EccUnit), s.pkg.ecc = u :: l →
    exec (.eccRetryResult true) s =
      .next { s with pkg := { s.pkg with ecc := l, corrected := countCorrected (eccCode u, eccInstance u) s.pkg.corrected } } ∧
    exec (.eccRetryResult false) s = .next (({ s with pkg := { s.pkg with ecc := l } } : State).lastingError u)) ∧
  (∀ (s t : State), t = s.pkg.corrected.foldl (fun (t : State) x =>
      t.addLog opLogKey (logBytes 6 x.1.1 0 0 0 s.podTime 0 [])) s →
    exec .correctedErrorReport s = .next { t with pkg := { t.pkg with corrected := [] } }) ∧
  (∀ (s : State) (die : Nat) (k : BitVec 128),
    (∃ t, exec (.linkKeyProgram die k) s = .next t ∧ (t.die die).linkKey = k ∧ (t.die die).linkDown = 0 ∧
      (t.die die).linkUp = 0 ∧ (t.die die).linkStopped = false) ∧
    (∀ up, ∃ t, exec (.linkRekeyInterrupt ⟨die, up⟩) s = .next t ∧ OutMsg.rekey die ∈ t.out ∧
      (t.die die).linkDown = (if up then (s.die die).linkDown else max (2 ^ 48 - 2 ^ 32) (s.die die).linkDown) ∧
      (t.die die).linkUp = (if up then max (2 ^ 48 - 2 ^ 32) (s.die die).linkUp else (s.die die).linkUp)) ∧
    (∀ up, ∃ t, exec (.linkCounterExhausted ⟨die, up⟩) s = .next t ∧ (t.die die).linkStopped = true ∧
      (t.die die).linkDown = (if up then (s.die die).linkDown else max (2 ^ 48) (s.die die).linkDown) ∧
      (t.die die).linkUp = (if up then max (2 ^ 48) (s.die die).linkUp else (s.die die).linkUp)) ∧
    ((s.die die).linkStopped = false → exec (.linkKeyTimeout die) s = .next s) ∧
    (∀ cs, cs = s.ctxs.filter (fun (c : Nat × Ctx) => (leavesFrom s levels c.2.root).any
        (fun l => l.typ == 0 && homeDie { host := false, addr := l.pa } == die)) →
      (s.die die).linkStopped = true →
      exec (.linkKeyTimeout die) s = .next ((cs.map (·.1)).foldl (fun (t : State) c => t.killContext c 3) s))) ∧
  (∀ (s : State) (gate : Nat) (v : BitVec 512),
    ∃ t, exec (.gateEntryWrite gate v) s = .next t ∧
      (∀ a, a < Config.gateTableBase + 64 * gate ∨ Config.gateTableBase + 64 * gate + 64 ≤ a →
        t.memByte { host := false, addr := a } = s.memByte { host := false, addr := a }) ∧
      t.memBytes { host := false, addr := Config.gateTableBase + 64 * gate } 64 = natLe 64 v.toNat) ∧
  (∀ (s : State) (tenant : BitVec 32) (die : Nat),
    (∃ t, exec (.pluginFault tenant) s = .next t ∧ (∀ x, x ∈ t.pkg.plugins ↔ x ∈ s.pkg.plugins ∨ x = tenant) ∧ t.strands = s.strands) ∧
    (∃ t, exec (.schedulerFault die) s = .next t ∧ (t.die die).stopped = true ∧ OutMsg.deviceError die ∈ t.out)) ∧
  (∀ (s : State) (fn : Nat) (n : BitVec 256),
    exec (.getVersion fn) s = .next (s.answerSpdm fn 0x04 (natLe 2 0x1300)) ∧
    exec (.getCapabilities fn) s = .next (s.answerSpdm fn 0x61 (Config.spdmBody 0x61)) ∧
    exec (.negotiateAlgorithms fn) s = .next (s.answerSpdm fn 0x63 (Config.spdmBody 0x63)) ∧
    exec (.getDigests fn) s = .next (s.answerSpdm fn 0x01 (natLe 48 (Config.digest (Config.spdmBody 0x02)).toNat)) ∧
    exec (.getCertificate fn) s = .next (s.answerSpdm fn 0x02 (Config.spdmBody 0x02)) ∧
    exec (.challenge fn n) s =
      .next (s.answerSpdm fn 0x03 (natLe 48 (Config.digest (Config.spdmBody 0x02)).toNat ++ natLe 32 n.toNat)) ∧
    (∀ i, s.measurementOf fn i = none → exec (.getMeasurements fn i) s = .next (s.answerSpdm fn 0x7F [])) ∧
    (∀ i m, s.measurementOf fn i = some m →
      exec (.getMeasurements fn i) s =
        .next (s.answerSpdm fn 0x60 (natLe 1 i ++ natLe 1 (s.measurementFlags fn) ++ natLe 48 m.toNat))))

/-- Events of queue interfaces: an interface is locked when its fields agree with the shadow and are valid, else it is in
ERROR with code 3; a locked one runs; and one that is not unlocked stops with its latched fields written back. A write of
the producer's index is a doorbell in RUN: it moves the index, or the interface is in ERROR with code 1 or 2 when the
index cannot be accepted; while unlocked every field can be written, and otherwise no other write has an effect. The entry
at HEAD is read and takes effect; entries of the error log and of the meter are written when their ring has room; a page
that the host has not answered for is asked for. -/
def Obligations.InterfaceEvents : Prop :=
  (∀ (s : State) (i : Nat) (shadow : BitVec 192), i < 4096 →
    ((s.iface i).state = .unlocked → s.shut (s.iface i).func = false →
      ((s.iface i).privileged = shadow → s.ifaceValid (s.iface i) = true →
        exec (.lock i shadow) s = .next ((s.attach i shadow).send (.mailbox 0 0))) ∧
      ((s.iface i).privileged ≠ shadow ∨ s.ifaceValid (s.iface i) = false → exec (.lock i shadow) s =
        .next (((s.setIface i ((s.iface i).withPrivileged (s.iface i).latched)).ifaceError i 3).send (.mailbox 0 0)))) ∧
    ((s.iface i).state ≠ .unlocked ∨ s.shut (s.iface i).func = true → sends s (.lock i shadow) (.mailbox 0 1)) ∧
    ((s.iface i).state = .locked → s.shut (s.iface i).func = false →
      exec (.start i) s = .next (((s.setIface i { s.iface i with state := .run }).kickIface i).send (.mailbox 0 0))) ∧
    ((s.iface i).state ≠ .locked ∨ s.shut (s.iface i).func = true → sends s (.start i) (.mailbox 0 1)) ∧
    ((s.iface i).state ≠ .unlocked → (s.func 0).resetting = false →
      exec (.stop i) s =
        .next (((s.setIface i { (s.iface i).withPrivileged (s.iface i).latched with state := .unlocked }).ringStopped (s.iface i)).send
          (.mailbox 0 0))) ∧
    ((s.iface i).state = .unlocked ∨ (s.func 0).resetting = true → sends s (.stop i) (.mailbox 0 1)) ∧
    (∀ n, exec (.doorbell i n) s = .next (s.writeProducer i n) ∧
      ((s.func (s.iface i).func).resetting = true ∨ (s.iface i).state = .locked ∨ (s.iface i).state = .error →
        s.writeProducer i n = s) ∧
      ((s.func (s.iface i).func).resetting = false →
        ((s.iface i).state = .unlocked → s.writeProducer i n = s.setIface i ((s.iface i).setProducer n)) ∧
        ((s.iface i).state = .run → (s.iface i).accepts n = true →
          s.writeProducer i n = (s.setIface i ((s.iface i).setProducer n)).kickIface i) ∧
        ((s.iface i).state = .run → (s.iface i).accepts n = false →
          s.writeProducer i n = s.ifaceError i (if (s.iface i).guestProduces then 1 else 2)))) ∧
    (∀ x v, (s.iface i).state = .unlocked →
      exec (.queueControlBlockWrite i x v) s = .next (s.setIface i ((s.iface i).writeField x v))) ∧
    (∀ x v, (s.iface i).state ≠ .unlocked → x ≠ .tail → x ≠ .head → exec (.queueControlBlockWrite i x v) s = .next s) ∧
    (∀ v, (s.iface i).state ≠ .unlocked →
      ((s.iface i).guestProduces = true →
        exec (.queueControlBlockWrite i .tail v) s = .next (s.writeProducer i (BitVec.ofNat 32 v.toNat)) ∧
        exec (.queueControlBlockWrite i .head v) s = .next s) ∧
      ((s.iface i).guestProduces = false →
        exec (.queueControlBlockWrite i .head v) s = .next (s.writeProducer i (BitVec.ofNat 32 v.toNat)) ∧
        exec (.queueControlBlockWrite i .tail v) s = .next s))) ∧
  (∀ (s : State) (fn : Nat), s.shut fn = ((s.func 0).resetting || (s.func fn).resetting)) ∧
  (∀ (f : Iface) (n : Word),
    (f.kind ≤ 1 → f.accepts n = decide ((n - f.tail).toNat + (f.tail - f.head).toNat ≤ 2 ^ f.lsize)) ∧
    (2 ≤ f.kind → f.accepts n = decide ((n - f.head).toNat ≤ 2 ^ f.lsize ∧ (n - f.head).toNat ≤ (f.tail - f.head).toNat))) ∧
  (∀ (s : State) (i : Nat), 4096 ≤ i → (∀ n, exec (.doorbell i n) s = .next s) ∧
    (∀ x v, exec (.queueControlBlockWrite i x v) s = .next s) ∧ (∀ v, sends s (.lock i v) (.mailbox 0 1)) ∧
    sends s (.start i) (.mailbox 0 1) ∧ sends s (.stop i) (.mailbox 0 1)) ∧
  (∀ (s : State) (i : Nat),
    (s.ifaceReady (s.iface i) = false → exec (.queueInterfaceFetch i) s = .next s) ∧
    (s.ifaceReady (s.iface i) = true →
      (s.guestPlace (s.iface i).pasid ((s.iface i).entryVa (s.iface i).head.toNat) = none →
        exec (.queueInterfaceFetch i) s =
          .next (s.atsAsk 0 (pasidKey (s.iface i).pasid) ((s.iface i).entryVa (s.iface i).head.toNat / 65536))) ∧
      (∀ p t, s.guestPlace (s.iface i).pasid ((s.iface i).entryVa (s.iface i).head.toNat) = some p →
        t = s.setIface i { s.iface i with head := (s.iface i).head + 1 } →
        exec (.queueInterfaceFetch i) s =
          .next ((if (s.iface i).kind = 0
            then t.fetchLaunch i (s.iface i).head.toNat (s.iface i).ctx (s.memBytes p (s.iface i).entryBytes)
            else t.fetchTask i (s.iface i).head.toNat (s.iface i).ctx (s.memBytes p (s.iface i).entryBytes)).kickIface i)))) ∧
  (∀ (s : State) (log : Nat), s.logIface log = none ∨ s.takeLog log = none → exec (.errorLogEntryWrite log) s = .next s) ∧
  (∀ (s u : State) (log i : Nat) (f : Iface) (e : List Byte), s.logIface log = some (i, f) → s.takeLog log = some (e, u) →
    (f.size ≤ f.used → exec (.errorLogEntryWrite log) s = .next s) ∧
    (f.used < f.size → s.guestPlace f.pasid (f.entryVa f.tail.toNat) = none →
      exec (.errorLogEntryWrite log) s = .next (s.atsAsk 0 (pasidKey f.pasid) (f.entryVa f.tail.toNat / 65536))) ∧
    (∀ p, f.used < f.size → s.guestPlace f.pasid (f.entryVa f.tail.toNat) = some p →
      exec (.errorLogEntryWrite log) s =
        .next ((((u.memWrite p e).setIface i { f with tail := f.tail + 1 }).send (.msix f.func f.vector)).dueOnce (.errorLogEntryWrite log)))) ∧
  (∀ (s : State), s.pkg.batches = [] ∨
      List.find? (fun (x : Nat × Iface) => x.2.state == .run && x.2.kind == 2) s.ifaces = none → exec .meterBatchWrite s = .next s) ∧
  (∀ (s : State) (i : Nat) (f : Iface) (b : List Byte) (rest : List (List Byte)),
    List.find? (fun (x : Nat × Iface) => x.2.state == .run && x.2.kind == 2) s.ifaces = some (i, f) → s.pkg.batches = b :: rest →
    (f.size < f.used + (b.length + 127) / 128 → exec .meterBatchWrite s = .next s) ∧
    (∀ page, f.used + (b.length + 127) / 128 ≤ f.size → s.batchPlaces f ((b.length + 127) / 128) = .error page →
      exec .meterBatchWrite s = .next (s.atsAsk 0 (pasidKey f.pasid) page)) ∧
    (∀ (ps : List PAddr) (t : State), f.used + (b.length + 127) / 128 ≤ f.size → s.batchPlaces f ((b.length + 127) / 128) = .ok ps →
      t = (s.writeBatch ps b).setIface i { f with tail := f.tail + BitVec.ofNat 32 ((b.length + 127) / 128) } →
      exec .meterBatchWrite s =
        .next (((({ t with pkg := { t.pkg with batches := rest } } : State).send (.msix f.func f.vector)).send (.meter b)).dueOnce
          .meterBatchWrite)))
end

