-- ==== Sys2Proof/Laws/Maps.lean ====
section
/-!
SUPPORT. Laws of sparse maps: reading after writing, and that every write keeps the canonical form.
-/

namespace Sys2Proof.Machine

set_option Elab.async false

/-! ### Reading after writing -/

@[simp] theorem Assoc.find?_insert_self {α : Type} (m : Assoc α) (i : Nat) (x : α) :
    (Assoc.insert m i x).find? i = some x := by
  induction m with
  | nil => simp [Assoc.insert, Assoc.find?]
  | cons p m ih =>
    obtain ⟨k, v⟩ := p
    simp only [Assoc.insert]
    split
    · simp [Assoc.find?]
    · split
      · simp [Assoc.find?]
      · simp_all [Assoc.find?]

theorem Assoc.find?_insert_ne {α : Type} (m : Assoc α) {i j : Nat} (x : α) (h : j ≠ i) :
    (Assoc.insert m i x).find? j = m.find? j := by
  induction m with
  | nil => simp [Assoc.insert, Assoc.find?, h]
  | cons p m ih =>
    obtain ⟨k, v⟩ := p
    simp only [Assoc.insert]
    split
    · simp [Assoc.find?, h]
    · split
      · rename_i hk; subst hk; simp [Assoc.find?, h]
      · simp_all [Assoc.find?]

@[simp] theorem Assoc.find?_erase_self {α : Type} (m : Assoc α) (i : Nat) : (Assoc.erase m i).find? i = none := by
  induction m with
  | nil => rfl
  | cons p m ih =>
    obtain ⟨k, v⟩ := p
    simp only [Assoc.erase]
    split
    · exact ih
    · simp_all [Assoc.find?]

theorem Assoc.find?_erase_ne {α : Type} (m : Assoc α) {i j : Nat} (h : j ≠ i) : (Assoc.erase m i).find? j = m.find? j := by
  induction m with
  | nil => rfl
  | cons p m ih =>
    obtain ⟨k, v⟩ := p
    simp only [Assoc.erase]
    split
    · rename_i hk; subst hk; simp [Assoc.find?, h, ih]
    · simp_all [Assoc.find?]

theorem Assoc.find?_insert {α : Type} (m : Assoc α) (i j : Nat) (x : α) :
    (Assoc.insert m i x).find? j = if j = i then some x else m.find? j := by
  split
  · rename_i h; rw [h]; exact find?_insert_self m i x
  · rename_i h; exact find?_insert_ne m x h

@[simp] theorem Sp.get_set_self {α : Type} [DecidableEq α] (d : α) (m : Assoc α) (i : Nat) (x : α) :
    Sp.get d (Sp.set d m i x) i = x := by
  unfold Sp.get Sp.set
  split
  · rename_i h; rw [h, Assoc.find?_erase_self]; rfl
  · rw [Assoc.find?_insert_self]; rfl

theorem Sp.get_set_ne {α : Type} [DecidableEq α] (d : α) (m : Assoc α) {i j : Nat} (x : α) (h : j ≠ i) :
    Sp.get d (Sp.set d m i x) j = Sp.get d m j := by
  unfold Sp.get Sp.set
  split
  · rw [Assoc.find?_erase_ne m h]
  · rw [Assoc.find?_insert_ne m x h]

theorem Sp.get_set {α : Type} [DecidableEq α] (d : α) (m : Assoc α) (i j : Nat) (x : α) :
    Sp.get d (Sp.set d m i x) j = if j = i then x else Sp.get d m j := by
  split
  · rename_i h; rw [h]; exact get_set_self d m i x
  · rename_i h; exact get_set_ne d m x h

@[simp] theorem Words.get_set_self (m : Words) (i : Nat) (x : Word) : (m.set i x).get i = x := Sp.get_set_self 0 m i x

theorem Words.get_set_ne (m : Words) {i j : Nat} (x : Word) (h : j ≠ i) : (m.set i x).get j = m.get j :=
  Sp.get_set_ne 0 m x h

theorem Words.get_set (m : Words) (i j : Nat) (x : Word) : (m.set i x).get j = if j = i then x else m.get j :=
  Sp.get_set 0 m i j x

/-! ### The canonical form -/

/-- The keys of a list rise from a bound on. -/
def Assoc.above {α : Type} (n : Nat) (m : Assoc α) : Prop := ∀ p ∈ m, n ≤ p.1

theorem Assoc.sorted_cons {α : Type} (k : Nat) (v : α) (m : Assoc α) :
    Assoc.sorted ((k, v) :: m) = true ↔ Assoc.above (k + 1) m ∧ Assoc.sorted m = true := by
  induction m generalizing k v with
  | nil => simp [Assoc.sorted, Assoc.above]
  | cons p m ih =>
    obtain ⟨b, y⟩ := p
    simp only [Assoc.sorted, Bool.and_eq_true, decide_eq_true_eq]
    constructor
    · rintro ⟨hk, hs⟩
      refine ⟨?_, hs⟩
      intro q hq
      rcases List.mem_cons.mp hq with rfl | hq
      · exact hk
      · have := ((ih b y).mp hs).1 q hq
        omega
    · rintro ⟨ha, hs⟩
      exact ⟨ha (b, y) (by simp), hs⟩

theorem Assoc.above_insert {α : Type} (n : Nat) (m : Assoc α) (i : Nat) (x : α) (h : Assoc.above n m) (hi : n ≤ i) :
    Assoc.above n (Assoc.insert m i x) := by
  induction m with
  | nil => intro p hp; simp [Assoc.insert] at hp; simp [hp, hi]
  | cons p m ih =>
    obtain ⟨k, v⟩ := p
    have hm : Assoc.above n m := fun q hq => h q (List.mem_cons_of_mem _ hq)
    have hk : n ≤ k := h (k, v) (by simp)
    simp only [Assoc.insert]
    split
    · intro q hq
      rcases List.mem_cons.mp hq with rfl | hq
      · exact hi
      · exact h q hq
    · split
      · intro q hq
        rcases List.mem_cons.mp hq with rfl | hq
        · exact hi
        · exact hm q hq
      · intro q hq
        rcases List.mem_cons.mp hq with rfl | hq
        · exact hk
        · exact ih hm q hq

theorem Assoc.sorted_insert {α : Type} (m : Assoc α) (i : Nat) (x : α) (h : Assoc.sorted m = true) :
    Assoc.sorted (Assoc.insert m i x) = true := by
  induction m with
  | nil => rfl
  | cons p m ih =>
    obtain ⟨k, v⟩ := p
    obtain ⟨ha, hs⟩ := (Assoc.sorted_cons k v m).mp h
    simp only [Assoc.insert]
    split
    · rename_i hik
      refine (Assoc.sorted_cons _ _ _).mpr ⟨?_, h⟩
      intro q hq
      rcases List.mem_cons.mp hq with rfl | hq
      · exact hik
      · have := ha q hq
        omega
    · split
      · rename_i hik; subst hik; exact (Assoc.sorted_cons _ _ _).mpr ⟨ha, hs⟩
      · refine (Assoc.sorted_cons _ _ _).mpr ⟨Assoc.above_insert _ m i x ha (by omega), ih hs⟩

theorem Assoc.mem_erase {α : Type} (m : Assoc α) (i : Nat) : ∀ p ∈ Assoc.erase m i, p ∈ m := by
  induction m with
  | nil => intro p hp; simp [Assoc.erase] at hp
  | cons q m ih =>
    obtain ⟨k, v⟩ := q
    intro p hp
    simp only [Assoc.erase] at hp
    split at hp
    · exact List.mem_cons_of_mem _ (ih p hp)
    · rcases List.mem_cons.mp hp with rfl | hp
      · simp
      · exact List.mem_cons_of_mem _ (ih p hp)

theorem Assoc.mem_insert {α : Type} (m : Assoc α) (i : Nat) (x : α) : ∀ p ∈ Assoc.insert m i x, p = (i, x) ∨ p ∈ m := by
  induction m with
  | nil => intro p hp; simp [Assoc.insert] at hp; exact .inl hp
  | cons q m ih =>
    obtain ⟨k, v⟩ := q
    intro p hp
    simp only [Assoc.insert] at hp
    split at hp
    · exact (List.mem_cons.mp hp).imp id id
    · split at hp
      · rcases List.mem_cons.mp hp with rfl | hp
        · exact .inl rfl
        · exact .inr (List.mem_cons_of_mem _ hp)
      · rcases List.mem_cons.mp hp with rfl | hp
        · exact .inr (by simp)
        · exact (ih p hp).imp id (List.mem_cons_of_mem _)

theorem Assoc.sorted_erase {α : Type} (m : Assoc α) (i : Nat) (h : Assoc.sorted m = true) :
    Assoc.sorted (Assoc.erase m i) = true := by
  induction m with
  | nil => rfl
  | cons p m ih =>
    obtain ⟨k, v⟩ := p
    obtain ⟨ha, hs⟩ := (Assoc.sorted_cons k v m).mp h
    simp only [Assoc.erase]
    split
    · exact ih hs
    · exact (Assoc.sorted_cons _ _ _).mpr ⟨fun q hq => ha q (Assoc.mem_erase m i q hq), ih hs⟩

theorem Assoc.sorted_filter {α : Type} (m : Assoc α) (p : Nat × α → Bool) (h : Assoc.sorted m = true) :
    Assoc.sorted (m.filter p) = true := by
  induction m with
  | nil => rfl
  | cons q m ih =>
    obtain ⟨k, v⟩ := q
    obtain ⟨ha, hs⟩ := (Assoc.sorted_cons k v m).mp h
    simp only [List.filter]
    split
    · exact (Assoc.sorted_cons _ _ _).mpr ⟨fun r hr => ha r (List.mem_filter.mp hr).1, ih hs⟩
    · exact ih hs

/-- A write of a map with a default keeps its canonical form. -/
theorem Sp.wf_set {α : Type} [DecidableEq α] (d : α) (m : Assoc α) (i : Nat) (x : α) (h : Sp.wf d m = true) :
    Sp.wf d (Sp.set d m i x) = true := by
  simp only [Sp.wf, Bool.and_eq_true, List.all_eq_true, decide_eq_true_eq] at h ⊢
  unfold Sp.set
  split
  · exact ⟨Assoc.sorted_erase m i h.1, fun p hp => h.2 p (Assoc.mem_erase m i p hp)⟩
  · rename_i hx
    refine ⟨Assoc.sorted_insert m i x h.1, fun p hp => ?_⟩
    rcases Assoc.mem_insert m i x p hp with rfl | hp
    · exact hx
    · exact h.2 p hp

/-- Taking entries out of a map with a default keeps its canonical form. -/
theorem Sp.wf_filter {α : Type} [DecidableEq α] (d : α) (m : Assoc α) (p : Nat × α → Bool) (h : Sp.wf d m = true) :
    Sp.wf d (m.filter p) = true := by
  simp only [Sp.wf, Bool.and_eq_true, List.all_eq_true] at h ⊢
  exact ⟨Assoc.sorted_filter m p h.1, fun q hq => h.2 q (List.mem_filter.mp hq).1⟩

end Sys2Proof.Machine
end

