-- ==== Sys2Proof/Laws/State.lean ====
section
/-!
SUPPORT. Laws of the package's parts: one lemma for each field that an update leaves alone, true by rfl; reading a part
after writing one; and the bytes of memory after a write, with its canonical form.
-/

namespace Sys2Proof.Machine

set_option Elab.async false

/-! ### setStrand -/

@[simp] theorem State.setStrand_power (s : State) (g : Nat) (x : Strand) : (s.setStrand g x).power = s.power := rfl
@[simp] theorem State.setStrand_clock (s : State) (g : Nat) (x : Strand) : (s.setStrand g x).clock = s.clock := rfl
@[simp] theorem State.setStrand_podTime (s : State) (g : Nat) (x : Strand) : (s.setStrand g x).podTime = s.podTime := rfl
@[simp] theorem State.setStrand_free (s : State) (g : Nat) (x : Strand) : (s.setStrand g x).free = s.free := rfl
@[simp] theorem State.setStrand_hbm (s : State) (g : Nat) (x : Strand) : (s.setStrand g x).hbm = s.hbm := rfl
@[simp] theorem State.setStrand_hostMem (s : State) (g : Nat) (x : Strand) : (s.setStrand g x).hostMem = s.hostMem := rfl
@[simp] theorem State.setStrand_keyed (s : State) (g : Nat) (x : Strand) : (s.setStrand g x).keyed = s.keyed := rfl
@[simp] theorem State.setStrand_cores (s : State) (g : Nat) (x : Strand) : (s.setStrand g x).cores = s.cores := rfl
@[simp] theorem State.setStrand_quarters (s : State) (g : Nat) (x : Strand) : (s.setStrand g x).quarters = s.quarters := rfl
@[simp] theorem State.setStrand_dies (s : State) (g : Nat) (x : Strand) : (s.setStrand g x).dies = s.dies := rfl
@[simp] theorem State.setStrand_slices (s : State) (g : Nat) (x : Strand) : (s.setStrand g x).slices = s.slices := rfl
@[simp] theorem State.setStrand_scache (s : State) (g : Nat) (x : Strand) : (s.setStrand g x).scache = s.scache := rfl
@[simp] theorem State.setStrand_ctxs (s : State) (g : Nat) (x : Strand) : (s.setStrand g x).ctxs = s.ctxs := rfl
@[simp] theorem State.setStrand_parts (s : State) (g : Nat) (x : Strand) : (s.setStrand g x).parts = s.parts := rfl
@[simp] theorem State.setStrand_funcs (s : State) (g : Nat) (x : Strand) : (s.setStrand g x).funcs = s.funcs := rfl
@[simp] theorem State.setStrand_ifaces (s : State) (g : Nat) (x : Strand) : (s.setStrand g x).ifaces = s.ifaces := rfl
@[simp] theorem State.setStrand_loads (s : State) (g : Nat) (x : Strand) : (s.setStrand g x).loads = s.loads := rfl
@[simp] theorem State.setStrand_bars (s : State) (g : Nat) (x : Strand) : (s.setStrand g x).bars = s.bars := rfl
@[simp] theorem State.setStrand_launches (s : State) (g : Nat) (x : Strand) : (s.setStrand g x).launches = s.launches := rfl
@[simp] theorem State.setStrand_cpls (s : State) (g : Nat) (x : Strand) : (s.setStrand g x).cpls = s.cpls := rfl
@[simp] theorem State.setStrand_xfers (s : State) (g : Nat) (x : Strand) : (s.setStrand g x).xfers = s.xfers := rfl
@[simp] theorem State.setStrand_qwaiters (s : State) (g : Nat) (x : Strand) : (s.setStrand g x).qwaiters = s.qwaiters := rfl
@[simp] theorem State.setStrand_colls (s : State) (g : Nat) (x : Strand) : (s.setStrand g x).colls = s.colls := rfl
@[simp] theorem State.setStrand_claims (s : State) (g : Nat) (x : Strand) : (s.setStrand g x).claims = s.claims := rfl
@[simp] theorem State.setStrand_sessions (s : State) (g : Nat) (x : Strand) : (s.setStrand g x).sessions = s.sessions := rfl
@[simp] theorem State.setStrand_serialWait (s : State) (g : Nat) (x : Strand) : (s.setStrand g x).serialWait = s.serialWait := rfl
@[simp] theorem State.setStrand_tokenHeld (s : State) (g : Nat) (x : Strand) : (s.setStrand g x).tokenHeld = s.tokenHeld := rfl
@[simp] theorem State.setStrand_draws (s : State) (g : Nat) (x : Strand) : (s.setStrand g x).draws = s.draws := rfl
@[simp] theorem State.setStrand_tickStart (s : State) (g : Nat) (x : Strand) : (s.setStrand g x).tickStart = s.tickStart := rfl
@[simp] theorem State.setStrand_corr (s : State) (g : Nat) (x : Strand) : (s.setStrand g x).corr = s.corr := rfl
@[simp] theorem State.setStrand_windowCharge (s : State) (g : Nat) (x : Strand) : (s.setStrand g x).windowCharge = s.windowCharge := rfl
@[simp] theorem State.setStrand_rolled (s : State) (g : Nat) (x : Strand) : (s.setStrand g x).rolled = s.rolled := rfl
@[simp] theorem State.setStrand_unattributed (s : State) (g : Nat) (x : Strand) : (s.setStrand g x).unattributed = s.unattributed := rfl
@[simp] theorem State.setStrand_pkg (s : State) (g : Nat) (x : Strand) : (s.setStrand g x).pkg = s.pkg := rfl
@[simp] theorem State.setStrand_nextId (s : State) (g : Nat) (x : Strand) : (s.setStrand g x).nextId = s.nextId := rfl
@[simp] theorem State.setStrand_inputs (s : State) (g : Nat) (x : Strand) : (s.setStrand g x).inputs = s.inputs := rfl
@[simp] theorem State.setStrand_pending (s : State) (g : Nat) (x : Strand) : (s.setStrand g x).pending = s.pending := rfl
@[simp] theorem State.setStrand_out (s : State) (g : Nat) (x : Strand) : (s.setStrand g x).out = s.out := rfl
@[simp] theorem State.setStrand_stuck (s : State) (g : Nat) (x : Strand) : (s.setStrand g x).stuck = s.stuck := rfl
@[simp] theorem State.setStrand_held (s : State) (g : Nat) (x : Strand) : (s.setStrand g x).held = s.held := rfl
@[simp] theorem State.setStrand_stalled (s : State) (g : Nat) (x : Strand) : (s.setStrand g x).stalled = s.stalled := rfl
@[simp] theorem State.setStrand_iss (s : State) (g : Nat) (x : Strand) : (s.setStrand g x).iss = s.iss := rfl

/-! ### setCore -/

@[simp] theorem State.setCore_power (s : State) (c : Nat) (x : CoreSt) : (s.setCore c x).power = s.power := rfl
@[simp] theorem State.setCore_clock (s : State) (c : Nat) (x : CoreSt) : (s.setCore c x).clock = s.clock := rfl
@[simp] theorem State.setCore_podTime (s : State) (c : Nat) (x : CoreSt) : (s.setCore c x).podTime = s.podTime := rfl
@[simp] theorem State.setCore_free (s : State) (c : Nat) (x : CoreSt) : (s.setCore c x).free = s.free := rfl
@[simp] theorem State.setCore_hbm (s : State) (c : Nat) (x : CoreSt) : (s.setCore c x).hbm = s.hbm := rfl
@[simp] theorem State.setCore_hostMem (s : State) (c : Nat) (x : CoreSt) : (s.setCore c x).hostMem = s.hostMem := rfl
@[simp] theorem State.setCore_keyed (s : State) (c : Nat) (x : CoreSt) : (s.setCore c x).keyed = s.keyed := rfl
@[simp] theorem State.setCore_strands (s : State) (c : Nat) (x : CoreSt) : (s.setCore c x).strands = s.strands := rfl
@[simp] theorem State.setCore_quarters (s : State) (c : Nat) (x : CoreSt) : (s.setCore c x).quarters = s.quarters := rfl
@[simp] theorem State.setCore_dies (s : State) (c : Nat) (x : CoreSt) : (s.setCore c x).dies = s.dies := rfl
@[simp] theorem State.setCore_slices (s : State) (c : Nat) (x : CoreSt) : (s.setCore c x).slices = s.slices := rfl
@[simp] theorem State.setCore_scache (s : State) (c : Nat) (x : CoreSt) : (s.setCore c x).scache = s.scache := rfl
@[simp] theorem State.setCore_ctxs (s : State) (c : Nat) (x : CoreSt) : (s.setCore c x).ctxs = s.ctxs := rfl
@[simp] theorem State.setCore_parts (s : State) (c : Nat) (x : CoreSt) : (s.setCore c x).parts = s.parts := rfl
@[simp] theorem State.setCore_funcs (s : State) (c : Nat) (x : CoreSt) : (s.setCore c x).funcs = s.funcs := rfl
@[simp] theorem State.setCore_ifaces (s : State) (c : Nat) (x : CoreSt) : (s.setCore c x).ifaces = s.ifaces := rfl
@[simp] theorem State.setCore_loads (s : State) (c : Nat) (x : CoreSt) : (s.setCore c x).loads = s.loads := rfl
@[simp] theorem State.setCore_bars (s : State) (c : Nat) (x : CoreSt) : (s.setCore c x).bars = s.bars := rfl
@[simp] theorem State.setCore_launches (s : State) (c : Nat) (x : CoreSt) : (s.setCore c x).launches = s.launches := rfl
@[simp] theorem State.setCore_cpls (s : State) (c : Nat) (x : CoreSt) : (s.setCore c x).cpls = s.cpls := rfl
@[simp] theorem State.setCore_xfers (s : State) (c : Nat) (x : CoreSt) : (s.setCore c x).xfers = s.xfers := rfl
@[simp] theorem State.setCore_qwaiters (s : State) (c : Nat) (x : CoreSt) : (s.setCore c x).qwaiters = s.qwaiters := rfl
@[simp] theorem State.setCore_colls (s : State) (c : Nat) (x : CoreSt) : (s.setCore c x).colls = s.colls := rfl
@[simp] theorem State.setCore_claims (s : State) (c : Nat) (x : CoreSt) : (s.setCore c x).claims = s.claims := rfl
@[simp] theorem State.setCore_sessions (s : State) (c : Nat) (x : CoreSt) : (s.setCore c x).sessions = s.sessions := rfl
@[simp] theorem State.setCore_serialWait (s : State) (c : Nat) (x : CoreSt) : (s.setCore c x).serialWait = s.serialWait := rfl
@[simp] theorem State.setCore_tokenHeld (s : State) (c : Nat) (x : CoreSt) : (s.setCore c x).tokenHeld = s.tokenHeld := rfl
@[simp] theorem State.setCore_draws (s : State) (c : Nat) (x : CoreSt) : (s.setCore c x).draws = s.draws := rfl
@[simp] theorem State.setCore_tickStart (s : State) (c : Nat) (x : CoreSt) : (s.setCore c x).tickStart = s.tickStart := rfl
@[simp] theorem State.setCore_corr (s : State) (c : Nat) (x : CoreSt) : (s.setCore c x).corr = s.corr := rfl
@[simp] theorem State.setCore_windowCharge (s : State) (c : Nat) (x : CoreSt) : (s.setCore c x).windowCharge = s.windowCharge := rfl
@[simp] theorem State.setCore_rolled (s : State) (c : Nat) (x : CoreSt) : (s.setCore c x).rolled = s.rolled := rfl
@[simp] theorem State.setCore_unattributed (s : State) (c : Nat) (x : CoreSt) : (s.setCore c x).unattributed = s.unattributed := rfl
@[simp] theorem State.setCore_pkg (s : State) (c : Nat) (x : CoreSt) : (s.setCore c x).pkg = s.pkg := rfl
@[simp] theorem State.setCore_nextId (s : State) (c : Nat) (x : CoreSt) : (s.setCore c x).nextId = s.nextId := rfl
@[simp] theorem State.setCore_inputs (s : State) (c : Nat) (x : CoreSt) : (s.setCore c x).inputs = s.inputs := rfl
@[simp] theorem State.setCore_pending (s : State) (c : Nat) (x : CoreSt) : (s.setCore c x).pending = s.pending := rfl
@[simp] theorem State.setCore_out (s : State) (c : Nat) (x : CoreSt) : (s.setCore c x).out = s.out := rfl
@[simp] theorem State.setCore_stuck (s : State) (c : Nat) (x : CoreSt) : (s.setCore c x).stuck = s.stuck := rfl
@[simp] theorem State.setCore_held (s : State) (c : Nat) (x : CoreSt) : (s.setCore c x).held = s.held := rfl
@[simp] theorem State.setCore_stalled (s : State) (c : Nat) (x : CoreSt) : (s.setCore c x).stalled = s.stalled := rfl
@[simp] theorem State.setCore_iss (s : State) (c : Nat) (x : CoreSt) : (s.setCore c x).iss = s.iss := rfl

/-! ### setQuarter -/

@[simp] theorem State.setQuarter_power (s : State) (q : Nat) (x : QuarterSt) : (s.setQuarter q x).power = s.power := rfl
@[simp] theorem State.setQuarter_clock (s : State) (q : Nat) (x : QuarterSt) : (s.setQuarter q x).clock = s.clock := rfl
@[simp] theorem State.setQuarter_podTime (s : State) (q : Nat) (x : QuarterSt) : (s.setQuarter q x).podTime = s.podTime := rfl
@[simp] theorem State.setQuarter_free (s : State) (q : Nat) (x : QuarterSt) : (s.setQuarter q x).free = s.free := rfl
@[simp] theorem State.setQuarter_hbm (s : State) (q : Nat) (x : QuarterSt) : (s.setQuarter q x).hbm = s.hbm := rfl
@[simp] theorem State.setQuarter_hostMem (s : State) (q : Nat) (x : QuarterSt) : (s.setQuarter q x).hostMem = s.hostMem := rfl
@[simp] theorem State.setQuarter_keyed (s : State) (q : Nat) (x : QuarterSt) : (s.setQuarter q x).keyed = s.keyed := rfl
@[simp] theorem State.setQuarter_strands (s : State) (q : Nat) (x : QuarterSt) : (s.setQuarter q x).strands = s.strands := rfl
@[simp] theorem State.setQuarter_cores (s : State) (q : Nat) (x : QuarterSt) : (s.setQuarter q x).cores = s.cores := rfl
@[simp] theorem State.setQuarter_dies (s : State) (q : Nat) (x : QuarterSt) : (s.setQuarter q x).dies = s.dies := rfl
@[simp] theorem State.setQuarter_slices (s : State) (q : Nat) (x : QuarterSt) : (s.setQuarter q x).slices = s.slices := rfl
@[simp] theorem State.setQuarter_scache (s : State) (q : Nat) (x : QuarterSt) : (s.setQuarter q x).scache = s.scache := rfl
@[simp] theorem State.setQuarter_ctxs (s : State) (q : Nat) (x : QuarterSt) : (s.setQuarter q x).ctxs = s.ctxs := rfl
@[simp] theorem State.setQuarter_parts (s : State) (q : Nat) (x : QuarterSt) : (s.setQuarter q x).parts = s.parts := rfl
@[simp] theorem State.setQuarter_funcs (s : State) (q : Nat) (x : QuarterSt) : (s.setQuarter q x).funcs = s.funcs := rfl
@[simp] theorem State.setQuarter_ifaces (s : State) (q : Nat) (x : QuarterSt) : (s.setQuarter q x).ifaces = s.ifaces := rfl
@[simp] theorem State.setQuarter_loads (s : State) (q : Nat) (x : QuarterSt) : (s.setQuarter q x).loads = s.loads := rfl
@[simp] theorem State.setQuarter_bars (s : State) (q : Nat) (x : QuarterSt) : (s.setQuarter q x).bars = s.bars := rfl
@[simp] theorem State.setQuarter_launches (s : State) (q : Nat) (x : QuarterSt) : (s.setQuarter q x).launches = s.launches := rfl
@[simp] theorem State.setQuarter_cpls (s : State) (q : Nat) (x : QuarterSt) : (s.setQuarter q x).cpls = s.cpls := rfl
@[simp] theorem State.setQuarter_xfers (s : State) (q : Nat) (x : QuarterSt) : (s.setQuarter q x).xfers = s.xfers := rfl
@[simp] theorem State.setQuarter_qwaiters (s : State) (q : Nat) (x : QuarterSt) : (s.setQuarter q x).qwaiters = s.qwaiters := rfl
@[simp] theorem State.setQuarter_colls (s : State) (q : Nat) (x : QuarterSt) : (s.setQuarter q x).colls = s.colls := rfl
@[simp] theorem State.setQuarter_claims (s : State) (q : Nat) (x : QuarterSt) : (s.setQuarter q x).claims = s.claims := rfl
@[simp] theorem State.setQuarter_sessions (s : State) (q : Nat) (x : QuarterSt) : (s.setQuarter q x).sessions = s.sessions := rfl
@[simp] theorem State.setQuarter_serialWait (s : State) (q : Nat) (x : QuarterSt) : (s.setQuarter q x).serialWait = s.serialWait := rfl
@[simp] theorem State.setQuarter_tokenHeld (s : State) (q : Nat) (x : QuarterSt) : (s.setQuarter q x).tokenHeld = s.tokenHeld := rfl
@[simp] theorem State.setQuarter_draws (s : State) (q : Nat) (x : QuarterSt) : (s.setQuarter q x).draws = s.draws := rfl
@[simp] theorem State.setQuarter_tickStart (s : State) (q : Nat) (x : QuarterSt) : (s.setQuarter q x).tickStart = s.tickStart := rfl
@[simp] theorem State.setQuarter_corr (s : State) (q : Nat) (x : QuarterSt) : (s.setQuarter q x).corr = s.corr := rfl
@[simp] theorem State.setQuarter_windowCharge (s : State) (q : Nat) (x : QuarterSt) : (s.setQuarter q x).windowCharge = s.windowCharge := rfl
@[simp] theorem State.setQuarter_rolled (s : State) (q : Nat) (x : QuarterSt) : (s.setQuarter q x).rolled = s.rolled := rfl
@[simp] theorem State.setQuarter_unattributed (s : State) (q : Nat) (x : QuarterSt) : (s.setQuarter q x).unattributed = s.unattributed := rfl
@[simp] theorem State.setQuarter_pkg (s : State) (q : Nat) (x : QuarterSt) : (s.setQuarter q x).pkg = s.pkg := rfl
@[simp] theorem State.setQuarter_nextId (s : State) (q : Nat) (x : QuarterSt) : (s.setQuarter q x).nextId = s.nextId := rfl
@[simp] theorem State.setQuarter_inputs (s : State) (q : Nat) (x : QuarterSt) : (s.setQuarter q x).inputs = s.inputs := rfl
@[simp] theorem State.setQuarter_pending (s : State) (q : Nat) (x : QuarterSt) : (s.setQuarter q x).pending = s.pending := rfl
@[simp] theorem State.setQuarter_out (s : State) (q : Nat) (x : QuarterSt) : (s.setQuarter q x).out = s.out := rfl
@[simp] theorem State.setQuarter_stuck (s : State) (q : Nat) (x : QuarterSt) : (s.setQuarter q x).stuck = s.stuck := rfl
@[simp] theorem State.setQuarter_held (s : State) (q : Nat) (x : QuarterSt) : (s.setQuarter q x).held = s.held := rfl
@[simp] theorem State.setQuarter_stalled (s : State) (q : Nat) (x : QuarterSt) : (s.setQuarter q x).stalled = s.stalled := rfl
@[simp] theorem State.setQuarter_iss (s : State) (q : Nat) (x : QuarterSt) : (s.setQuarter q x).iss = s.iss := rfl

/-! ### setDie -/

@[simp] theorem State.setDie_power (s : State) (d : Nat) (x : DieSt) : (s.setDie d x).power = s.power := rfl
@[simp] theorem State.setDie_clock (s : State) (d : Nat) (x : DieSt) : (s.setDie d x).clock = s.clock := rfl
@[simp] theorem State.setDie_podTime (s : State) (d : Nat) (x : DieSt) : (s.setDie d x).podTime = s.podTime := rfl
@[simp] theorem State.setDie_free (s : State) (d : Nat) (x : DieSt) : (s.setDie d x).free = s.free := rfl
@[simp] theorem State.setDie_hbm (s : State) (d : Nat) (x : DieSt) : (s.setDie d x).hbm = s.hbm := rfl
@[simp] theorem State.setDie_hostMem (s : State) (d : Nat) (x : DieSt) : (s.setDie d x).hostMem = s.hostMem := rfl
@[simp] theorem State.setDie_keyed (s : State) (d : Nat) (x : DieSt) : (s.setDie d x).keyed = s.keyed := rfl
@[simp] theorem State.setDie_strands (s : State) (d : Nat) (x : DieSt) : (s.setDie d x).strands = s.strands := rfl
@[simp] theorem State.setDie_cores (s : State) (d : Nat) (x : DieSt) : (s.setDie d x).cores = s.cores := rfl
@[simp] theorem State.setDie_quarters (s : State) (d : Nat) (x : DieSt) : (s.setDie d x).quarters = s.quarters := rfl
@[simp] theorem State.setDie_slices (s : State) (d : Nat) (x : DieSt) : (s.setDie d x).slices = s.slices := rfl
@[simp] theorem State.setDie_scache (s : State) (d : Nat) (x : DieSt) : (s.setDie d x).scache = s.scache := rfl
@[simp] theorem State.setDie_ctxs (s : State) (d : Nat) (x : DieSt) : (s.setDie d x).ctxs = s.ctxs := rfl
@[simp] theorem State.setDie_parts (s : State) (d : Nat) (x : DieSt) : (s.setDie d x).parts = s.parts := rfl
@[simp] theorem State.setDie_funcs (s : State) (d : Nat) (x : DieSt) : (s.setDie d x).funcs = s.funcs := rfl
@[simp] theorem State.setDie_ifaces (s : State) (d : Nat) (x : DieSt) : (s.setDie d x).ifaces = s.ifaces := rfl
@[simp] theorem State.setDie_loads (s : State) (d : Nat) (x : DieSt) : (s.setDie d x).loads = s.loads := rfl
@[simp] theorem State.setDie_bars (s : State) (d : Nat) (x : DieSt) : (s.setDie d x).bars = s.bars := rfl
@[simp] theorem State.setDie_launches (s : State) (d : Nat) (x : DieSt) : (s.setDie d x).launches = s.launches := rfl
@[simp] theorem State.setDie_cpls (s : State) (d : Nat) (x : DieSt) : (s.setDie d x).cpls = s.cpls := rfl
@[simp] theorem State.setDie_xfers (s : State) (d : Nat) (x : DieSt) : (s.setDie d x).xfers = s.xfers := rfl
@[simp] theorem State.setDie_qwaiters (s : State) (d : Nat) (x : DieSt) : (s.setDie d x).qwaiters = s.qwaiters := rfl
@[simp] theorem State.setDie_colls (s : State) (d : Nat) (x : DieSt) : (s.setDie d x).colls = s.colls := rfl
@[simp] theorem State.setDie_claims (s : State) (d : Nat) (x : DieSt) : (s.setDie d x).claims = s.claims := rfl
@[simp] theorem State.setDie_sessions (s : State) (d : Nat) (x : DieSt) : (s.setDie d x).sessions = s.sessions := rfl
@[simp] theorem State.setDie_serialWait (s : State) (d : Nat) (x : DieSt) : (s.setDie d x).serialWait = s.serialWait := rfl
@[simp] theorem State.setDie_tokenHeld (s : State) (d : Nat) (x : DieSt) : (s.setDie d x).tokenHeld = s.tokenHeld := rfl
@[simp] theorem State.setDie_draws (s : State) (d : Nat) (x : DieSt) : (s.setDie d x).draws = s.draws := rfl
@[simp] theorem State.setDie_tickStart (s : State) (d : Nat) (x : DieSt) : (s.setDie d x).tickStart = s.tickStart := rfl
@[simp] theorem State.setDie_corr (s : State) (d : Nat) (x : DieSt) : (s.setDie d x).corr = s.corr := rfl
@[simp] theorem State.setDie_windowCharge (s : State) (d : Nat) (x : DieSt) : (s.setDie d x).windowCharge = s.windowCharge := rfl
@[simp] theorem State.setDie_rolled (s : State) (d : Nat) (x : DieSt) : (s.setDie d x).rolled = s.rolled := rfl
@[simp] theorem State.setDie_unattributed (s : State) (d : Nat) (x : DieSt) : (s.setDie d x).unattributed = s.unattributed := rfl
@[simp] theorem State.setDie_pkg (s : State) (d : Nat) (x : DieSt) : (s.setDie d x).pkg = s.pkg := rfl
@[simp] theorem State.setDie_nextId (s : State) (d : Nat) (x : DieSt) : (s.setDie d x).nextId = s.nextId := rfl
@[simp] theorem State.setDie_inputs (s : State) (d : Nat) (x : DieSt) : (s.setDie d x).inputs = s.inputs := rfl
@[simp] theorem State.setDie_pending (s : State) (d : Nat) (x : DieSt) : (s.setDie d x).pending = s.pending := rfl
@[simp] theorem State.setDie_out (s : State) (d : Nat) (x : DieSt) : (s.setDie d x).out = s.out := rfl
@[simp] theorem State.setDie_stuck (s : State) (d : Nat) (x : DieSt) : (s.setDie d x).stuck = s.stuck := rfl
@[simp] theorem State.setDie_held (s : State) (d : Nat) (x : DieSt) : (s.setDie d x).held = s.held := rfl
@[simp] theorem State.setDie_stalled (s : State) (d : Nat) (x : DieSt) : (s.setDie d x).stalled = s.stalled := rfl
@[simp] theorem State.setDie_iss (s : State) (d : Nat) (x : DieSt) : (s.setDie d x).iss = s.iss := rfl

/-! ### setSlice -/

@[simp] theorem State.setSlice_power (s : State) (i : Nat) (x : SliceSt) : (s.setSlice i x).power = s.power := rfl
@[simp] theorem State.setSlice_clock (s : State) (i : Nat) (x : SliceSt) : (s.setSlice i x).clock = s.clock := rfl
@[simp] theorem State.setSlice_podTime (s : State) (i : Nat) (x : SliceSt) : (s.setSlice i x).podTime = s.podTime := rfl
@[simp] theorem State.setSlice_free (s : State) (i : Nat) (x : SliceSt) : (s.setSlice i x).free = s.free := rfl
@[simp] theorem State.setSlice_hbm (s : State) (i : Nat) (x : SliceSt) : (s.setSlice i x).hbm = s.hbm := rfl
@[simp] theorem State.setSlice_hostMem (s : State) (i : Nat) (x : SliceSt) : (s.setSlice i x).hostMem = s.hostMem := rfl
@[simp] theorem State.setSlice_keyed (s : State) (i : Nat) (x : SliceSt) : (s.setSlice i x).keyed = s.keyed := rfl
@[simp] theorem State.setSlice_strands (s : State) (i : Nat) (x : SliceSt) : (s.setSlice i x).strands = s.strands := rfl
@[simp] theorem State.setSlice_cores (s : State) (i : Nat) (x : SliceSt) : (s.setSlice i x).cores = s.cores := rfl
@[simp] theorem State.setSlice_quarters (s : State) (i : Nat) (x : SliceSt) : (s.setSlice i x).quarters = s.quarters := rfl
@[simp] theorem State.setSlice_dies (s : State) (i : Nat) (x : SliceSt) : (s.setSlice i x).dies = s.dies := rfl
@[simp] theorem State.setSlice_scache (s : State) (i : Nat) (x : SliceSt) : (s.setSlice i x).scache = s.scache := rfl
@[simp] theorem State.setSlice_ctxs (s : State) (i : Nat) (x : SliceSt) : (s.setSlice i x).ctxs = s.ctxs := rfl
@[simp] theorem State.setSlice_parts (s : State) (i : Nat) (x : SliceSt) : (s.setSlice i x).parts = s.parts := rfl
@[simp] theorem State.setSlice_funcs (s : State) (i : Nat) (x : SliceSt) : (s.setSlice i x).funcs = s.funcs := rfl
@[simp] theorem State.setSlice_ifaces (s : State) (i : Nat) (x : SliceSt) : (s.setSlice i x).ifaces = s.ifaces := rfl
@[simp] theorem State.setSlice_loads (s : State) (i : Nat) (x : SliceSt) : (s.setSlice i x).loads = s.loads := rfl
@[simp] theorem State.setSlice_bars (s : State) (i : Nat) (x : SliceSt) : (s.setSlice i x).bars = s.bars := rfl
@[simp] theorem State.setSlice_launches (s : State) (i : Nat) (x : SliceSt) : (s.setSlice i x).launches = s.launches := rfl
@[simp] theorem State.setSlice_cpls (s : State) (i : Nat) (x : SliceSt) : (s.setSlice i x).cpls = s.cpls := rfl
@[simp] theorem State.setSlice_xfers (s : State) (i : Nat) (x : SliceSt) : (s.setSlice i x).xfers = s.xfers := rfl
@[simp] theorem State.setSlice_qwaiters (s : State) (i : Nat) (x : SliceSt) : (s.setSlice i x).qwaiters = s.qwaiters := rfl
@[simp] theorem State.setSlice_colls (s : State) (i : Nat) (x : SliceSt) : (s.setSlice i x).colls = s.colls := rfl
@[simp] theorem State.setSlice_claims (s : State) (i : Nat) (x : SliceSt) : (s.setSlice i x).claims = s.claims := rfl
@[simp] theorem State.setSlice_sessions (s : State) (i : Nat) (x : SliceSt) : (s.setSlice i x).sessions = s.sessions := rfl
@[simp] theorem State.setSlice_serialWait (s : State) (i : Nat) (x : SliceSt) : (s.setSlice i x).serialWait = s.serialWait := rfl
@[simp] theorem State.setSlice_tokenHeld (s : State) (i : Nat) (x : SliceSt) : (s.setSlice i x).tokenHeld = s.tokenHeld := rfl
@[simp] theorem State.setSlice_draws (s : State) (i : Nat) (x : SliceSt) : (s.setSlice i x).draws = s.draws := rfl
@[simp] theorem State.setSlice_tickStart (s : State) (i : Nat) (x : SliceSt) : (s.setSlice i x).tickStart = s.tickStart := rfl
@[simp] theorem State.setSlice_corr (s : State) (i : Nat) (x : SliceSt) : (s.setSlice i x).corr = s.corr := rfl
@[simp] theorem State.setSlice_windowCharge (s : State) (i : Nat) (x : SliceSt) : (s.setSlice i x).windowCharge = s.windowCharge := rfl
@[simp] theorem State.setSlice_rolled (s : State) (i : Nat) (x : SliceSt) : (s.setSlice i x).rolled = s.rolled := rfl
@[simp] theorem State.setSlice_unattributed (s : State) (i : Nat) (x : SliceSt) : (s.setSlice i x).unattributed = s.unattributed := rfl
@[simp] theorem State.setSlice_pkg (s : State) (i : Nat) (x : SliceSt) : (s.setSlice i x).pkg = s.pkg := rfl
@[simp] theorem State.setSlice_nextId (s : State) (i : Nat) (x : SliceSt) : (s.setSlice i x).nextId = s.nextId := rfl
@[simp] theorem State.setSlice_inputs (s : State) (i : Nat) (x : SliceSt) : (s.setSlice i x).inputs = s.inputs := rfl
@[simp] theorem State.setSlice_pending (s : State) (i : Nat) (x : SliceSt) : (s.setSlice i x).pending = s.pending := rfl
@[simp] theorem State.setSlice_out (s : State) (i : Nat) (x : SliceSt) : (s.setSlice i x).out = s.out := rfl
@[simp] theorem State.setSlice_stuck (s : State) (i : Nat) (x : SliceSt) : (s.setSlice i x).stuck = s.stuck := rfl
@[simp] theorem State.setSlice_held (s : State) (i : Nat) (x : SliceSt) : (s.setSlice i x).held = s.held := rfl
@[simp] theorem State.setSlice_stalled (s : State) (i : Nat) (x : SliceSt) : (s.setSlice i x).stalled = s.stalled := rfl
@[simp] theorem State.setSlice_iss (s : State) (i : Nat) (x : SliceSt) : (s.setSlice i x).iss = s.iss := rfl

/-! ### setCtx -/

@[simp] theorem State.setCtx_power (s : State) (c : Nat) (x : Ctx) : (s.setCtx c x).power = s.power := rfl
@[simp] theorem State.setCtx_clock (s : State) (c : Nat) (x : Ctx) : (s.setCtx c x).clock = s.clock := rfl
@[simp] theorem State.setCtx_podTime (s : State) (c : Nat) (x : Ctx) : (s.setCtx c x).podTime = s.podTime := rfl
@[simp] theorem State.setCtx_free (s : State) (c : Nat) (x : Ctx) : (s.setCtx c x).free = s.free := rfl
@[simp] theorem State.setCtx_hbm (s : State) (c : Nat) (x : Ctx) : (s.setCtx c x).hbm = s.hbm := rfl
@[simp] theorem State.setCtx_hostMem (s : State) (c : Nat) (x : Ctx) : (s.setCtx c x).hostMem = s.hostMem := rfl
@[simp] theorem State.setCtx_keyed (s : State) (c : Nat) (x : Ctx) : (s.setCtx c x).keyed = s.keyed := rfl
@[simp] theorem State.setCtx_strands (s : State) (c : Nat) (x : Ctx) : (s.setCtx c x).strands = s.strands := rfl
@[simp] theorem State.setCtx_cores (s : State) (c : Nat) (x : Ctx) : (s.setCtx c x).cores = s.cores := rfl
@[simp] theorem State.setCtx_quarters (s : State) (c : Nat) (x : Ctx) : (s.setCtx c x).quarters = s.quarters := rfl
@[simp] theorem State.setCtx_dies (s : State) (c : Nat) (x : Ctx) : (s.setCtx c x).dies = s.dies := rfl
@[simp] theorem State.setCtx_slices (s : State) (c : Nat) (x : Ctx) : (s.setCtx c x).slices = s.slices := rfl
@[simp] theorem State.setCtx_scache (s : State) (c : Nat) (x : Ctx) : (s.setCtx c x).scache = s.scache := rfl
@[simp] theorem State.setCtx_parts (s : State) (c : Nat) (x : Ctx) : (s.setCtx c x).parts = s.parts := rfl
@[simp] theorem State.setCtx_funcs (s : State) (c : Nat) (x : Ctx) : (s.setCtx c x).funcs = s.funcs := rfl
@[simp] theorem State.setCtx_ifaces (s : State) (c : Nat) (x : Ctx) : (s.setCtx c x).ifaces = s.ifaces := rfl
@[simp] theorem State.setCtx_loads (s : State) (c : Nat) (x : Ctx) : (s.setCtx c x).loads = s.loads := rfl
@[simp] theorem State.setCtx_bars (s : State) (c : Nat) (x : Ctx) : (s.setCtx c x).bars = s.bars := rfl
@[simp] theorem State.setCtx_launches (s : State) (c : Nat) (x : Ctx) : (s.setCtx c x).launches = s.launches := rfl
@[simp] theorem State.setCtx_cpls (s : State) (c : Nat) (x : Ctx) : (s.setCtx c x).cpls = s.cpls := rfl
@[simp] theorem State.setCtx_xfers (s : State) (c : Nat) (x : Ctx) : (s.setCtx c x).xfers = s.xfers := rfl
@[simp] theorem State.setCtx_qwaiters (s : State) (c : Nat) (x : Ctx) : (s.setCtx c x).qwaiters = s.qwaiters := rfl
@[simp] theorem State.setCtx_colls (s : State) (c : Nat) (x : Ctx) : (s.setCtx c x).colls = s.colls := rfl
@[simp] theorem State.setCtx_claims (s : State) (c : Nat) (x : Ctx) : (s.setCtx c x).claims = s.claims := rfl
@[simp] theorem State.setCtx_sessions (s : State) (c : Nat) (x : Ctx) : (s.setCtx c x).sessions = s.sessions := rfl
@[simp] theorem State.setCtx_serialWait (s : State) (c : Nat) (x : Ctx) : (s.setCtx c x).serialWait = s.serialWait := rfl
@[simp] theorem State.setCtx_tokenHeld (s : State) (c : Nat) (x : Ctx) : (s.setCtx c x).tokenHeld = s.tokenHeld := rfl
@[simp] theorem State.setCtx_draws (s : State) (c : Nat) (x : Ctx) : (s.setCtx c x).draws = s.draws := rfl
@[simp] theorem State.setCtx_tickStart (s : State) (c : Nat) (x : Ctx) : (s.setCtx c x).tickStart = s.tickStart := rfl
@[simp] theorem State.setCtx_corr (s : State) (c : Nat) (x : Ctx) : (s.setCtx c x).corr = s.corr := rfl
@[simp] theorem State.setCtx_windowCharge (s : State) (c : Nat) (x : Ctx) : (s.setCtx c x).windowCharge = s.windowCharge := rfl
@[simp] theorem State.setCtx_rolled (s : State) (c : Nat) (x : Ctx) : (s.setCtx c x).rolled = s.rolled := rfl
@[simp] theorem State.setCtx_unattributed (s : State) (c : Nat) (x : Ctx) : (s.setCtx c x).unattributed = s.unattributed := rfl
@[simp] theorem State.setCtx_pkg (s : State) (c : Nat) (x : Ctx) : (s.setCtx c x).pkg = s.pkg := rfl
@[simp] theorem State.setCtx_nextId (s : State) (c : Nat) (x : Ctx) : (s.setCtx c x).nextId = s.nextId := rfl
@[simp] theorem State.setCtx_inputs (s : State) (c : Nat) (x : Ctx) : (s.setCtx c x).inputs = s.inputs := rfl
@[simp] theorem State.setCtx_pending (s : State) (c : Nat) (x : Ctx) : (s.setCtx c x).pending = s.pending := rfl
@[simp] theorem State.setCtx_out (s : State) (c : Nat) (x : Ctx) : (s.setCtx c x).out = s.out := rfl
@[simp] theorem State.setCtx_stuck (s : State) (c : Nat) (x : Ctx) : (s.setCtx c x).stuck = s.stuck := rfl
@[simp] theorem State.setCtx_held (s : State) (c : Nat) (x : Ctx) : (s.setCtx c x).held = s.held := rfl
@[simp] theorem State.setCtx_stalled (s : State) (c : Nat) (x : Ctx) : (s.setCtx c x).stalled = s.stalled := rfl
@[simp] theorem State.setCtx_iss (s : State) (c : Nat) (x : Ctx) : (s.setCtx c x).iss = s.iss := rfl

/-! ### setPart -/

@[simp] theorem State.setPart_power (s : State) (p : Nat) (x : Partition) : (s.setPart p x).power = s.power := rfl
@[simp] theorem State.setPart_clock (s : State) (p : Nat) (x : Partition) : (s.setPart p x).clock = s.clock := rfl
@[simp] theorem State.setPart_podTime (s : State) (p : Nat) (x : Partition) : (s.setPart p x).podTime = s.podTime := rfl
@[simp] theorem State.setPart_free (s : State) (p : Nat) (x : Partition) : (s.setPart p x).free = s.free := rfl
@[simp] theorem State.setPart_hbm (s : State) (p : Nat) (x : Partition) : (s.setPart p x).hbm = s.hbm := rfl
@[simp] theorem State.setPart_hostMem (s : State) (p : Nat) (x : Partition) : (s.setPart p x).hostMem = s.hostMem := rfl
@[simp] theorem State.setPart_keyed (s : State) (p : Nat) (x : Partition) : (s.setPart p x).keyed = s.keyed := rfl
@[simp] theorem State.setPart_strands (s : State) (p : Nat) (x : Partition) : (s.setPart p x).strands = s.strands := rfl
@[simp] theorem State.setPart_cores (s : State) (p : Nat) (x : Partition) : (s.setPart p x).cores = s.cores := rfl
@[simp] theorem State.setPart_quarters (s : State) (p : Nat) (x : Partition) : (s.setPart p x).quarters = s.quarters := rfl
@[simp] theorem State.setPart_dies (s : State) (p : Nat) (x : Partition) : (s.setPart p x).dies = s.dies := rfl
@[simp] theorem State.setPart_slices (s : State) (p : Nat) (x : Partition) : (s.setPart p x).slices = s.slices := rfl
@[simp] theorem State.setPart_scache (s : State) (p : Nat) (x : Partition) : (s.setPart p x).scache = s.scache := rfl
@[simp] theorem State.setPart_ctxs (s : State) (p : Nat) (x : Partition) : (s.setPart p x).ctxs = s.ctxs := rfl
@[simp] theorem State.setPart_funcs (s : State) (p : Nat) (x : Partition) : (s.setPart p x).funcs = s.funcs := rfl
@[simp] theorem State.setPart_ifaces (s : State) (p : Nat) (x : Partition) : (s.setPart p x).ifaces = s.ifaces := rfl
@[simp] theorem State.setPart_loads (s : State) (p : Nat) (x : Partition) : (s.setPart p x).loads = s.loads := rfl
@[simp] theorem State.setPart_bars (s : State) (p : Nat) (x : Partition) : (s.setPart p x).bars = s.bars := rfl
@[simp] theorem State.setPart_launches (s : State) (p : Nat) (x : Partition) : (s.setPart p x).launches = s.launches := rfl
@[simp] theorem State.setPart_cpls (s : State) (p : Nat) (x : Partition) : (s.setPart p x).cpls = s.cpls := rfl
@[simp] theorem State.setPart_xfers (s : State) (p : Nat) (x : Partition) : (s.setPart p x).xfers = s.xfers := rfl
@[simp] theorem State.setPart_qwaiters (s : State) (p : Nat) (x : Partition) : (s.setPart p x).qwaiters = s.qwaiters := rfl
@[simp] theorem State.setPart_colls (s : State) (p : Nat) (x : Partition) : (s.setPart p x).colls = s.colls := rfl
@[simp] theorem State.setPart_claims (s : State) (p : Nat) (x : Partition) : (s.setPart p x).claims = s.claims := rfl
@[simp] theorem State.setPart_sessions (s : State) (p : Nat) (x : Partition) : (s.setPart p x).sessions = s.sessions := rfl
@[simp] theorem State.setPart_serialWait (s : State) (p : Nat) (x : Partition) : (s.setPart p x).serialWait = s.serialWait := rfl
@[simp] theorem State.setPart_tokenHeld (s : State) (p : Nat) (x : Partition) : (s.setPart p x).tokenHeld = s.tokenHeld := rfl
@[simp] theorem State.setPart_draws (s : State) (p : Nat) (x : Partition) : (s.setPart p x).draws = s.draws := rfl
@[simp] theorem State.setPart_tickStart (s : State) (p : Nat) (x : Partition) : (s.setPart p x).tickStart = s.tickStart := rfl
@[simp] theorem State.setPart_corr (s : State) (p : Nat) (x : Partition) : (s.setPart p x).corr = s.corr := rfl
@[simp] theorem State.setPart_windowCharge (s : State) (p : Nat) (x : Partition) : (s.setPart p x).windowCharge = s.windowCharge := rfl
@[simp] theorem State.setPart_rolled (s : State) (p : Nat) (x : Partition) : (s.setPart p x).rolled = s.rolled := rfl
@[simp] theorem State.setPart_unattributed (s : State) (p : Nat) (x : Partition) : (s.setPart p x).unattributed = s.unattributed := rfl
@[simp] theorem State.setPart_pkg (s : State) (p : Nat) (x : Partition) : (s.setPart p x).pkg = s.pkg := rfl
@[simp] theorem State.setPart_nextId (s : State) (p : Nat) (x : Partition) : (s.setPart p x).nextId = s.nextId := rfl
@[simp] theorem State.setPart_inputs (s : State) (p : Nat) (x : Partition) : (s.setPart p x).inputs = s.inputs := rfl
@[simp] theorem State.setPart_pending (s : State) (p : Nat) (x : Partition) : (s.setPart p x).pending = s.pending := rfl
@[simp] theorem State.setPart_out (s : State) (p : Nat) (x : Partition) : (s.setPart p x).out = s.out := rfl
@[simp] theorem State.setPart_stuck (s : State) (p : Nat) (x : Partition) : (s.setPart p x).stuck = s.stuck := rfl
@[simp] theorem State.setPart_held (s : State) (p : Nat) (x : Partition) : (s.setPart p x).held = s.held := rfl
@[simp] theorem State.setPart_stalled (s : State) (p : Nat) (x : Partition) : (s.setPart p x).stalled = s.stalled := rfl
@[simp] theorem State.setPart_iss (s : State) (p : Nat) (x : Partition) : (s.setPart p x).iss = s.iss := rfl

/-! ### setFunc -/

@[simp] theorem State.setFunc_power (s : State) (f : Nat) (x : Func) : (s.setFunc f x).power = s.power := rfl
@[simp] theorem State.setFunc_clock (s : State) (f : Nat) (x : Func) : (s.setFunc f x).clock = s.clock := rfl
@[simp] theorem State.setFunc_podTime (s : State) (f : Nat) (x : Func) : (s.setFunc f x).podTime = s.podTime := rfl
@[simp] theorem State.setFunc_free (s : State) (f : Nat) (x : Func) : (s.setFunc f x).free = s.free := rfl
@[simp] theorem State.setFunc_hbm (s : State) (f : Nat) (x : Func) : (s.setFunc f x).hbm = s.hbm := rfl
@[simp] theorem State.setFunc_hostMem (s : State) (f : Nat) (x : Func) : (s.setFunc f x).hostMem = s.hostMem := rfl
@[simp] theorem State.setFunc_keyed (s : State) (f : Nat) (x : Func) : (s.setFunc f x).keyed = s.keyed := rfl
@[simp] theorem State.setFunc_strands (s : State) (f : Nat) (x : Func) : (s.setFunc f x).strands = s.strands := rfl
@[simp] theorem State.setFunc_cores (s : State) (f : Nat) (x : Func) : (s.setFunc f x).cores = s.cores := rfl
@[simp] theorem State.setFunc_quarters (s : State) (f : Nat) (x : Func) : (s.setFunc f x).quarters = s.quarters := rfl
@[simp] theorem State.setFunc_dies (s : State) (f : Nat) (x : Func) : (s.setFunc f x).dies = s.dies := rfl
@[simp] theorem State.setFunc_slices (s : State) (f : Nat) (x : Func) : (s.setFunc f x).slices = s.slices := rfl
@[simp] theorem State.setFunc_scache (s : State) (f : Nat) (x : Func) : (s.setFunc f x).scache = s.scache := rfl
@[simp] theorem State.setFunc_ctxs (s : State) (f : Nat) (x : Func) : (s.setFunc f x).ctxs = s.ctxs := rfl
@[simp] theorem State.setFunc_parts (s : State) (f : Nat) (x : Func) : (s.setFunc f x).parts = s.parts := rfl
@[simp] theorem State.setFunc_ifaces (s : State) (f : Nat) (x : Func) : (s.setFunc f x).ifaces = s.ifaces := rfl
@[simp] theorem State.setFunc_loads (s : State) (f : Nat) (x : Func) : (s.setFunc f x).loads = s.loads := rfl
@[simp] theorem State.setFunc_bars (s : State) (f : Nat) (x : Func) : (s.setFunc f x).bars = s.bars := rfl
@[simp] theorem State.setFunc_launches (s : State) (f : Nat) (x : Func) : (s.setFunc f x).launches = s.launches := rfl
@[simp] theorem State.setFunc_cpls (s : State) (f : Nat) (x : Func) : (s.setFunc f x).cpls = s.cpls := rfl
@[simp] theorem State.setFunc_xfers (s : State) (f : Nat) (x : Func) : (s.setFunc f x).xfers = s.xfers := rfl
@[simp] theorem State.setFunc_qwaiters (s : State) (f : Nat) (x : Func) : (s.setFunc f x).qwaiters = s.qwaiters := rfl
@[simp] theorem State.setFunc_colls (s : State) (f : Nat) (x : Func) : (s.setFunc f x).colls = s.colls := rfl
@[simp] theorem State.setFunc_claims (s : State) (f : Nat) (x : Func) : (s.setFunc f x).claims = s.claims := rfl
@[simp] theorem State.setFunc_sessions (s : State) (f : Nat) (x : Func) : (s.setFunc f x).sessions = s.sessions := rfl
@[simp] theorem State.setFunc_serialWait (s : State) (f : Nat) (x : Func) : (s.setFunc f x).serialWait = s.serialWait := rfl
@[simp] theorem State.setFunc_tokenHeld (s : State) (f : Nat) (x : Func) : (s.setFunc f x).tokenHeld = s.tokenHeld := rfl
@[simp] theorem State.setFunc_draws (s : State) (f : Nat) (x : Func) : (s.setFunc f x).draws = s.draws := rfl
@[simp] theorem State.setFunc_tickStart (s : State) (f : Nat) (x : Func) : (s.setFunc f x).tickStart = s.tickStart := rfl
@[simp] theorem State.setFunc_corr (s : State) (f : Nat) (x : Func) : (s.setFunc f x).corr = s.corr := rfl
@[simp] theorem State.setFunc_windowCharge (s : State) (f : Nat) (x : Func) : (s.setFunc f x).windowCharge = s.windowCharge := rfl
@[simp] theorem State.setFunc_rolled (s : State) (f : Nat) (x : Func) : (s.setFunc f x).rolled = s.rolled := rfl
@[simp] theorem State.setFunc_unattributed (s : State) (f : Nat) (x : Func) : (s.setFunc f x).unattributed = s.unattributed := rfl
@[simp] theorem State.setFunc_pkg (s : State) (f : Nat) (x : Func) : (s.setFunc f x).pkg = s.pkg := rfl
@[simp] theorem State.setFunc_nextId (s : State) (f : Nat) (x : Func) : (s.setFunc f x).nextId = s.nextId := rfl
@[simp] theorem State.setFunc_inputs (s : State) (f : Nat) (x : Func) : (s.setFunc f x).inputs = s.inputs := rfl
@[simp] theorem State.setFunc_pending (s : State) (f : Nat) (x : Func) : (s.setFunc f x).pending = s.pending := rfl
@[simp] theorem State.setFunc_out (s : State) (f : Nat) (x : Func) : (s.setFunc f x).out = s.out := rfl
@[simp] theorem State.setFunc_stuck (s : State) (f : Nat) (x : Func) : (s.setFunc f x).stuck = s.stuck := rfl
@[simp] theorem State.setFunc_held (s : State) (f : Nat) (x : Func) : (s.setFunc f x).held = s.held := rfl
@[simp] theorem State.setFunc_stalled (s : State) (f : Nat) (x : Func) : (s.setFunc f x).stalled = s.stalled := rfl
@[simp] theorem State.setFunc_iss (s : State) (f : Nat) (x : Func) : (s.setFunc f x).iss = s.iss := rfl

/-! ### setIface -/

@[simp] theorem State.setIface_power (s : State) (i : Nat) (x : Iface) : (s.setIface i x).power = s.power := rfl
@[simp] theorem State.setIface_clock (s : State) (i : Nat) (x : Iface) : (s.setIface i x).clock = s.clock := rfl
@[simp] theorem State.setIface_podTime (s : State) (i : Nat) (x : Iface) : (s.setIface i x).podTime = s.podTime := rfl
@[simp] theorem State.setIface_free (s : State) (i : Nat) (x : Iface) : (s.setIface i x).free = s.free := rfl
@[simp] theorem State.setIface_hbm (s : State) (i : Nat) (x : Iface) : (s.setIface i x).hbm = s.hbm := rfl
@[simp] theorem State.setIface_hostMem (s : State) (i : Nat) (x : Iface) : (s.setIface i x).hostMem = s.hostMem := rfl
@[simp] theorem State.setIface_keyed (s : State) (i : Nat) (x : Iface) : (s.setIface i x).keyed = s.keyed := rfl
@[simp] theorem State.setIface_strands (s : State) (i : Nat) (x : Iface) : (s.setIface i x).strands = s.strands := rfl
@[simp] theorem State.setIface_cores (s : State) (i : Nat) (x : Iface) : (s.setIface i x).cores = s.cores := rfl
@[simp] theorem State.setIface_quarters (s : State) (i : Nat) (x : Iface) : (s.setIface i x).quarters = s.quarters := rfl
@[simp] theorem State.setIface_dies (s : State) (i : Nat) (x : Iface) : (s.setIface i x).dies = s.dies := rfl
@[simp] theorem State.setIface_slices (s : State) (i : Nat) (x : Iface) : (s.setIface i x).slices = s.slices := rfl
@[simp] theorem State.setIface_scache (s : State) (i : Nat) (x : Iface) : (s.setIface i x).scache = s.scache := rfl
@[simp] theorem State.setIface_ctxs (s : State) (i : Nat) (x : Iface) : (s.setIface i x).ctxs = s.ctxs := rfl
@[simp] theorem State.setIface_parts (s : State) (i : Nat) (x : Iface) : (s.setIface i x).parts = s.parts := rfl
@[simp] theorem State.setIface_funcs (s : State) (i : Nat) (x : Iface) : (s.setIface i x).funcs = s.funcs := rfl
@[simp] theorem State.setIface_loads (s : State) (i : Nat) (x : Iface) : (s.setIface i x).loads = s.loads := rfl
@[simp] theorem State.setIface_bars (s : State) (i : Nat) (x : Iface) : (s.setIface i x).bars = s.bars := rfl
@[simp] theorem State.setIface_launches (s : State) (i : Nat) (x : Iface) : (s.setIface i x).launches = s.launches := rfl
@[simp] theorem State.setIface_cpls (s : State) (i : Nat) (x : Iface) : (s.setIface i x).cpls = s.cpls := rfl
@[simp] theorem State.setIface_xfers (s : State) (i : Nat) (x : Iface) : (s.setIface i x).xfers = s.xfers := rfl
@[simp] theorem State.setIface_qwaiters (s : State) (i : Nat) (x : Iface) : (s.setIface i x).qwaiters = s.qwaiters := rfl
@[simp] theorem State.setIface_colls (s : State) (i : Nat) (x : Iface) : (s.setIface i x).colls = s.colls := rfl
@[simp] theorem State.setIface_claims (s : State) (i : Nat) (x : Iface) : (s.setIface i x).claims = s.claims := rfl
@[simp] theorem State.setIface_sessions (s : State) (i : Nat) (x : Iface) : (s.setIface i x).sessions = s.sessions := rfl
@[simp] theorem State.setIface_serialWait (s : State) (i : Nat) (x : Iface) : (s.setIface i x).serialWait = s.serialWait := rfl
@[simp] theorem State.setIface_tokenHeld (s : State) (i : Nat) (x : Iface) : (s.setIface i x).tokenHeld = s.tokenHeld := rfl
@[simp] theorem State.setIface_draws (s : State) (i : Nat) (x : Iface) : (s.setIface i x).draws = s.draws := rfl
@[simp] theorem State.setIface_tickStart (s : State) (i : Nat) (x : Iface) : (s.setIface i x).tickStart = s.tickStart := rfl
@[simp] theorem State.setIface_corr (s : State) (i : Nat) (x : Iface) : (s.setIface i x).corr = s.corr := rfl
@[simp] theorem State.setIface_windowCharge (s : State) (i : Nat) (x : Iface) : (s.setIface i x).windowCharge = s.windowCharge := rfl
@[simp] theorem State.setIface_rolled (s : State) (i : Nat) (x : Iface) : (s.setIface i x).rolled = s.rolled := rfl
@[simp] theorem State.setIface_unattributed (s : State) (i : Nat) (x : Iface) : (s.setIface i x).unattributed = s.unattributed := rfl
@[simp] theorem State.setIface_pkg (s : State) (i : Nat) (x : Iface) : (s.setIface i x).pkg = s.pkg := rfl
@[simp] theorem State.setIface_nextId (s : State) (i : Nat) (x : Iface) : (s.setIface i x).nextId = s.nextId := rfl
@[simp] theorem State.setIface_inputs (s : State) (i : Nat) (x : Iface) : (s.setIface i x).inputs = s.inputs := rfl
@[simp] theorem State.setIface_pending (s : State) (i : Nat) (x : Iface) : (s.setIface i x).pending = s.pending := rfl
@[simp] theorem State.setIface_out (s : State) (i : Nat) (x : Iface) : (s.setIface i x).out = s.out := rfl
@[simp] theorem State.setIface_stuck (s : State) (i : Nat) (x : Iface) : (s.setIface i x).stuck = s.stuck := rfl
@[simp] theorem State.setIface_held (s : State) (i : Nat) (x : Iface) : (s.setIface i x).held = s.held := rfl
@[simp] theorem State.setIface_stalled (s : State) (i : Nat) (x : Iface) : (s.setIface i x).stalled = s.stalled := rfl
@[simp] theorem State.setIface_iss (s : State) (i : Nat) (x : Iface) : (s.setIface i x).iss = s.iss := rfl

/-! ### due -/

@[simp] theorem State.due_power (s : State) (e : Event) : (s.due e).power = s.power := rfl
@[simp] theorem State.due_clock (s : State) (e : Event) : (s.due e).clock = s.clock := rfl
@[simp] theorem State.due_podTime (s : State) (e : Event) : (s.due e).podTime = s.podTime := rfl
@[simp] theorem State.due_free (s : State) (e : Event) : (s.due e).free = s.free := rfl
@[simp] theorem State.due_hbm (s : State) (e : Event) : (s.due e).hbm = s.hbm := rfl
@[simp] theorem State.due_hostMem (s : State) (e : Event) : (s.due e).hostMem = s.hostMem := rfl
@[simp] theorem State.due_keyed (s : State) (e : Event) : (s.due e).keyed = s.keyed := rfl
@[simp] theorem State.due_strands (s : State) (e : Event) : (s.due e).strands = s.strands := rfl
@[simp] theorem State.due_cores (s : State) (e : Event) : (s.due e).cores = s.cores := rfl
@[simp] theorem State.due_quarters (s : State) (e : Event) : (s.due e).quarters = s.quarters := rfl
@[simp] theorem State.due_dies (s : State) (e : Event) : (s.due e).dies = s.dies := rfl
@[simp] theorem State.due_slices (s : State) (e : Event) : (s.due e).slices = s.slices := rfl
@[simp] theorem State.due_scache (s : State) (e : Event) : (s.due e).scache = s.scache := rfl
@[simp] theorem State.due_ctxs (s : State) (e : Event) : (s.due e).ctxs = s.ctxs := rfl
@[simp] theorem State.due_parts (s : State) (e : Event) : (s.due e).parts = s.parts := rfl
@[simp] theorem State.due_funcs (s : State) (e : Event) : (s.due e).funcs = s.funcs := rfl
@[simp] theorem State.due_ifaces (s : State) (e : Event) : (s.due e).ifaces = s.ifaces := rfl
@[simp] theorem State.due_loads (s : State) (e : Event) : (s.due e).loads = s.loads := rfl
@[simp] theorem State.due_bars (s : State) (e : Event) : (s.due e).bars = s.bars := rfl
@[simp] theorem State.due_launches (s : State) (e : Event) : (s.due e).launches = s.launches := rfl
@[simp] theorem State.due_cpls (s : State) (e : Event) : (s.due e).cpls = s.cpls := rfl
@[simp] theorem State.due_xfers (s : State) (e : Event) : (s.due e).xfers = s.xfers := rfl
@[simp] theorem State.due_qwaiters (s : State) (e : Event) : (s.due e).qwaiters = s.qwaiters := rfl
@[simp] theorem State.due_colls (s : State) (e : Event) : (s.due e).colls = s.colls := rfl
@[simp] theorem State.due_claims (s : State) (e : Event) : (s.due e).claims = s.claims := rfl
@[simp] theorem State.due_sessions (s : State) (e : Event) : (s.due e).sessions = s.sessions := rfl
@[simp] theorem State.due_serialWait (s : State) (e : Event) : (s.due e).serialWait = s.serialWait := rfl
@[simp] theorem State.due_tokenHeld (s : State) (e : Event) : (s.due e).tokenHeld = s.tokenHeld := rfl
@[simp] theorem State.due_draws (s : State) (e : Event) : (s.due e).draws = s.draws := rfl
@[simp] theorem State.due_tickStart (s : State) (e : Event) : (s.due e).tickStart = s.tickStart := rfl
@[simp] theorem State.due_corr (s : State) (e : Event) : (s.due e).corr = s.corr := rfl
@[simp] theorem State.due_windowCharge (s : State) (e : Event) : (s.due e).windowCharge = s.windowCharge := rfl
@[simp] theorem State.due_rolled (s : State) (e : Event) : (s.due e).rolled = s.rolled := rfl
@[simp] theorem State.due_unattributed (s : State) (e : Event) : (s.due e).unattributed = s.unattributed := rfl
@[simp] theorem State.due_pkg (s : State) (e : Event) : (s.due e).pkg = s.pkg := rfl
@[simp] theorem State.due_nextId (s : State) (e : Event) : (s.due e).nextId = s.nextId := rfl
@[simp] theorem State.due_inputs (s : State) (e : Event) : (s.due e).inputs = s.inputs := rfl
@[simp] theorem State.due_out (s : State) (e : Event) : (s.due e).out = s.out := rfl
@[simp] theorem State.due_stuck (s : State) (e : Event) : (s.due e).stuck = s.stuck := rfl
@[simp] theorem State.due_held (s : State) (e : Event) : (s.due e).held = s.held := rfl
@[simp] theorem State.due_stalled (s : State) (e : Event) : (s.due e).stalled = s.stalled := rfl
@[simp] theorem State.due_iss (s : State) (e : Event) : (s.due e).iss = s.iss := rfl

/-! ### send -/

@[simp] theorem State.send_power (s : State) (m : OutMsg) : (s.send m).power = s.power := rfl
@[simp] theorem State.send_clock (s : State) (m : OutMsg) : (s.send m).clock = s.clock := rfl
@[simp] theorem State.send_podTime (s : State) (m : OutMsg) : (s.send m).podTime = s.podTime := rfl
@[simp] theorem State.send_free (s : State) (m : OutMsg) : (s.send m).free = s.free := rfl
@[simp] theorem State.send_hbm (s : State) (m : OutMsg) : (s.send m).hbm = s.hbm := rfl
@[simp] theorem State.send_hostMem (s : State) (m : OutMsg) : (s.send m).hostMem = s.hostMem := rfl
@[simp] theorem State.send_keyed (s : State) (m : OutMsg) : (s.send m).keyed = s.keyed := rfl
@[simp] theorem State.send_strands (s : State) (m : OutMsg) : (s.send m).strands = s.strands := rfl
@[simp] theorem State.send_cores (s : State) (m : OutMsg) : (s.send m).cores = s.cores := rfl
@[simp] theorem State.send_quarters (s : State) (m : OutMsg) : (s.send m).quarters = s.quarters := rfl
@[simp] theorem State.send_dies (s : State) (m : OutMsg) : (s.send m).dies = s.dies := rfl
@[simp] theorem State.send_slices (s : State) (m : OutMsg) : (s.send m).slices = s.slices := rfl
@[simp] theorem State.send_scache (s : State) (m : OutMsg) : (s.send m).scache = s.scache := rfl
@[simp] theorem State.send_ctxs (s : State) (m : OutMsg) : (s.send m).ctxs = s.ctxs := rfl
@[simp] theorem State.send_parts (s : State) (m : OutMsg) : (s.send m).parts = s.parts := rfl
@[simp] theorem State.send_funcs (s : State) (m : OutMsg) : (s.send m).funcs = s.funcs := rfl
@[simp] theorem State.send_ifaces (s : State) (m : OutMsg) : (s.send m).ifaces = s.ifaces := rfl
@[simp] theorem State.send_loads (s : State) (m : OutMsg) : (s.send m).loads = s.loads := rfl
@[simp] theorem State.send_bars (s : State) (m : OutMsg) : (s.send m).bars = s.bars := rfl
@[simp] theorem State.send_launches (s : State) (m : OutMsg) : (s.send m).launches = s.launches := rfl
@[simp] theorem State.send_cpls (s : State) (m : OutMsg) : (s.send m).cpls = s.cpls := rfl
@[simp] theorem State.send_xfers (s : State) (m : OutMsg) : (s.send m).xfers = s.xfers := rfl
@[simp] theorem State.send_qwaiters (s : State) (m : OutMsg) : (s.send m).qwaiters = s.qwaiters := rfl
@[simp] theorem State.send_colls (s : State) (m : OutMsg) : (s.send m).colls = s.colls := rfl
@[simp] theorem State.send_claims (s : State) (m : OutMsg) : (s.send m).claims = s.claims := rfl
@[simp] theorem State.send_sessions (s : State) (m : OutMsg) : (s.send m).sessions = s.sessions := rfl
@[simp] theorem State.send_serialWait (s : State) (m : OutMsg) : (s.send m).serialWait = s.serialWait := rfl
@[simp] theorem State.send_tokenHeld (s : State) (m : OutMsg) : (s.send m).tokenHeld = s.tokenHeld := rfl
@[simp] theorem State.send_draws (s : State) (m : OutMsg) : (s.send m).draws = s.draws := rfl
@[simp] theorem State.send_tickStart (s : State) (m : OutMsg) : (s.send m).tickStart = s.tickStart := rfl
@[simp] theorem State.send_corr (s : State) (m : OutMsg) : (s.send m).corr = s.corr := rfl
@[simp] theorem State.send_windowCharge (s : State) (m : OutMsg) : (s.send m).windowCharge = s.windowCharge := rfl
@[simp] theorem State.send_rolled (s : State) (m : OutMsg) : (s.send m).rolled = s.rolled := rfl
@[simp] theorem State.send_unattributed (s : State) (m : OutMsg) : (s.send m).unattributed = s.unattributed := rfl
@[simp] theorem State.send_pkg (s : State) (m : OutMsg) : (s.send m).pkg = s.pkg := rfl
@[simp] theorem State.send_nextId (s : State) (m : OutMsg) : (s.send m).nextId = s.nextId := rfl
@[simp] theorem State.send_inputs (s : State) (m : OutMsg) : (s.send m).inputs = s.inputs := rfl
@[simp] theorem State.send_pending (s : State) (m : OutMsg) : (s.send m).pending = s.pending := rfl
@[simp] theorem State.send_stuck (s : State) (m : OutMsg) : (s.send m).stuck = s.stuck := rfl
@[simp] theorem State.send_held (s : State) (m : OutMsg) : (s.send m).held = s.held := rfl
@[simp] theorem State.send_stalled (s : State) (m : OutMsg) : (s.send m).stalled = s.stalled := rfl
@[simp] theorem State.send_iss (s : State) (m : OutMsg) : (s.send m).iss = s.iss := rfl

/-! ### takeId -/

@[simp] theorem State.takeId_power (s : State) : (s.takeId).power = s.power := rfl
@[simp] theorem State.takeId_clock (s : State) : (s.takeId).clock = s.clock := rfl
@[simp] theorem State.takeId_podTime (s : State) : (s.takeId).podTime = s.podTime := rfl
@[simp] theorem State.takeId_free (s : State) : (s.takeId).free = s.free := rfl
@[simp] theorem State.takeId_hbm (s : State) : (s.takeId).hbm = s.hbm := rfl
@[simp] theorem State.takeId_hostMem (s : State) : (s.takeId).hostMem = s.hostMem := rfl
@[simp] theorem State.takeId_keyed (s : State) : (s.takeId).keyed = s.keyed := rfl
@[simp] theorem State.takeId_strands (s : State) : (s.takeId).strands = s.strands := rfl
@[simp] theorem State.takeId_cores (s : State) : (s.takeId).cores = s.cores := rfl
@[simp] theorem State.takeId_quarters (s : State) : (s.takeId).quarters = s.quarters := rfl
@[simp] theorem State.takeId_dies (s : State) : (s.takeId).dies = s.dies := rfl
@[simp] theorem State.takeId_slices (s : State) : (s.takeId).slices = s.slices := rfl
@[simp] theorem State.takeId_scache (s : State) : (s.takeId).scache = s.scache := rfl
@[simp] theorem State.takeId_ctxs (s : State) : (s.takeId).ctxs = s.ctxs := rfl
@[simp] theorem State.takeId_parts (s : State) : (s.takeId).parts = s.parts := rfl
@[simp] theorem State.takeId_funcs (s : State) : (s.takeId).funcs = s.funcs := rfl
@[simp] theorem State.takeId_ifaces (s : State) : (s.takeId).ifaces = s.ifaces := rfl
@[simp] theorem State.takeId_loads (s : State) : (s.takeId).loads = s.loads := rfl
@[simp] theorem State.takeId_bars (s : State) : (s.takeId).bars = s.bars := rfl
@[simp] theorem State.takeId_launches (s : State) : (s.takeId).launches = s.launches := rfl
@[simp] theorem State.takeId_cpls (s : State) : (s.takeId).cpls = s.cpls := rfl
@[simp] theorem State.takeId_xfers (s : State) : (s.takeId).xfers = s.xfers := rfl
@[simp] theorem State.takeId_qwaiters (s : State) : (s.takeId).qwaiters = s.qwaiters := rfl
@[simp] theorem State.takeId_colls (s : State) : (s.takeId).colls = s.colls := rfl
@[simp] theorem State.takeId_claims (s : State) : (s.takeId).claims = s.claims := rfl
@[simp] theorem State.takeId_sessions (s : State) : (s.takeId).sessions = s.sessions := rfl
@[simp] theorem State.takeId_serialWait (s : State) : (s.takeId).serialWait = s.serialWait := rfl
@[simp] theorem State.takeId_tokenHeld (s : State) : (s.takeId).tokenHeld = s.tokenHeld := rfl
@[simp] theorem State.takeId_draws (s : State) : (s.takeId).draws = s.draws := rfl
@[simp] theorem State.takeId_tickStart (s : State) : (s.takeId).tickStart = s.tickStart := rfl
@[simp] theorem State.takeId_corr (s : State) : (s.takeId).corr = s.corr := rfl
@[simp] theorem State.takeId_windowCharge (s : State) : (s.takeId).windowCharge = s.windowCharge := rfl
@[simp] theorem State.takeId_rolled (s : State) : (s.takeId).rolled = s.rolled := rfl
@[simp] theorem State.takeId_unattributed (s : State) : (s.takeId).unattributed = s.unattributed := rfl
@[simp] theorem State.takeId_pkg (s : State) : (s.takeId).pkg = s.pkg := rfl
@[simp] theorem State.takeId_inputs (s : State) : (s.takeId).inputs = s.inputs := rfl
@[simp] theorem State.takeId_pending (s : State) : (s.takeId).pending = s.pending := rfl
@[simp] theorem State.takeId_out (s : State) : (s.takeId).out = s.out := rfl
@[simp] theorem State.takeId_stuck (s : State) : (s.takeId).stuck = s.stuck := rfl
@[simp] theorem State.takeId_held (s : State) : (s.takeId).held = s.held := rfl
@[simp] theorem State.takeId_stalled (s : State) : (s.takeId).stalled = s.stalled := rfl
@[simp] theorem State.takeId_iss (s : State) : (s.takeId).iss = s.iss := rfl

/-! ### stepFree -/

@[simp] theorem State.stepFree_power (s : State) : (s.stepFree).power = s.power := rfl
@[simp] theorem State.stepFree_clock (s : State) : (s.stepFree).clock = s.clock := rfl
@[simp] theorem State.stepFree_podTime (s : State) : (s.stepFree).podTime = s.podTime := rfl
@[simp] theorem State.stepFree_hbm (s : State) : (s.stepFree).hbm = s.hbm := rfl
@[simp] theorem State.stepFree_hostMem (s : State) : (s.stepFree).hostMem = s.hostMem := rfl
@[simp] theorem State.stepFree_keyed (s : State) : (s.stepFree).keyed = s.keyed := rfl
@[simp] theorem State.stepFree_strands (s : State) : (s.stepFree).strands = s.strands := rfl
@[simp] theorem State.stepFree_cores (s : State) : (s.stepFree).cores = s.cores := rfl
@[simp] theorem State.stepFree_quarters (s : State) : (s.stepFree).quarters = s.quarters := rfl
@[simp] theorem State.stepFree_dies (s : State) : (s.stepFree).dies = s.dies := rfl
@[simp] theorem State.stepFree_slices (s : State) : (s.stepFree).slices = s.slices := rfl
@[simp] theorem State.stepFree_scache (s : State) : (s.stepFree).scache = s.scache := rfl
@[simp] theorem State.stepFree_ctxs (s : State) : (s.stepFree).ctxs = s.ctxs := rfl
@[simp] theorem State.stepFree_parts (s : State) : (s.stepFree).parts = s.parts := rfl
@[simp] theorem State.stepFree_funcs (s : State) : (s.stepFree).funcs = s.funcs := rfl
@[simp] theorem State.stepFree_ifaces (s : State) : (s.stepFree).ifaces = s.ifaces := rfl
@[simp] theorem State.stepFree_loads (s : State) : (s.stepFree).loads = s.loads := rfl
@[simp] theorem State.stepFree_bars (s : State) : (s.stepFree).bars = s.bars := rfl
@[simp] theorem State.stepFree_launches (s : State) : (s.stepFree).launches = s.launches := rfl
@[simp] theorem State.stepFree_cpls (s : State) : (s.stepFree).cpls = s.cpls := rfl
@[simp] theorem State.stepFree_xfers (s : State) : (s.stepFree).xfers = s.xfers := rfl
@[simp] theorem State.stepFree_qwaiters (s : State) : (s.stepFree).qwaiters = s.qwaiters := rfl
@[simp] theorem State.stepFree_colls (s : State) : (s.stepFree).colls = s.colls := rfl
@[simp] theorem State.stepFree_claims (s : State) : (s.stepFree).claims = s.claims := rfl
@[simp] theorem State.stepFree_sessions (s : State) : (s.stepFree).sessions = s.sessions := rfl
@[simp] theorem State.stepFree_serialWait (s : State) : (s.stepFree).serialWait = s.serialWait := rfl
@[simp] theorem State.stepFree_tokenHeld (s : State) : (s.stepFree).tokenHeld = s.tokenHeld := rfl
@[simp] theorem State.stepFree_draws (s : State) : (s.stepFree).draws = s.draws := rfl
@[simp] theorem State.stepFree_tickStart (s : State) : (s.stepFree).tickStart = s.tickStart := rfl
@[simp] theorem State.stepFree_corr (s : State) : (s.stepFree).corr = s.corr := rfl
@[simp] theorem State.stepFree_windowCharge (s : State) : (s.stepFree).windowCharge = s.windowCharge := rfl
@[simp] theorem State.stepFree_rolled (s : State) : (s.stepFree).rolled = s.rolled := rfl
@[simp] theorem State.stepFree_unattributed (s : State) : (s.stepFree).unattributed = s.unattributed := rfl
@[simp] theorem State.stepFree_pkg (s : State) : (s.stepFree).pkg = s.pkg := rfl
@[simp] theorem State.stepFree_nextId (s : State) : (s.stepFree).nextId = s.nextId := rfl
@[simp] theorem State.stepFree_inputs (s : State) : (s.stepFree).inputs = s.inputs := rfl
@[simp] theorem State.stepFree_pending (s : State) : (s.stepFree).pending = s.pending := rfl
@[simp] theorem State.stepFree_out (s : State) : (s.stepFree).out = s.out := rfl
@[simp] theorem State.stepFree_stuck (s : State) : (s.stepFree).stuck = s.stuck := rfl
@[simp] theorem State.stepFree_held (s : State) : (s.stepFree).held = s.held := rfl
@[simp] theorem State.stepFree_stalled (s : State) : (s.stepFree).stalled = s.stalled := rfl
@[simp] theorem State.stepFree_iss (s : State) : (s.stepFree).iss = s.iss := rfl

/-! ### setRes -/

@[simp] theorem State.setRes_power (s : State) (r : IssueRes) : (s.setRes r).power = s.power := rfl
@[simp] theorem State.setRes_clock (s : State) (r : IssueRes) : (s.setRes r).clock = s.clock := rfl
@[simp] theorem State.setRes_podTime (s : State) (r : IssueRes) : (s.setRes r).podTime = s.podTime := rfl
@[simp] theorem State.setRes_free (s : State) (r : IssueRes) : (s.setRes r).free = s.free := rfl
@[simp] theorem State.setRes_hbm (s : State) (r : IssueRes) : (s.setRes r).hbm = s.hbm := rfl
@[simp] theorem State.setRes_hostMem (s : State) (r : IssueRes) : (s.setRes r).hostMem = s.hostMem := rfl
@[simp] theorem State.setRes_keyed (s : State) (r : IssueRes) : (s.setRes r).keyed = s.keyed := rfl
@[simp] theorem State.setRes_strands (s : State) (r : IssueRes) : (s.setRes r).strands = s.strands := rfl
@[simp] theorem State.setRes_cores (s : State) (r : IssueRes) : (s.setRes r).cores = s.cores := rfl
@[simp] theorem State.setRes_quarters (s : State) (r : IssueRes) : (s.setRes r).quarters = s.quarters := rfl
@[simp] theorem State.setRes_dies (s : State) (r : IssueRes) : (s.setRes r).dies = s.dies := rfl
@[simp] theorem State.setRes_slices (s : State) (r : IssueRes) : (s.setRes r).slices = s.slices := rfl
@[simp] theorem State.setRes_scache (s : State) (r : IssueRes) : (s.setRes r).scache = s.scache := rfl
@[simp] theorem State.setRes_ctxs (s : State) (r : IssueRes) : (s.setRes r).ctxs = s.ctxs := rfl
@[simp] theorem State.setRes_parts (s : State) (r : IssueRes) : (s.setRes r).parts = s.parts := rfl
@[simp] theorem State.setRes_funcs (s : State) (r : IssueRes) : (s.setRes r).funcs = s.funcs := rfl
@[simp] theorem State.setRes_ifaces (s : State) (r : IssueRes) : (s.setRes r).ifaces = s.ifaces := rfl
@[simp] theorem State.setRes_loads (s : State) (r : IssueRes) : (s.setRes r).loads = s.loads := rfl
@[simp] theorem State.setRes_bars (s : State) (r : IssueRes) : (s.setRes r).bars = s.bars := rfl
@[simp] theorem State.setRes_launches (s : State) (r : IssueRes) : (s.setRes r).launches = s.launches := rfl
@[simp] theorem State.setRes_cpls (s : State) (r : IssueRes) : (s.setRes r).cpls = s.cpls := rfl
@[simp] theorem State.setRes_xfers (s : State) (r : IssueRes) : (s.setRes r).xfers = s.xfers := rfl
@[simp] theorem State.setRes_qwaiters (s : State) (r : IssueRes) : (s.setRes r).qwaiters = s.qwaiters := rfl
@[simp] theorem State.setRes_colls (s : State) (r : IssueRes) : (s.setRes r).colls = s.colls := rfl
@[simp] theorem State.setRes_claims (s : State) (r : IssueRes) : (s.setRes r).claims = s.claims := rfl
@[simp] theorem State.setRes_sessions (s : State) (r : IssueRes) : (s.setRes r).sessions = s.sessions := rfl
@[simp] theorem State.setRes_serialWait (s : State) (r : IssueRes) : (s.setRes r).serialWait = s.serialWait := rfl
@[simp] theorem State.setRes_tokenHeld (s : State) (r : IssueRes) : (s.setRes r).tokenHeld = s.tokenHeld := rfl
@[simp] theorem State.setRes_draws (s : State) (r : IssueRes) : (s.setRes r).draws = s.draws := rfl
@[simp] theorem State.setRes_tickStart (s : State) (r : IssueRes) : (s.setRes r).tickStart = s.tickStart := rfl
@[simp] theorem State.setRes_corr (s : State) (r : IssueRes) : (s.setRes r).corr = s.corr := rfl
@[simp] theorem State.setRes_windowCharge (s : State) (r : IssueRes) : (s.setRes r).windowCharge = s.windowCharge := rfl
@[simp] theorem State.setRes_rolled (s : State) (r : IssueRes) : (s.setRes r).rolled = s.rolled := rfl
@[simp] theorem State.setRes_unattributed (s : State) (r : IssueRes) : (s.setRes r).unattributed = s.unattributed := rfl
@[simp] theorem State.setRes_pkg (s : State) (r : IssueRes) : (s.setRes r).pkg = s.pkg := rfl
@[simp] theorem State.setRes_nextId (s : State) (r : IssueRes) : (s.setRes r).nextId = s.nextId := rfl
@[simp] theorem State.setRes_inputs (s : State) (r : IssueRes) : (s.setRes r).inputs = s.inputs := rfl
@[simp] theorem State.setRes_pending (s : State) (r : IssueRes) : (s.setRes r).pending = s.pending := rfl
@[simp] theorem State.setRes_out (s : State) (r : IssueRes) : (s.setRes r).out = s.out := rfl
@[simp] theorem State.setRes_stuck (s : State) (r : IssueRes) : (s.setRes r).stuck = s.stuck := rfl
@[simp] theorem State.setRes_held (s : State) (r : IssueRes) : (s.setRes r).held = s.held := rfl
@[simp] theorem State.setRes_stalled (s : State) (r : IssueRes) : (s.setRes r).stalled = s.stalled := rfl

/-! ### raw -/

@[simp] theorem State.raw_power (s : State) (c n : Nat) : (s.raw c n).power = s.power := rfl
@[simp] theorem State.raw_clock (s : State) (c n : Nat) : (s.raw c n).clock = s.clock := rfl
@[simp] theorem State.raw_podTime (s : State) (c n : Nat) : (s.raw c n).podTime = s.podTime := rfl
@[simp] theorem State.raw_free (s : State) (c n : Nat) : (s.raw c n).free = s.free := rfl
@[simp] theorem State.raw_hbm (s : State) (c n : Nat) : (s.raw c n).hbm = s.hbm := rfl
@[simp] theorem State.raw_hostMem (s : State) (c n : Nat) : (s.raw c n).hostMem = s.hostMem := rfl
@[simp] theorem State.raw_keyed (s : State) (c n : Nat) : (s.raw c n).keyed = s.keyed := rfl
@[simp] theorem State.raw_strands (s : State) (c n : Nat) : (s.raw c n).strands = s.strands := rfl
@[simp] theorem State.raw_cores (s : State) (c n : Nat) : (s.raw c n).cores = s.cores := rfl
@[simp] theorem State.raw_quarters (s : State) (c n : Nat) : (s.raw c n).quarters = s.quarters := rfl
@[simp] theorem State.raw_dies (s : State) (c n : Nat) : (s.raw c n).dies = s.dies := rfl
@[simp] theorem State.raw_slices (s : State) (c n : Nat) : (s.raw c n).slices = s.slices := rfl
@[simp] theorem State.raw_scache (s : State) (c n : Nat) : (s.raw c n).scache = s.scache := rfl
@[simp] theorem State.raw_ctxs (s : State) (c n : Nat) : (s.raw c n).ctxs = s.ctxs := rfl
@[simp] theorem State.raw_parts (s : State) (c n : Nat) : (s.raw c n).parts = s.parts := rfl
@[simp] theorem State.raw_funcs (s : State) (c n : Nat) : (s.raw c n).funcs = s.funcs := rfl
@[simp] theorem State.raw_ifaces (s : State) (c n : Nat) : (s.raw c n).ifaces = s.ifaces := rfl
@[simp] theorem State.raw_loads (s : State) (c n : Nat) : (s.raw c n).loads = s.loads := rfl
@[simp] theorem State.raw_bars (s : State) (c n : Nat) : (s.raw c n).bars = s.bars := rfl
@[simp] theorem State.raw_launches (s : State) (c n : Nat) : (s.raw c n).launches = s.launches := rfl
@[simp] theorem State.raw_cpls (s : State) (c n : Nat) : (s.raw c n).cpls = s.cpls := rfl
@[simp] theorem State.raw_xfers (s : State) (c n : Nat) : (s.raw c n).xfers = s.xfers := rfl
@[simp] theorem State.raw_qwaiters (s : State) (c n : Nat) : (s.raw c n).qwaiters = s.qwaiters := rfl
@[simp] theorem State.raw_colls (s : State) (c n : Nat) : (s.raw c n).colls = s.colls := rfl
@[simp] theorem State.raw_claims (s : State) (c n : Nat) : (s.raw c n).claims = s.claims := rfl
@[simp] theorem State.raw_sessions (s : State) (c n : Nat) : (s.raw c n).sessions = s.sessions := rfl
@[simp] theorem State.raw_serialWait (s : State) (c n : Nat) : (s.raw c n).serialWait = s.serialWait := rfl
@[simp] theorem State.raw_tokenHeld (s : State) (c n : Nat) : (s.raw c n).tokenHeld = s.tokenHeld := rfl
@[simp] theorem State.raw_draws (s : State) (c n : Nat) : (s.raw c n).draws = s.draws := rfl
@[simp] theorem State.raw_tickStart (s : State) (c n : Nat) : (s.raw c n).tickStart = s.tickStart := rfl
@[simp] theorem State.raw_corr (s : State) (c n : Nat) : (s.raw c n).corr = s.corr := rfl
@[simp] theorem State.raw_windowCharge (s : State) (c n : Nat) : (s.raw c n).windowCharge = s.windowCharge := rfl
@[simp] theorem State.raw_rolled (s : State) (c n : Nat) : (s.raw c n).rolled = s.rolled := rfl
@[simp] theorem State.raw_unattributed (s : State) (c n : Nat) : (s.raw c n).unattributed = s.unattributed := rfl
@[simp] theorem State.raw_pkg (s : State) (c n : Nat) : (s.raw c n).pkg = s.pkg := rfl
@[simp] theorem State.raw_nextId (s : State) (c n : Nat) : (s.raw c n).nextId = s.nextId := rfl
@[simp] theorem State.raw_inputs (s : State) (c n : Nat) : (s.raw c n).inputs = s.inputs := rfl
@[simp] theorem State.raw_pending (s : State) (c n : Nat) : (s.raw c n).pending = s.pending := rfl
@[simp] theorem State.raw_out (s : State) (c n : Nat) : (s.raw c n).out = s.out := rfl
@[simp] theorem State.raw_stuck (s : State) (c n : Nat) : (s.raw c n).stuck = s.stuck := rfl
@[simp] theorem State.raw_held (s : State) (c n : Nat) : (s.raw c n).held = s.held := rfl
@[simp] theorem State.raw_stalled (s : State) (c n : Nat) : (s.raw c n).stalled = s.stalled := rfl

/-! ### Reading a part after writing one -/

@[simp] theorem State.strand_setStrand_self (s : State) (i : Nat) (x : Strand) : (s.setStrand i x).strand i = x := by
  simp [State.strand, State.setStrand]
theorem State.strand_setStrand_ne (s : State) {i j : Nat} (x : Strand) (h : j ≠ i) : (s.setStrand i x).strand j = s.strand j := by
  simp [State.strand, State.setStrand, Assoc.find?_insert_ne _ _ h]
@[simp] theorem State.strand_modStrand_self (s : State) (i : Nat) (f : Strand → Strand) : (s.modStrand i f).strand i = f (s.strand i) := by
  simp [State.modStrand]
theorem State.strand_modStrand_ne (s : State) {i j : Nat} (f : Strand → Strand) (h : j ≠ i) : (s.modStrand i f).strand j = s.strand j :=
  State.strand_setStrand_ne s _ h

@[simp] theorem State.core_setCore_self (s : State) (i : Nat) (x : CoreSt) : (s.setCore i x).core i = x := by
  simp [State.core, State.setCore]
theorem State.core_setCore_ne (s : State) {i j : Nat} (x : CoreSt) (h : j ≠ i) : (s.setCore i x).core j = s.core j := by
  simp [State.core, State.setCore, Assoc.find?_insert_ne _ _ h]
@[simp] theorem State.core_modCore_self (s : State) (i : Nat) (f : CoreSt → CoreSt) : (s.modCore i f).core i = f (s.core i) := by
  simp [State.modCore]
theorem State.core_modCore_ne (s : State) {i j : Nat} (f : CoreSt → CoreSt) (h : j ≠ i) : (s.modCore i f).core j = s.core j :=
  State.core_setCore_ne s _ h

@[simp] theorem State.quarter_setQuarter_self (s : State) (i : Nat) (x : QuarterSt) : (s.setQuarter i x).quarter i = x := by
  simp [State.quarter, State.setQuarter]
theorem State.quarter_setQuarter_ne (s : State) {i j : Nat} (x : QuarterSt) (h : j ≠ i) : (s.setQuarter i x).quarter j = s.quarter j := by
  simp [State.quarter, State.setQuarter, Assoc.find?_insert_ne _ _ h]
@[simp] theorem State.quarter_modQuarter_self (s : State) (i : Nat) (f : QuarterSt → QuarterSt) : (s.modQuarter i f).quarter i = f (s.quarter i) := by
  simp [State.modQuarter]
theorem State.quarter_modQuarter_ne (s : State) {i j : Nat} (f : QuarterSt → QuarterSt) (h : j ≠ i) : (s.modQuarter i f).quarter j = s.quarter j :=
  State.quarter_setQuarter_ne s _ h

@[simp] theorem State.die_setDie_self (s : State) (i : Nat) (x : DieSt) : (s.setDie i x).die i = x := by
  simp [State.die, State.setDie]
theorem State.die_setDie_ne (s : State) {i j : Nat} (x : DieSt) (h : j ≠ i) : (s.setDie i x).die j = s.die j := by
  simp [State.die, State.setDie, Assoc.find?_insert_ne _ _ h]
@[simp] theorem State.die_modDie_self (s : State) (i : Nat) (f : DieSt → DieSt) : (s.modDie i f).die i = f (s.die i) := by
  simp [State.modDie]
theorem State.die_modDie_ne (s : State) {i j : Nat} (f : DieSt → DieSt) (h : j ≠ i) : (s.modDie i f).die j = s.die j :=
  State.die_setDie_ne s _ h

@[simp] theorem State.slice_setSlice_self (s : State) (i : Nat) (x : SliceSt) : (s.setSlice i x).slice i = x := by
  simp [State.slice, State.setSlice]
theorem State.slice_setSlice_ne (s : State) {i j : Nat} (x : SliceSt) (h : j ≠ i) : (s.setSlice i x).slice j = s.slice j := by
  simp [State.slice, State.setSlice, Assoc.find?_insert_ne _ _ h]
@[simp] theorem State.slice_modSlice_self (s : State) (i : Nat) (f : SliceSt → SliceSt) : (s.modSlice i f).slice i = f (s.slice i) := by
  simp [State.modSlice]
theorem State.slice_modSlice_ne (s : State) {i j : Nat} (f : SliceSt → SliceSt) (h : j ≠ i) : (s.modSlice i f).slice j = s.slice j :=
  State.slice_setSlice_ne s _ h

@[simp] theorem State.ctx_setCtx_self (s : State) (i : Nat) (x : Ctx) : (s.setCtx i x).ctx i = x := by
  simp [State.ctx, State.setCtx]
theorem State.ctx_setCtx_ne (s : State) {i j : Nat} (x : Ctx) (h : j ≠ i) : (s.setCtx i x).ctx j = s.ctx j := by
  simp [State.ctx, State.setCtx, Assoc.find?_insert_ne _ _ h]
@[simp] theorem State.ctx_modCtx_self (s : State) (i : Nat) (f : Ctx → Ctx) : (s.modCtx i f).ctx i = f (s.ctx i) := by
  simp [State.modCtx]
theorem State.ctx_modCtx_ne (s : State) {i j : Nat} (f : Ctx → Ctx) (h : j ≠ i) : (s.modCtx i f).ctx j = s.ctx j :=
  State.ctx_setCtx_ne s _ h

@[simp] theorem State.part_setPart_self (s : State) (i : Nat) (x : Partition) : (s.setPart i x).part i = x := by
  simp [State.part, State.setPart]
theorem State.part_setPart_ne (s : State) {i j : Nat} (x : Partition) (h : j ≠ i) : (s.setPart i x).part j = s.part j := by
  simp [State.part, State.setPart, Assoc.find?_insert_ne _ _ h]
@[simp] theorem State.part_modPart_self (s : State) (i : Nat) (f : Partition → Partition) : (s.modPart i f).part i = f (s.part i) := by
  simp [State.modPart]
theorem State.part_modPart_ne (s : State) {i j : Nat} (f : Partition → Partition) (h : j ≠ i) : (s.modPart i f).part j = s.part j :=
  State.part_setPart_ne s _ h

@[simp] theorem State.func_setFunc_self (s : State) (i : Nat) (x : Func) : (s.setFunc i x).func i = x := by
  simp [State.func, State.setFunc]
theorem State.func_setFunc_ne (s : State) {i j : Nat} (x : Func) (h : j ≠ i) : (s.setFunc i x).func j = s.func j := by
  simp [State.func, State.setFunc, Assoc.find?_insert_ne _ _ h]
@[simp] theorem State.func_modFunc_self (s : State) (i : Nat) (f : Func → Func) : (s.modFunc i f).func i = f (s.func i) := by
  simp [State.modFunc]
theorem State.func_modFunc_ne (s : State) {i j : Nat} (f : Func → Func) (h : j ≠ i) : (s.modFunc i f).func j = s.func j :=
  State.func_setFunc_ne s _ h

@[simp] theorem State.iface_setIface_self (s : State) (i : Nat) (x : Iface) : (s.setIface i x).iface i = x := by
  simp [State.iface, State.setIface]
theorem State.iface_setIface_ne (s : State) {i j : Nat} (x : Iface) (h : j ≠ i) : (s.setIface i x).iface j = s.iface j := by
  simp [State.iface, State.setIface, Assoc.find?_insert_ne _ _ h]
@[simp] theorem State.iface_modIface_self (s : State) (i : Nat) (f : Iface → Iface) : (s.modIface i f).iface i = f (s.iface i) := by
  simp [State.modIface]
theorem State.iface_modIface_ne (s : State) {i j : Nat} (f : Iface → Iface) (h : j ≠ i) : (s.modIface i f).iface j = s.iface j :=
  State.iface_setIface_ne s _ h

/-! ### The issue context -/

@[simp] theorem State.setRes_res (s : State) (r : IssueRes) : (s.setRes r).iss.res = r := rfl
@[simp] theorem State.setRes_g (s : State) (r : IssueRes) : (s.setRes r).iss.g = s.iss.g := rfl
@[simp] theorem State.raw_raw (s : State) (c n : Nat) : (s.raw c n).iss.raw = s.iss.raw ++ [(c, n)] := rfl
@[simp] theorem State.raw_res (s : State) (c n : Nat) : (s.raw c n).iss.res = s.iss.res := rfl
@[simp] theorem State.raw_g (s : State) (c n : Nat) : (s.raw c n).iss.g = s.iss.g := rfl
@[simp] theorem State.raw_snap (s : State) (c n : Nat) : (s.raw c n).iss.snap = s.iss.snap := rfl
@[simp] theorem State.raw_me (s : State) (c n : Nat) : (s.raw c n).me = s.me := rfl
@[simp] theorem State.raw_old (s : State) (c n : Nat) : (s.raw c n).old = s.old := rfl
@[simp] theorem State.raw_u (s : State) (c n r : Nat) : (s.raw c n).u r = s.u r := rfl
@[simp] theorem State.raw_u2 (s : State) (c n r : Nat) : (s.raw c n).u2 r = s.u2 r := rfl
@[simp] theorem State.raw_mask (s : State) (c n r : Nat) : (s.raw c n).mask r = s.mask r := rfl
@[simp] theorem State.setRes_me (s : State) (r : IssueRes) : (s.setRes r).me = s.me := rfl

/-! ### A uniform register -/

@[simp] theorem State.me_setU (s : State) (n : Nat) (v : Word) : (s.setU n v).me = { s.me with uregs := s.me.uregs.set n v } := by
  simp [State.setU, State.modMe, State.me, State.modStrand]
@[simp] theorem State.setU_iss (s : State) (n : Nat) (v : Word) : (s.setU n v).iss = s.iss := rfl
theorem State.strand_setU_ne (s : State) (n : Nat) (v : Word) {g : Nat} (h : g ≠ s.iss.g) : (s.setU n v).strand g = s.strand g :=
  State.strand_modStrand_ne s _ h
@[simp] theorem State.setU_outside (s : State) (n : Nat) (v : Word) : { s.setU n v with strands := s.strands } = s := rfl
@[simp] theorem State.setU_memByte (s : State) (n : Nat) (v : Word) (p : PAddr) : (s.setU n v).memByte p = s.memByte p := rfl

/-! ### Memory -/

theorem storeBytes_wf (m : Bytes) (a : Nat) (l : List Byte) (h : Memory.wf m = true) : Memory.wf (storeBytes m a l) = true := by
  induction l generalizing m a with
  | nil => exact h
  | cons b l ih => exact ih _ _ (Sp.wf_set 0 m a b h)

/-- A byte after a store: the stored byte within the range, the old one outside it. -/
theorem storeBytes_get (m : Bytes) (a : Nat) (l : List Byte) (j : Nat) :
    Sp.get 0 (storeBytes m a l) j = if a ≤ j ∧ j < a + l.length then l.getD (j - a) 0 else Sp.get 0 m j := by
  induction l generalizing m a with
  | nil =>
    have h : ¬ (a ≤ j ∧ j < a + ([] : List Byte).length) := by simp only [List.length_nil]; omega
    rw [if_neg h]; rfl
  | cons b l ih =>
    simp only [storeBytes, ih, Sp.get_set, List.length_cons]
    by_cases h1 : j = a
    · subst h1
      have h2 : ¬ (j + 1 ≤ j ∧ j < j + 1 + l.length) := by omega
      have h3 : j ≤ j ∧ j < j + (l.length + 1) := by omega
      simp [h2, h3]
    · by_cases h2 : a + 1 ≤ j ∧ j < a + 1 + l.length
      · have h3 : a ≤ j ∧ j < a + (l.length + 1) := by omega
        have h4 : j - a = (j - (a + 1)) + 1 := by omega
        rw [if_pos h2, if_pos h3, h4]; simp
      · have h3 : ¬ (a ≤ j ∧ j < a + (l.length + 1)) := by omega
        rw [if_neg h2, if_neg h3, if_neg h1]

/-- What a write of memory does: both memories keep their canonical form. -/
theorem State.memWrite_wf (s : State) (p : PAddr) (l : List Byte) (h : Memory.wf s.hbm = true) (h' : Memory.wf s.hostMem = true) :
    Memory.wf (s.memWrite p l).hbm = true ∧ Memory.wf (s.memWrite p l).hostMem = true := by
  unfold State.memWrite
  split
  · exact ⟨h, storeBytes_wf _ _ _ h'⟩
  · exact ⟨storeBytes_wf _ _ _ h, h'⟩

end Sys2Proof.Machine
end

