-- ==== Sys2Proof/Laws/Memory.lean ====
section
/-!
SUPPORT. The invariant of the memories: every operation that writes them keeps their canonical form, and an operation that
leaves them alone keeps it too.
-/

namespace Sys2Proof.Machine

set_option Elab.async false

/-- What leaves both memories alone keeps their form. -/
theorem State.memWf_of_same {s t : State} (h1 : t.hbm = s.hbm) (h2 : t.hostMem = s.hostMem) : t.memWf = s.memWf := by
  unfold State.memWf; rw [h1, h2]

/-- A fold of steps that keep a property keeps it. -/
theorem foldl_keeps {α β : Type} {P : α → Prop} {f : α → β → α} (h : ∀ a b, P a → P (f a b)) (l : List β) {a : α} (ha : P a) :
    P (l.foldl f a) := by
  induction l generalizing a with
  | nil => exact ha
  | cons b l ih => exact ih (h a b ha)

theorem State.memWrite_memWf (s : State) (p : PAddr) (l : List Byte) (h : s.memWf = true) : (s.memWrite p l).memWf = true := by
  simp only [State.memWf, Bool.and_eq_true] at h ⊢
  exact s.memWrite_wf p l h.1 h.2

theorem State.zeroRange_memWf (s : State) (lo len : Nat) (h : s.memWf = true) : (s.zeroRange lo len).memWf = true := by
  simp only [State.memWf, Bool.and_eq_true] at h ⊢
  exact ⟨Sp.wf_filter 0 s.hbm _ h.1, h.2⟩

/-- What a cold reset makes of a memory is in canonical form, whatever the memory held. -/
theorem scrambled_wf (free : Nat) (m : Bytes) : Memory.wf (scrambled free m) = true := by
  unfold scrambled
  refine foldl_keeps (P := fun n : Bytes => Memory.wf n = true) ?_ m rfl
  intro n c h
  exact Sp.wf_set (0 : Byte) n c.1 _ h

theorem State.poweredOff_memWf (s : State) (b : Bytes) (th : Bool) (hb : Memory.wf b = true) (h : s.memWf = true) :
    (s.poweredOff b th).memWf = true := by
  simp only [State.memWf, Bool.and_eq_true] at h ⊢
  exact ⟨hb, h.2⟩

theorem State.reset_memWf : State.reset.memWf = true := rfl

@[simp] theorem State.memWf_setStrand (s : State) (g : Nat) (x : Strand) : (s.setStrand g x).memWf = s.memWf := rfl
@[simp] theorem State.memWf_setCore (s : State) (c : Nat) (x : CoreSt) : (s.setCore c x).memWf = s.memWf := rfl
@[simp] theorem State.memWf_modStrand (s : State) (g : Nat) (f : Strand → Strand) : (s.modStrand g f).memWf = s.memWf := rfl
@[simp] theorem State.memWf_modCore (s : State) (c : Nat) (f : CoreSt → CoreSt) : (s.modCore c f).memWf = s.memWf := rfl
@[simp] theorem State.memWf_modQuarter (s : State) (q : Nat) (f : QuarterSt → QuarterSt) : (s.modQuarter q f).memWf = s.memWf := rfl
@[simp] theorem State.memWf_modCtx (s : State) (c : Nat) (f : Ctx → Ctx) : (s.modCtx c f).memWf = s.memWf := rfl
@[simp] theorem State.memWf_modDie (s : State) (d : Nat) (f : DieSt → DieSt) : (s.modDie d f).memWf = s.memWf := rfl
@[simp] theorem State.memWf_setRes (s : State) (r : IssueRes) : (s.setRes r).memWf = s.memWf := rfl
@[simp] theorem State.memWf_raw (s : State) (c n : Nat) : (s.raw c n).memWf = s.memWf := rfl
@[simp] theorem State.memWf_setU (s : State) (n : Nat) (v : Word) : (s.setU n v).memWf = s.memWf := rfl
@[simp] theorem State.memWf_setU2 (s : State) (n : Nat) (v : DWord) : (s.setU2 n v).memWf = s.memWf := rfl
@[simp] theorem State.memWf_done (s : State) : s.done.memWf = s.memWf := rfl
@[simp] theorem State.memWf_hold (s : State) (h : Hold) : (s.hold h).memWf = s.memWf := rfl
@[simp] theorem State.memWf_trap (s : State) (i : TrapInfo) : (s.trap i).memWf = s.memWf := rfl
@[simp] theorem State.memWf_enc (s : State) (c : Cause) : (s.enc c).memWf = s.memWf := rfl
@[simp] theorem State.memWf_countEv (s : State) (u e c n : Nat) : (s.countEv u e c n).memWf = s.memWf := by
  unfold State.countEv
  split <;> rfl

@[simp] theorem State.memWf_countClocks (s : State) (n : Nat) : (s.countClocks n).memWf = s.memWf := by
  unfold State.countClocks
  split
  · rfl
  · exact foldl_keeps (P := fun t : State => t.memWf = s.memWf) (fun t x h => by simpa using h) _ rfl

/-- A wait for a release leaves both memories as they are. -/
theorem State.releaseStep_keeps (s : State) (g scope : Nat) :
    (s.releaseStep g scope).1.hbm = s.hbm ∧ (s.releaseStep g scope).1.hostMem = s.hostMem := by
  have hf : ∀ t : State, (t.flushCtx g).hbm = t.hbm ∧ (t.flushCtx g).hostMem = t.hostMem := by
    intro t
    unfold State.flushCtx State.flushCb
    dsimp only
    exact foldl_keeps (P := fun u : State => u.hbm = t.hbm ∧ u.hostMem = t.hostMem)
      (f := fun s i => s.due (.combiningFlushApplied (coreOf g) i)) (fun _ _ h => h) _ ⟨rfl, rfl⟩
  unfold State.releaseStep
  dsimp only
  split
  · exact ⟨rfl, rfl⟩
  · split <;> split <;> first | exact ⟨rfl, rfl⟩ | exact hf s

@[simp] theorem State.memWf_releaseStep (s : State) (g scope : Nat) : (s.releaseStep g scope).1.memWf = s.memWf :=
  State.memWf_of_same (s.releaseStep_keeps g scope).1 (s.releaseStep_keeps g scope).2

@[simp] theorem State.memWf_fenceStep (s : State) (g scope kind : Nat) : (s.fenceStep g scope kind).1.memWf = s.memWf := by
  unfold State.fenceStep
  dsimp only
  split
  · exact s.memWf_releaseStep g scope
  · rfl

@[simp] theorem State.memWf_energyHold (s : State) (g : Nat) : (s.energyHold g).memWf = s.memWf := by
  unfold State.energyHold
  dsimp only
  split <;> simp <;> rfl

/-- A look at a Parked strand leaves both memories as they are. -/
@[simp] theorem State.memWf_lookParked (s : State) (g : Nat) : (s.lookParked g).memWf = s.memWf := by
  unfold State.lookParked
  dsimp only
  split
  · rfl
  split
  · rfl
  split
  · split <;> rfl
  · split
    · simp
    · simp
  · rfl

@[simp] theorem State.memWf_holdParked (s : State) (g : Nat) : (s.holdParked g).memWf = s.memWf := by
  unfold State.holdParked
  dsimp only
  split <;> simp

@[simp] theorem State.memWf_settleParked (s : State) : s.settleParked.memWf = s.memWf := by
  unfold State.settleParked
  exact foldl_keeps (P := fun t : State => t.memWf = s.memWf) (fun t x h => by simpa using h) _ rfl

@[simp] theorem State.memWf_settleDefs (s : State) : s.settleDefs.memWf = s.memWf := rfl

@[simp] theorem State.memWf_noteHeld (s : State) : s.noteHeld.memWf = s.memWf := by
  unfold State.noteHeld
  split <;> rfl

@[simp] theorem State.memWf_tick (s : State) : s.tick.memWf = s.memWf := by
  have h (t : State) (k : Nat) (d : DWord) :
      ({ t with clock := k, podTime := d, stalled := false, iss := {} } : State).memWf = t.memWf := rfl
  unfold State.tick
  dsimp only
  rw [State.memWf_noteHeld, h]
  split <;> simp

end Sys2Proof.Machine
end

