-- ==== Sys2Proof/Laws/Charges.lean ====
section
/-!
SUPPORT. What a charge of the energy clocks can change: sums of energy and counts of events, never a byte of memory, a core,
a load or a register.
-/

namespace Sys2Proof.Machine

/-- What a charge for work of strand g leaves as it was. -/
structure State.Spares (g : Nat) (s t : State) : Prop where
  hbm : t.hbm = s.hbm
  hostMem : t.hostMem = s.hostMem
  keyed : t.keyed = s.keyed
  cores : t.cores = s.cores
  loads : t.loads = s.loads
  self : { t.strand g with incCharge := (s.strand g).incCharge } = s.strand g
  others : ∀ h, h ≠ g → t.strand h = s.strand h

theorem State.Spares.refl (g : Nat) (s : State) : State.Spares g s s := ⟨rfl, rfl, rfl, rfl, rfl, rfl, fun _ _ => rfl⟩

/-- A step that touches neither memory, cores, loads nor strands. -/
theorem State.Spares.of (g : Nat) {s t u : State} (h : State.Spares g s t) (h1 : u.hbm = t.hbm) (h2 : u.hostMem = t.hostMem)
    (h3 : u.keyed = t.keyed) (h4 : u.cores = t.cores) (h5 : u.loads = t.loads) (h6 : u.strands = t.strands) :
    State.Spares g s u := by
  have e : ∀ i, u.strand i = t.strand i := fun i => by simp [State.strand, h6]
  exact ⟨h1.trans h.hbm, h2.trans h.hostMem, h3.trans h.keyed, h4.trans h.cores, h5.trans h.loads,
    by rw [e]; exact h.self, fun i hi => (e i).trans (h.others i hi)⟩

theorem State.Spares.withScache {g : Nat} {s t : State} (h : State.Spares g s t) (m : Assoc ScLine) :
    State.Spares g s { t with scache := m } := h.of g rfl rfl rfl rfl rfl rfl

theorem State.spares_countEv {g : Nat} {s t : State} (h : State.Spares g s t) (u e c n : Nat) :
    State.Spares g s (t.countEv u e c n) := by
  unfold State.countEv
  split
  · exact h
  · exact h.of g rfl rfl rfl rfl rfl rfl

theorem State.spares_addIncarnation {s t : State} (w : Work) (h : State.Spares w.g s t) (n : Nat) :
    State.Spares w.g s (t.addIncarnation w n) := by
  unfold State.addIncarnation
  split
  · refine ⟨h.hbm, h.hostMem, h.keyed, h.cores, h.loads, ?_, fun i hi => ?_⟩
    · rw [State.strand_modStrand_self]; exact h.self
    · rw [State.strand_modStrand_ne _ _ hi]; exact h.others i hi
  · split
    · exact h.of _ rfl rfl rfl rfl rfl rfl
    · exact h

theorem State.spares_drawCheck {g : Nat} {s t : State} (h : State.Spares g s t) (q ctx : Nat) :
    State.Spares g s (t.drawCheck q ctx) := by
  unfold State.drawCheck
  dsimp only
  split
  · exact h.of _ rfl rfl rfl rfl rfl rfl
  · exact h

theorem State.spares_chargeEvent {s t : State} (w : Work) (h : State.Spares w.g s t) (d raw : Nat) :
    State.Spares w.g s (t.chargeEvent w d raw) := by
  unfold State.chargeEvent
  refine State.spares_drawCheck (State.spares_countEv (State.spares_addIncarnation w ?_ _) _ _ _ _) _ _
  exact h.of _ rfl rfl rfl rfl rfl rfl

theorem State.spares_land {s t : State} (w : Work) (h : State.Spares w.g s t) (l : List Landing) :
    State.Spares w.g s (t.land w l) := by
  unfold State.land
  dsimp only
  refine foldl_keeps (P := State.Spares w.g s) (fun a b ha => State.spares_chargeEvent w ha _ _) _ ?_
  refine foldl_keeps (P := State.Spares w.g s) (fun a b ha => ?_) _ h
  split <;> first | exact State.spares_countEv ha _ _ _ _ | exact ha

theorem State.spares_needStack {g : Nat} {s t : State} (h : State.Spares g s t) (d : Nat) (b : Bool) :
    State.Spares g s (t.needStack d b) := by
  unfold State.needStack
  dsimp only
  split
  · exact h.of _ rfl rfl rfl rfl rfl rfl
  · split <;> split <;> exact h.of _ rfl rfl rfl rfl rfl rfl

theorem State.spares_dueOnce {g : Nat} {s t : State} (h : State.Spares g s t) (e : Event) : State.Spares g s (t.dueOnce e) := by
  unfold State.dueOnce
  split
  · exact h
  · exact h.of _ rfl rfl rfl rfl rfl rfl

theorem State.spares_homeAccess {g : Nat} {s t : State} (w : Work) (h : State.Spares g s t) (p : PAddr) (b c : Bool) :
    State.Spares g s (t.homeAccess w p b c).1 := by
  unfold State.homeAccess
  dsimp only
  split
  · exact h
  split
  · split
    · exact h.of _ rfl rfl rfl rfl rfl rfl
    · exact h
  · have h0 : State.Spares g s (if (b && c) = true then t else t.needStack (homeDie p)) := by
      split
      · exact h
      · exact State.spares_needStack h _ _
    generalize (if (b && c) = true then t else t.needStack (homeDie p)) = u at h0 ⊢
    refine State.Spares.withScache ?_ _
    split
    · split
      · split
        · exact State.spares_dueOnce (t := u.stepFree) (h0.of _ rfl rfl rfl rfl rfl rfl) _
        · exact h0.of _ rfl rfl rfl rfl rfl rfl
      · exact h0
    · exact h0

/-- A charge for a line leaves memory, cores, loads and registers. -/
theorem State.spares_chargeLine {s t : State} (w : Work) (h : State.Spares w.g s t) (die : Nat) (p : PAddr) (b c : Bool) :
    State.Spares w.g s (t.chargeLine w die p b c) :=
  State.spares_land w (State.spares_homeAccess w h p b c) _

/-- A charge for a load leaves memory, cores, loads and registers. -/
theorem State.spares_chargeLoad {s t : State} (r : LoadReq) (h : State.Spares r.work.g s t) :
    State.Spares r.work.g s (t.chargeLoad r) := by
  unfold State.chargeLoad State.lineAccess
  dsimp only
  refine State.spares_land r.work ?_ _
  split
  · exact State.spares_countEv (State.spares_homeAccess _ h _ _ _) _ _ _ _
  · exact h

end Sys2Proof.Machine
end

