-- ==== Sys2Proof/Laws/Words.lean ====
section
/-!
SUPPORT. What the shared courses of words come to once their operands are ready, and what they answer when an operand is
illegal.
-/

namespace Sys2Proof.Machine

set_option Elab.async false

/-- A uniform word whose check holds, that is not privileged here, and whose registers are ready goes on, charged one
uniform word. -/
theorem State.uWord_ready (s : State) {ok priv : Bool} {regs : List (Nat × Nat)} (k : State → State) (h : ok = true)
    (hr : s.UReady regs) (hp : priv = false := by rfl) : s.uWord ok regs k priv = k (s.raw 1 1) := by
  have h1 : (regs.any fun r => !s.old.uGroupOk r.1 r.2) = false := by
    rw [List.any_eq_false]; intro r hr'; simp [(hr r hr').1]
  have h2 : (regs.any fun r => s.old.pendsU r.1 r.2) = false := by
    rw [List.any_eq_false]; intro r hr'; simp [(hr r hr').2]
  simp [State.uWord, h, h1, h2, hp]

/-- A uniform word that is privileged here, with registers that are aligned and allotted, is an illegal encoding with PRIV. -/
theorem State.uWord_priv (s : State) {regs : List (Nat × Nat)} (k : State → State) (hr : s.UReady regs) :
    s.uWord true regs k true = s.enc .priv := by
  have h1 : (regs.any fun r => !s.old.uGroupOk r.1 r.2) = false := by
    rw [List.any_eq_false]; intro r hr'; simp [(hr r hr').1]
  simp [State.uWord, h1]

/-- A uniform word whose check fails is an illegal encoding. -/
theorem State.uWord_bad (s : State) {ok : Bool} (regs : List (Nat × Nat)) (k : State → State) (h : ok = false) :
    s.uWord ok regs k = s.enc .illegalOperand := by simp [State.uWord, h]

/-- A uniform word with a register group that is not aligned or not allotted is an illegal encoding. -/
theorem State.uWord_group (s : State) (ok : Bool) {regs : List (Nat × Nat)} (k : State → State) {r : Nat × Nat} (hr : r ∈ regs)
    (h : s.old.uGroupOk r.1 r.2 = false) : s.uWord ok regs k = s.enc .illegalOperand := by
  have : (regs.any fun r => !s.old.uGroupOk r.1 r.2) = true := List.any_eq_true.mpr ⟨r, hr, by simp [h]⟩
  simp [State.uWord, this]

/-- A uniform word without registers that must wait. -/
theorem State.uWord_none (s : State) (k : State → State) : s.uWord true [] k = k (s.raw 1 1) :=
  s.uWord_ready k rfl (by intro r hr; cases hr)

@[simp] theorem State.withOwn_self (s : State) : s.withOwn s.strands s.iss = s := rfl
@[simp] theorem State.withOwn_setStrand (s : State) (g : Nat) (x : Strand) (a : Assoc Strand) (b : Issue) :
    (s.setStrand g x).withOwn a b = s.withOwn a b := rfl
@[simp] theorem State.withOwn_modMe (s : State) (f : Strand → Strand) (a : Assoc Strand) (b : Issue) :
    (s.modMe f).withOwn a b = s.withOwn a b := rfl
@[simp] theorem State.withOwn_setU (s : State) (n : Nat) (v : Word) (a : Assoc Strand) (b : Issue) :
    (s.setU n v).withOwn a b = s.withOwn a b := rfl
@[simp] theorem State.withOwn_setRes (s : State) (r : IssueRes) (a : Assoc Strand) (b : Issue) :
    (s.setRes r).withOwn a b = s.withOwn a b := rfl
@[simp] theorem State.withOwn_done (s : State) (a : Assoc Strand) (b : Issue) : s.done.withOwn a b = s.withOwn a b := rfl
@[simp] theorem State.withOwn_raw (s : State) (c n : Nat) (a : Assoc Strand) (b : Issue) :
    (s.raw c n).withOwn a b = s.withOwn a b := rfl

/-- Writing one register is the whole effect of a uniform word: the register and the frame. -/
theorem State.uniformFrame_setU (s : State) (n : Nat) (v : Word) :
    ((s.raw 1 1).setU n v).done.me.uregs.get n = v ∧ s.UniformFrame ((s.raw 1 1).setU n v).done [n] := by
  refine ⟨by simp [State.done], ⟨⟨by simp, fun _ => rfl, fun g h => State.strand_setU_ne (s.raw 1 1) n v h, rfl⟩, rfl, ?_, ?_⟩⟩
  · simp [State.done]
  · intro r hr
    simp only [List.mem_singleton] at hr
    simp [State.done, Words.get_set_ne _ _ hr]

/-- Writing a pair of registers is the whole effect of a uniform word. -/
theorem State.uniformFrame_setU2 (s : State) (n : Nat) (v : DWord) :
    (((s.raw 1 1).setU2 n v).done.me.uregs.get n = loWord v ∧ ((s.raw 1 1).setU2 n v).done.me.uregs.get (n + 1) = hiWord v) ∧
      s.UniformFrame ((s.raw 1 1).setU2 n v).done [n, n + 1] := by
  have e : (s.raw 1 1).setU2 n v = ((s.raw 1 1).setU n (loWord v)).setU (n + 1) (hiWord v) := rfl
  rw [e]
  obtain ⟨h1, h2⟩ := State.uniformFrame_setU s n (loWord v)
  have o : (((s.raw 1 1).setU n (loWord v)).setU (n + 1) (hiWord v)).done.withOwn s.strands s.iss = s := by simp
  refine ⟨⟨?_, ?_⟩, ⟨⟨o, fun _ => rfl, fun g h => ?_, rfl⟩, rfl, ?_, ?_⟩⟩
  · simp [State.done, Words.get_set]
  · simp [State.done]
  · exact (State.strand_setU_ne ((s.raw 1 1).setU n (loWord v)) (n + 1) (hiWord v) h).trans (State.strand_setU_ne (s.raw 1 1) n (loWord v) h)
  · simp [State.done]
  · intro r hr
    simp only [List.mem_cons, List.not_mem_nil, or_false, not_or] at hr
    simp [State.done, Words.get_set_ne _ _ hr.1, Words.get_set_ne _ _ hr.2]

@[simp] theorem dword_lo_hi (v : DWord) : dword (loWord v) (hiWord v) = v := by
  unfold dword loWord hiWord
  apply BitVec.eq_of_getLsbD_eq
  intro i hi
  simp only [BitVec.getLsbD_append, BitVec.getLsbD_extractLsb']
  by_cases h : i < 32
  · simp [h]
  · have : 32 + (i - 32) = i := by omega
    have h2 : i - 32 < 32 := by omega
    simp [h, this, h2]

/-- A V word whose check holds and whose operands are ready goes on from the strand as it reads it. -/
theorem State.vWord_ready (s : State) {ok : Bool} {srcs : List VSrc} {dst : Option (Nat × Nat)} (k : Strand → State → State)
    (h : ok = true) (hr : s.VReady srcs dst) : s.vWord ok srcs dst k = k s.vReads (s.modMe Strand.vEnter) := by
  obtain ⟨h1, h2, h3, h4⟩ := hr
  have e1 : (srcs.any fun x => !s.old.vSrcOk x) = false := by
    rw [List.any_eq_false]; intro x hx; simp [(h1 x hx).1]
  have e2 : srcs.any s.old.vSrcPends = false := by
    rw [List.any_eq_false]; intro x hx; simp [(h1 x hx).2]
  cases dst with
  | none => simp [State.vWord, h, e1, e2, h4, Strand.rodFree, h2, State.vReads]
  | some p => simp [State.vWord, h, e1, e2, h3 p.1 p.2 rfl, h4, Strand.rodFree, h2, State.vReads]

/-- A V word whose check fails is an illegal encoding. -/
theorem State.vWord_bad (s : State) {ok : Bool} (srcs : List VSrc) (dst : Option (Nat × Nat)) (k : Strand → State → State)
    (h : ok = false) : s.vWord ok srcs dst k = s.enc .illegalOperand := by simp [State.vWord, h]

end Sys2Proof.Machine
end

