-- ==== Sys2Proof/Laws/Courses.lean ====
section
/-!
SUPPORT. What the shared courses of words can do: for each, every way in which it can end, and what it comes to when
nothing stops it. A proof about a word cites these and does not unfold the course.
-/

namespace Sys2Proof.Machine

set_option Elab.async false

/-! ### Every end of a course -/

/-- A wait for earlier words that is over, or that the combined run of a group does not look at. -/
theorem State.waits_false (s : State) {c : Bool} (h : c = false) : s.waits c = false := by simp [State.waits, h]

/-- A uniform word is illegal, privileged, waits for the scoreboard, or goes on. -/
theorem State.uWord_cases (s : State) (ok : Bool) (regs : List (Nat × Nat)) (k : State → State) (priv : Bool) :
    (∃ c, s.uWord ok regs k priv = s.enc c) ∨ (∃ ids, s.uWord ok regs k priv = s.holdData ids) ∨
      s.uWord ok regs k priv = k (s.raw 1 1) := by
  unfold State.uWord
  split
  · exact .inl ⟨_, rfl⟩
  split
  · exact .inl ⟨_, rfl⟩
  split
  · exact .inr (.inl ⟨_, rfl⟩)
  · exact .inr (.inr rfl)

/-- A V word that runs without a stop is illegal, waits, traps as one that would wait for ever, or goes on. -/
theorem State.vWord_cases (s : State) (ok : Bool) (srcs : List VSrc) (dst : Option (Nat × Nat)) (k : Strand → State → State) :
    s.vWord ok srcs dst k = s.enc .illegalOperand ∨ (∃ h, s.vWord ok srcs dst k = s.hold h) ∨
      (∃ ids, s.vWord ok srcs dst k = s.holdData ids) ∨
      s.vWord ok srcs dst k = s.trap { cause := .illegalOperand } ∨ s.vWord ok srcs dst k = k s.vReads (s.modMe Strand.vEnter) := by
  have hp : ∀ l m, (∃ ids, s.pendHold l m = s.holdData ids) ∨ s.pendHold l m = s.trap { cause := .illegalOperand } := by
    intro l m
    unfold State.pendHold
    dsimp only
    split
    · exact .inr rfl
    · exact .inl ⟨_, rfl⟩
  unfold State.vWord State.vReads
  dsimp only
  by_cases h1 : (!ok || srcs.any fun x => !s.old.vSrcOk x) = true
  · exact .inl (if_pos h1)
  rw [if_neg h1]
  by_cases h2 : (!s.old.rodFree) = true
  · exact .inr (.inl ⟨_, if_pos h2⟩)
  rw [if_neg h2]
  generalize (srcs.any s.old.vSrcPends || match dst with | some (r, n) => s.old.pendsV r n | none => false) = p
  cases p with
  | true => exact .inr (.inr ((hp _ _).imp id .inl))
  | false =>
    simp only [Bool.false_eq_true, if_false]
    split
    · exact .inr (.inl ⟨_, rfl⟩)
    · exact .inr (.inr (.inr (.inr rfl)))

/-- An M word is illegal, traps on a suspended tile, waits for the scoreboard, or goes on with its physical tile. -/
theorem State.mWord_cases (s : State) (ok : Bool) (t : BitVec 2) (regs : List (Nat × Nat)) (k : Nat → State → State) :
    s.mWord ok t regs k = s.enc .illegalOperand ∨ s.mWord ok t regs k = s.trap { cause := .illegalOperand } ∨
      (∃ ids, s.mWord ok t regs k = s.holdData ids) ∨ ∃ p, s.old.info.tiles[t.toNat]? = some p ∧ s.mWord ok t regs k = k p s := by
  unfold State.mWord
  split
  · exact .inl rfl
  · rename_i p hp
    split
    · exact .inl rfl
    split
    · exact .inr (.inl rfl)
    split
    · exact .inr (.inr (.inl ⟨_, rfl⟩))
    · exact .inr (.inr (.inr ⟨p, hp, rfl⟩))

/-- A word that makes a handle Pending waits while it is, or goes on. -/
theorem State.whenFree_cases (s : State) (h : Nat) (k : State → State) :
    s.whenFree h k = s.hold .handlePending ∨ (s.me.handle h ≠ .pending ∧ s.whenFree h k = k s) := by
  unfold State.whenFree
  split
  · exact .inl rfl
  · exact .inr ⟨‹_›, rfl⟩

/-- A word that follows the strand's own accesses waits for its stores, for its loads and messages, or goes on. -/
theorem State.afterOwn_cases (s : State) (k : State → State) :
    s.afterOwn k = s.hold .stores ∨ s.afterOwn k = s.hold .release ∨
      (s.waits (s.untranslated s.iss.g) = false ∧ s.waits (s.loadsOut s.iss.g || s.remotesOut s.iss.g) = false ∧
        s.afterOwn k = k s) := by
  unfold State.afterOwn
  split
  · exact .inl rfl
  split
  · exact .inr (.inl rfl)
  · refine .inr (.inr ⟨?_, ?_, rfl⟩) <;> simp_all

/-- A word forbidden to a task that holds a granule traps in one, or goes on. -/
theorem State.unlessHolding_cases (s : State) (k : State → State) :
    s.unlessHolding k = s.trap { cause := .setViolation, detail := 7 } ∨
      ((s.me.setBound && !s.me.aset.holds.isEmpty) = false ∧ s.unlessHolding k = k s) := by
  unfold State.unlessHolding
  split
  · exact .inl rfl
  · rename_i h
    exact .inr ⟨by simpa only [Bool.not_eq_true] using h, rfl⟩

/-- A word that names SF waits for the rod or for special functions, or goes on. -/
theorem State.whenSettled_cases (s : State) (k : State → State) :
    s.whenSettled k = s.hold .rod ∨ s.whenSettled k = s.hold .lateResult ∨
      (s.waits (!s.old.rodFree) = false ∧ s.waits (!s.old.flagsSettled) = false ∧ s.whenSettled k = k s) := by
  unfold State.whenSettled
  split
  · exact .inl rfl
  split
  · exact .inr (.inl rfl)
  · refine .inr (.inr ⟨?_, ?_, rfl⟩) <;> simp_all

/-- A barrier word waits for the flags, traps on an armed saturation, or goes on. -/
theorem State.flagsThen_cases (s : State) (k : State → State) :
    (∃ h, s.flagsThen k = s.hold h) ∨ s.flagsThen k = s.trap { cause := .satPending } ∨
      (s.old.satPending = false ∧ s.flagsThen k = k s) := by
  unfold State.flagsThen
  rcases s.whenSettled_cases (fun s => if s.old.satPending then s.trap { cause := .satPending } else k s) with h | h | ⟨-, -, h⟩
  · exact .inl ⟨_, h⟩
  · exact .inl ⟨_, h⟩
  · rw [h]
    split
    · exact .inr (.inl rfl)
    · rename_i h
      exact .inr (.inr ⟨by simpa only [Bool.not_eq_true] using h, rfl⟩)

/-- A SYNC word is illegal, waits, traps, or goes on with the instance it names. -/
theorem State.syncWord_cases (s : State) (sc : BitVec 3) (n : BitVec 5) (regs : List (Nat × Nat))
    (k : Nat → BarInst → State → State) :
    (∃ c, s.syncWord sc n regs k = s.enc c) ∨ (∃ ids, s.syncWord sc n regs k = s.holdData ids) ∨
      (∃ i, s.syncWord sc n regs k = (s.raw 1 1).trap i) ∨
      ∃ i b, s.barInst s.iss.g sc.toNat n.toNat = some i ∧ s.bars.find? i = some b ∧ s.syncWord sc n regs k = k i b (s.raw 1 1) := by
  unfold State.syncWord
  rcases s.uWord_cases (!(sc == 0 || sc == 6 || sc == 7)) regs _ false with h | h | h
  · exact .inl h
  · exact .inr (.inl h)
  · rw [h]
    split
    · exact .inr (.inr (.inl ⟨_, rfl⟩))
    split
    · exact .inr (.inr (.inl ⟨_, rfl⟩))
    split
    · exact .inr (.inr (.inl ⟨_, rfl⟩))
    · exact .inr (.inr (.inr ⟨_, _, ‹_›, ‹_›, rfl⟩))

/-- A word that releases waits after what the release has done so far, or goes on: in its trial after all of it, and in
the combined run of its group without looking again. -/
theorem State.afterRelease_cases (s : State) (scope : Nat) (k : State → State) :
    (∃ h, s.afterRelease scope k = (s.releaseStep s.iss.g scope).1.hold h) ∨
      (s.iss.go = true ∧ s.afterRelease scope k = k s) ∨
      ((s.releaseStep s.iss.g scope).2 = true ∧ s.afterRelease scope k = k (s.releaseStep s.iss.g scope).1) := by
  unfold State.afterRelease
  dsimp only
  split
  · exact .inr (.inl ⟨‹_›, rfl⟩)
  split
  · rename_i h; rw [h]; exact .inr (.inr ⟨rfl, rfl⟩)
  · rename_i h; rw [h]; exact .inl ⟨_, rfl⟩

/-- An M word waits while the queue of its unit is full, or goes on. -/
theorem State.whenQueue_cases (s : State) (k : State → State) :
    s.whenQueue k = s.hold .matrixUnit ∨ ((s.quarter s.myQuarter).mq.length < 4 ∧ s.whenQueue k = k s) := by
  unfold State.whenQueue
  split
  · exact .inl rfl
  · exact .inr ⟨by omega, rfl⟩

/-- A C word waits while the engine's entries are taken, or goes on. -/
theorem State.whenEngine_cases (s : State) (k : State → State) :
    s.whenEngine k = s.hold .copyEngine ∨ ((s.core s.myCore).creq.length < 32 ∧ s.whenEngine k = k s) := by
  unfold State.whenEngine
  split
  · exact .inl rfl
  · exact .inr ⟨by omega, rfl⟩

/-- A BB word is illegal, waits, traps on its offset, or goes on with it. -/
theorem State.bbWord_cases (s : State) (o : BitVec 8) (regs : List (Nat × Nat)) (k : Nat → State → State) :
    (∃ c, s.bbWord o regs k = s.enc c) ∨ (∃ ids, s.bbWord o regs k = s.holdData ids) ∨
      (∃ i, (s.raw 1 1).barrierTrap (s.u o.toNat).toNat = some i ∧ s.bbWord o regs k = (s.raw 1 1).trap i) ∨
      s.bbWord o regs k = (s.raw 1 1).hold .copyEngine ∨
      ((s.raw 1 1).barrierTrap (s.u o.toNat).toNat = none ∧ s.bbWord o regs k = k (s.u o.toNat).toNat (s.raw 1 1)) := by
  unfold State.bbWord
  rcases s.uWord_cases true ((o.toNat, 1) :: regs) _ false with h | h | h
  · exact .inl h
  · exact .inr (.inl h)
  · rw [h]
    dsimp only
    split
    · exact .inr (.inr (.inl ⟨_, ‹_›, rfl⟩))
    · rcases (s.raw 1 1).whenEngine_cases (k (s.u o.toNat).toNat) with h | ⟨-, h⟩
      · exact .inr (.inr (.inr (.inl h)))
      · exact .inr (.inr (.inr (.inr ⟨‹_›, h⟩)))

/-- An acquire that has still to be settled stands, or ends. -/
theorem State.settleAcquire_cases (s : State) (g : Nat) :
    s.settleAcquire g = s ∨ ∃ scope, (s.strand g).acquiring = some scope ∧
      s.settleAcquire g = (let t := s.modStrand g (fun t => { t with acquiring := none })
        if 2 ≤ scope then t.l1DropCtx (coreOf g) (t.strand g).info.ctx else t) := by
  unfold State.settleAcquire
  dsimp only
  split
  · exact .inl rfl
  · split
    · exact .inl rfl
    · exact .inr ⟨_, ‹_›, rfl⟩

/-! ### Courses that nothing stops -/

/-- A strand that acquires nothing has nothing to settle. -/
theorem State.settleAcquire_none (s : State) {g : Nat} (h : (s.strand g).acquiring = none) : s.settleAcquire g = s := by
  simp [State.settleAcquire, h]

/-- An M word on a tile of its own whose registers are ready goes on. -/
theorem State.mWord_ready (s : State) {ok : Bool} {t : BitVec 2} {regs : List (Nat × Nat)} {p : Nat} (k : Nat → State → State)
    (ht : s.old.info.tiles[t.toNat]? = some p) (h : ok = true) (hr : s.UReady regs)
    (hs : (s.me.trap.inHandler && ((s.quarter s.myQuarter).tileSt p).susp.isSome) = false) : s.mWord ok t regs k = k p s := by
  have h1 : (regs.any fun r => !s.old.uGroupOk r.1 r.2) = false := by
    rw [List.any_eq_false]; intro r hr'; simp [(hr r hr').1]
  have h2 : (regs.any fun r => s.old.pendsU r.1 r.2) = false := by
    rw [List.any_eq_false]; intro r hr'; simp [(hr r hr').2]
  simp [State.mWord, ht, h, h1, h2, hs]

theorem State.whenFree_ready (s : State) {h : Nat} (k : State → State) (hf : s.me.handle h ≠ .pending) : s.whenFree h k = k s := by
  simp [State.whenFree, hf]

theorem State.afterOwn_ready (s : State) (k : State → State) (h1 : s.untranslated s.iss.g = false)
    (h2 : s.loadsOut s.iss.g = false) (h3 : s.remotesOut s.iss.g = false) : s.afterOwn k = k s := by
  simp [State.afterOwn, State.waits, h1, h2, h3]

theorem State.whenSettled_ready (s : State) (k : State → State) (h1 : s.old.flight = none) (h2 : s.old.flagsSettled = true) :
    s.whenSettled k = k s := by simp [State.whenSettled, State.waits, Strand.rodFree, h1, h2]

theorem State.whenQueue_ready (s : State) (k : State → State) (h : (s.quarter s.myQuarter).mq.length < 4) :
    s.whenQueue k = k s := by simp [State.whenQueue]; omega

theorem State.whenEngine_ready (s : State) (k : State → State) (h : (s.core s.myCore).creq.length < 32) :
    s.whenEngine k = k s := by simp [State.whenEngine]; omega

/-- Every instruction with a memory form runs as a V memory word. -/
theorem exec_memWord {i : Instr} {s : State} {m : MemForm} (h : memForm i s.vp = some m) : exec i s = .next (s.memWord i) := by
  unfold memForm at h
  dsimp only at h
  split at h
  all_goals first
    | rfl
    | cases h

/-! ### The issue context alone changes -/

@[simp] theorem State.raw_untranslated (s : State) (c n g : Nat) : (s.raw c n).untranslated g = s.untranslated g := rfl
@[simp] theorem State.raw_mBusy (s : State) (c n g : Nat) : (s.raw c n).mBusy g = s.mBusy g := rfl
@[simp] theorem State.raw_exitScope (s : State) (c n g : Nat) : (s.raw c n).exitScope g = s.exitScope g := rfl
@[simp] theorem State.raw_loadsOut (s : State) (c n g : Nat) : (s.raw c n).loadsOut g = s.loadsOut g := rfl
@[simp] theorem State.raw_remotesOut (s : State) (c n g : Nat) : (s.raw c n).remotesOut g = s.remotesOut g := rfl
@[simp] theorem State.raw_storeBefore (s : State) (c n g a b : Nat) : (s.raw c n).storeBefore g a b = s.storeBefore g a b := rfl
@[simp] theorem State.raw_sqRoom (s : State) (c n : Nat) (e : SqEntry) : (s.raw c n).sqRoom e = s.sqRoom e := rfl
@[simp] theorem State.raw_barrierTrap (s : State) (c n o : Nat) : (s.raw c n).barrierTrap o = s.barrierTrap o := rfl
@[simp] theorem State.raw_readable (s : State) (c n x : Nat) : (s.raw c n).readable x = s.readable x := rfl
@[simp] theorem State.raw_ctxTime (s : State) (c n x : Nat) : (s.raw c n).ctxTime x = s.ctxTime x := rfl
@[simp] theorem State.raw_myCtx (s : State) (c n : Nat) : (s.raw c n).myCtx = s.myCtx := rfl
@[simp] theorem State.raw_barInst (s : State) (c n g a b : Nat) : (s.raw c n).barInst g a b = s.barInst g a b := rfl
@[simp] theorem State.raw_spadOrder (s : State) (c n g a : Nat) : (s.raw c n).spadOrder g a = s.spadOrder g a := rfl

end Sys2Proof.Machine
end

