-- ==== Sys2Proof/Laws/PerInstr.lean ====
section
/-!
SUPPORT. The per-instruction family Encoding: decoding the word that encodes an instruction gives the instruction back.
One lemma for each constructor of Instr; an event has no word.
-/

namespace Sys2Proof.Laws

set_option Elab.async false

/-! ### Fields of a composed word (R28, R35) -/

theorem fieldMaj_wordT (c : Bool) (m : BitVec 7) (d a b : BitVec 8) : fieldMaj (wordT c m d a b) = m := by
  unfold fieldMaj wordT
  apply BitVec.eq_of_getLsbD_eq
  intro i hi
  simp only [BitVec.getLsbD_extractLsb', BitVec.getLsbD_append, hi]
  grind

theorem fieldD_wordT (c : Bool) (m : BitVec 7) (d a b : BitVec 8) : fieldD (wordT c m d a b) = d := by
  unfold fieldD wordT
  apply BitVec.eq_of_getLsbD_eq
  intro i hi
  simp only [BitVec.getLsbD_extractLsb', BitVec.getLsbD_append, hi]
  grind

theorem fieldA_wordT (c : Bool) (m : BitVec 7) (d a b : BitVec 8) : fieldA (wordT c m d a b) = a := by
  unfold fieldA wordT
  apply BitVec.eq_of_getLsbD_eq
  intro i hi
  simp only [BitVec.getLsbD_extractLsb', BitVec.getLsbD_append, hi]
  grind

theorem fieldB_wordT (c : Bool) (m : BitVec 7) (d a b : BitVec 8) : fieldB (wordT c m d a b) = b := by
  unfold fieldB wordT
  apply BitVec.eq_of_getLsbD_eq
  intro i hi
  simp only [BitVec.getLsbD_extractLsb', BitVec.getLsbD_append, hi]
  grind

theorem fieldC_wordT (c : Bool) (m : BitVec 7) (d a b : BitVec 8) : fieldC (wordT c m d a b) = c := by
  unfold fieldC wordT
  simp only [BitVec.getLsbD_append]
  grind

theorem wordI_eq (c : Bool) (m : BitVec 7) (d : BitVec 8) (i : BitVec 16) :
    wordI c m d i = wordT c m d (i.extractLsb' 8 8) (i.extractLsb' 0 8) := by
  unfold wordI wordT
  apply BitVec.eq_of_getLsbD_eq
  intro k hk
  simp only [BitVec.getLsbD_extractLsb', BitVec.getLsbD_append]
  grind

theorem wordJ_eq (c : Bool) (m : BitVec 7) (o : BitVec 24) :
    wordJ c m o = wordT c m (o.extractLsb' 16 8) (o.extractLsb' 8 8) (o.extractLsb' 0 8) := by
  unfold wordJ wordT
  apply BitVec.eq_of_getLsbD_eq
  intro k hk
  simp only [BitVec.getLsbD_extractLsb', BitVec.getLsbD_append]
  grind

theorem fieldI_wordT (c : Bool) (m : BitVec 7) (d a b : BitVec 8) : fieldI (wordT c m d a b) = a ++ b := by
  unfold fieldI wordT
  apply BitVec.eq_of_getLsbD_eq
  intro i hi
  simp only [BitVec.getLsbD_extractLsb', BitVec.getLsbD_append, hi]
  grind

theorem fieldO_wordT (c : Bool) (m : BitVec 7) (d a b : BitVec 8) : fieldO (wordT c m d a b) = d ++ a ++ b := by
  unfold fieldO wordT
  apply BitVec.eq_of_getLsbD_eq
  intro i hi
  simp only [BitVec.getLsbD_extractLsb', BitVec.getLsbD_append, hi]
  grind

theorem split16 (i : BitVec 16) : i.extractLsb' 8 8 ++ i.extractLsb' 0 8 = i := by
  apply BitVec.eq_of_getLsbD_eq
  intro k hk
  simp only [BitVec.getLsbD_extractLsb', BitVec.getLsbD_append]
  grind

theorem split24 (i : BitVec 24) : i.extractLsb' 16 8 ++ i.extractLsb' 8 8 ++ i.extractLsb' 0 8 = i := by
  apply BitVec.eq_of_getLsbD_eq
  intro k hk
  simp only [BitVec.getLsbD_extractLsb', BitVec.getLsbD_append]
  grind

theorem wordT_ne_zero (c : Bool) (m : BitVec 7) (d a b : BitVec 8) (h : m ≠ 0#7) : wordT c m d a b ≠ 0#32 := by
  intro e
  have := fieldMaj_wordT c m d a b
  rw [e] at this
  exact h (this ▸ (by decide))

theorem decode_wordT (c : Bool) (m : BitVec 7) (d a b : BitVec 8) (h : m ≠ 0#7) (h1 : m ≠ 0x7E#7) (h2 : m ≠ 0x7F#7) :
    decode (wordT c m d a b) =
      if m < 0x20#7 then decodeUniform m c d a b (a ++ b) (d ++ a ++ b)
      else if m < 0x50#7 then decodeVector m c d a b (a ++ b) (d ++ a ++ b)
      else if m < 0x60#7 then decodeMemory m c d a b (a ++ b) (d ++ a ++ b)
      else if m < 0x70#7 then decodeMatrixCopy m c d a b (a ++ b) (d ++ a ++ b)
      else decodeControl m c d a b (a ++ b) (d ++ a ++ b) := by
  simp only [decode, wordT_ne_zero c m d a b h, fieldMaj_wordT, fieldC_wordT, fieldD_wordT, fieldA_wordT, fieldB_wordT, fieldI_wordT, fieldO_wordT, h, h1, h2, if_false]

/-! ### Bytes made of small fields -/

theorem tile_fmt : ∀ (t : BitVec 2) (f : BitVec 6), (t ++ f).extractLsb' 6 2 = t ∧ (t ++ f).extractLsb' 0 6 = f := by decide
theorem tile_alone : ∀ t : BitVec 2, (t ++ 0#6) &&& 0x3F#8 = 0#8 ∧ (t ++ 0#6).extractLsb' 6 2 = t := by decide
theorem tile_block : ∀ (t : BitVec 2) (k : BitVec 3), (t ++ 0#3 ++ k) &&& 0x38#8 = 0#8 ∧
    (t ++ 0#3 ++ k).extractLsb' 6 2 = t ∧ (t ++ 0#3 ++ k).extractLsb' 0 3 = k := by decide
theorem fence_byte : ∀ (s : BitVec 3) (k : BitVec 2), (s ++ 0#3 ++ k) &&& 0x1C#8 = 0#8 ∧
    (s ++ 0#3 ++ k).extractLsb' 5 3 = s ∧ (s ++ 0#3 ++ k).extractLsb' 0 2 = k := by decide
theorem drain_byte : ∀ (x : BitVec 1) (h : BitVec 4), (0#3 ++ x ++ h) &&& 0xE0#8 = 0#8 ∧
    (0#3 ++ x ++ h).extractLsb' 4 1 = x ∧ (0#3 ++ x ++ h).extractLsb' 0 4 = h := by decide
theorem handle_byte : ∀ h : BitVec 4, (0#4 ++ h) &&& 0xF0#8 = 0#8 ∧ (0#4 ++ h).extractLsb' 0 4 = h := by decide
theorem mask_byte : ∀ m : BitVec 3, (0#5 ++ m) &&& 0xF8#8 = 0#8 ∧ (0#5 ++ m).extractLsb' 0 3 = m := by decide
theorem set_byte : ∀ n : BitVec 2, (0#6 ++ n) &&& 0xFC#8 = 0#8 ∧ (0#6 ++ n).extractLsb' 0 2 = n := by decide
theorem level_byte : ∀ l : BitVec 1, (0#7 ++ l) &&& 0xFE#8 = 0#8 ∧ (0#7 ++ l).extractLsb' 0 1 = l := by decide
theorem compare_byte : ∀ k m : BitVec 3, (0#1 ++ k ++ 0#1 ++ m) &&& 0x88#8 = 0#8 ∧
    (0#1 ++ k ++ 0#1 ++ m).extractLsb' 4 3 = k ∧ (0#1 ++ k ++ 0#1 ++ m).extractLsb' 0 3 = m := by decide
theorem convert_byte : ∀ (x : BitVec 1) (s t : BitVec 3), (0#1 ++ x ++ s ++ t) &&& 0x80#8 = 0#8 ∧
    (0#1 ++ x ++ s ++ t).extractLsb' 6 1 = x ∧ (0#1 ++ x ++ s ++ t).extractLsb' 3 3 = s ∧
    (0#1 ++ x ++ s ++ t).extractLsb' 0 3 = t := by decide
theorem lane_byte : ∀ l f : BitVec 3, (0#2 ++ l ++ f) &&& 0xC0#8 = 0#8 ∧
    (0#2 ++ l ++ f).extractLsb' 3 3 = l ∧ (0#2 ++ l ++ f).extractLsb' 0 3 = f := by decide
theorem atomic_byte : ∀ (s : BitVec 3) (r : BitVec 1) (p : BitVec 4), (s ++ r ++ p).extractLsb' 5 3 = s ∧
    (s ++ r ++ p).extractLsb' 4 1 = r ∧ (s ++ r ++ p).extractLsb' 0 4 = p := by decide
theorem barrier_byte : ∀ (s : BitVec 3) (n : BitVec 5), (s ++ n).extractLsb' 5 3 = s ∧ (s ++ n).extractLsb' 0 5 = n := by decide
theorem upfx_byte : ∀ d a b w : BitVec 2, (d ++ a ++ b ++ w).extractLsb' 6 2 = d ∧ (d ++ a ++ b ++ w).extractLsb' 4 2 = a ∧
    (d ++ a ++ b ++ w).extractLsb' 2 2 = b ∧ (d ++ a ++ b ++ w).extractLsb' 0 2 = w := by decide

/-! ### One lemma for each constructor -/

/-- The family's statement: the word of a well-formed instruction decodes to it. -/
def Encoding.Statement (i : Instr) : Prop := i.wellFormed = true → ∀ w, encode i = some w → decode w = .ok i

theorem Encoding.unop : Encoding.Statement .unop := by
  rintro _ w ⟨⟩
  rfl
theorem Encoding.uadd (c d a b) : Encoding.Statement (.uadd c d a b) := by
  rintro _ w ⟨⟩
  exact (decode_wordT _ _ _ _ _ (by decide) (by decide) (by decide)).trans rfl
theorem Encoding.usub (c d a b) : Encoding.Statement (.usub c d a b) := by
  rintro _ w ⟨⟩
  exact (decode_wordT _ _ _ _ _ (by decide) (by decide) (by decide)).trans rfl
theorem Encoding.umul (c d a b) : Encoding.Statement (.umul c d a b) := by
  rintro _ w ⟨⟩
  exact (decode_wordT _ _ _ _ _ (by decide) (by decide) (by decide)).trans rfl
theorem Encoding.umulhI (c d a b) : Encoding.Statement (.umulhI c d a b) := by
  rintro _ w ⟨⟩
  exact (decode_wordT _ _ _ _ _ (by decide) (by decide) (by decide)).trans rfl
theorem Encoding.umulhN (c d a b) : Encoding.Statement (.umulhN c d a b) := by
  rintro _ w ⟨⟩
  exact (decode_wordT _ _ _ _ _ (by decide) (by decide) (by decide)).trans rfl
theorem Encoding.uand (c d a b) : Encoding.Statement (.uand c d a b) := by
  rintro _ w ⟨⟩
  exact (decode_wordT _ _ _ _ _ (by decide) (by decide) (by decide)).trans rfl
theorem Encoding.uor (c d a b) : Encoding.Statement (.uor c d a b) := by
  rintro _ w ⟨⟩
  exact (decode_wordT _ _ _ _ _ (by decide) (by decide) (by decide)).trans rfl
theorem Encoding.uxor (c d a b) : Encoding.Statement (.uxor c d a b) := by
  rintro _ w ⟨⟩
  exact (decode_wordT _ _ _ _ _ (by decide) (by decide) (by decide)).trans rfl
theorem Encoding.uandn (c d a b) : Encoding.Statement (.uandn c d a b) := by
  rintro _ w ⟨⟩
  exact (decode_wordT _ _ _ _ _ (by decide) (by decide) (by decide)).trans rfl
theorem Encoding.ushl (c d a b) : Encoding.Statement (.ushl c d a b) := by
  rintro _ w ⟨⟩
  exact (decode_wordT _ _ _ _ _ (by decide) (by decide) (by decide)).trans rfl
theorem Encoding.ushr (c d a b) : Encoding.Statement (.ushr c d a b) := by
  rintro _ w ⟨⟩
  exact (decode_wordT _ _ _ _ _ (by decide) (by decide) (by decide)).trans rfl
theorem Encoding.usar (c d a b) : Encoding.Statement (.usar c d a b) := by
  rintro _ w ⟨⟩
  exact (decode_wordT _ _ _ _ _ (by decide) (by decide) (by decide)).trans rfl
theorem Encoding.uminI (c d a b) : Encoding.Statement (.uminI c d a b) := by
  rintro _ w ⟨⟩
  exact (decode_wordT _ _ _ _ _ (by decide) (by decide) (by decide)).trans rfl
theorem Encoding.uminN (c d a b) : Encoding.Statement (.uminN c d a b) := by
  rintro _ w ⟨⟩
  exact (decode_wordT _ _ _ _ _ (by decide) (by decide) (by decide)).trans rfl
theorem Encoding.umaxI (c d a b) : Encoding.Statement (.umaxI c d a b) := by
  rintro _ w ⟨⟩
  exact (decode_wordT _ _ _ _ _ (by decide) (by decide) (by decide)).trans rfl
theorem Encoding.umaxN (c d a b) : Encoding.Statement (.umaxN c d a b) := by
  rintro _ w ⟨⟩
  exact (decode_wordT _ _ _ _ _ (by decide) (by decide) (by decide)).trans rfl
theorem Encoding.usltI (c d a b) : Encoding.Statement (.usltI c d a b) := by
  rintro _ w ⟨⟩
  exact (decode_wordT _ _ _ _ _ (by decide) (by decide) (by decide)).trans rfl
theorem Encoding.usltN (c d a b) : Encoding.Statement (.usltN c d a b) := by
  rintro _ w ⟨⟩
  exact (decode_wordT _ _ _ _ _ (by decide) (by decide) (by decide)).trans rfl
theorem Encoding.useq (c d a b) : Encoding.Statement (.useq c d a b) := by
  rintro _ w ⟨⟩
  exact (decode_wordT _ _ _ _ _ (by decide) (by decide) (by decide)).trans rfl
theorem Encoding.uaddi (c d i) : Encoding.Statement (.uaddi c d i) := by
  rintro _ w ⟨⟩
  rw [wordI_eq, decode_wordT _ _ _ _ _ (by decide) (by decide) (by decide), split16]
  rfl
theorem Encoding.umovi (c d i) : Encoding.Statement (.umovi c d i) := by
  rintro _ w ⟨⟩
  rw [wordI_eq, decode_wordT _ _ _ _ _ (by decide) (by decide) (by decide), split16]
  rfl
theorem Encoding.ului (c d i) : Encoding.Statement (.ului c d i) := by
  rintro _ w ⟨⟩
  rw [wordI_eq, decode_wordT _ _ _ _ _ (by decide) (by decide) (by decide), split16]
  rfl
theorem Encoding.uclz (c d a) : Encoding.Statement (.uclz c d a) := by
  rintro _ w ⟨⟩
  exact (decode_wordT _ _ _ _ _ (by decide) (by decide) (by decide)).trans rfl
theorem Encoding.upopc (c d a) : Encoding.Statement (.upopc c d a) := by
  rintro _ w ⟨⟩
  exact (decode_wordT _ _ _ _ _ (by decide) (by decide) (by decide)).trans rfl
theorem Encoding.ubrev (c d a) : Encoding.Statement (.ubrev c d a) := by
  rintro _ w ⟨⟩
  exact (decode_wordT _ _ _ _ _ (by decide) (by decide) (by decide)).trans rfl
theorem Encoding.usext8 (c d a) : Encoding.Statement (.usext8 c d a) := by
  rintro _ w ⟨⟩
  exact (decode_wordT _ _ _ _ _ (by decide) (by decide) (by decide)).trans rfl
theorem Encoding.usext16 (c d a) : Encoding.Statement (.usext16 c d a) := by
  rintro _ w ⟨⟩
  exact (decode_wordT _ _ _ _ _ (by decide) (by decide) (by decide)).trans rfl
theorem Encoding.uneg (c d a) : Encoding.Statement (.uneg c d a) := by
  rintro _ w ⟨⟩
  exact (decode_wordT _ _ _ _ _ (by decide) (by decide) (by decide)).trans rfl
theorem Encoding.uabs (c d a) : Encoding.Statement (.uabs c d a) := by
  rintro _ w ⟨⟩
  exact (decode_wordT _ _ _ _ _ (by decide) (by decide) (by decide)).trans rfl
theorem Encoding.ubfe (c d a b) : Encoding.Statement (.ubfe c d a b) := by
  rintro _ w ⟨⟩
  exact (decode_wordT _ _ _ _ _ (by decide) (by decide) (by decide)).trans rfl
theorem Encoding.ubfi (c d a b) : Encoding.Statement (.ubfi c d a b) := by
  rintro _ w ⟨⟩
  exact (decode_wordT _ _ _ _ _ (by decide) (by decide) (by decide)).trans rfl
theorem Encoding.ufadd (c d a b) : Encoding.Statement (.ufadd c d a b) := by
  rintro _ w ⟨⟩
  exact (decode_wordT _ _ _ _ _ (by decide) (by decide) (by decide)).trans rfl
theorem Encoding.ufmul (c d a b) : Encoding.Statement (.ufmul c d a b) := by
  rintro _ w ⟨⟩
  exact (decode_wordT _ _ _ _ _ (by decide) (by decide) (by decide)).trans rfl
theorem Encoding.ufslt (c d a b) : Encoding.Statement (.ufslt c d a b) := by
  rintro _ w ⟨⟩
  exact (decode_wordT _ _ _ _ _ (by decide) (by decide) (by decide)).trans rfl
theorem Encoding.uld (c d a o) : Encoding.Statement (.uld c d a o) := by
  rintro _ w ⟨⟩
  exact (decode_wordT _ _ _ _ _ (by decide) (by decide) (by decide)).trans rfl
theorem Encoding.ust (c d a o) : Encoding.Statement (.ust c d a o) := by
  rintro _ w ⟨⟩
  exact (decode_wordT _ _ _ _ _ (by decide) (by decide) (by decide)).trans rfl
theorem Encoding.usr (c d a) : Encoding.Statement (.usr c d a) := by
  rintro _ w ⟨⟩
  exact (decode_wordT _ _ _ _ _ (by decide) (by decide) (by decide)).trans rfl
theorem Encoding.usw (c d a) : Encoding.Statement (.usw c d a) := by
  rintro _ w ⟨⟩
  exact (decode_wordT _ _ _ _ _ (by decide) (by decide) (by decide)).trans rfl
theorem Encoding.returnStackRegisterWrite (r v) : Encoding.Statement (.returnStackRegisterWrite r v) := by
  rintro _ w ⟨⟩
theorem Encoding.rngkeyWrite (r v) : Encoding.Statement (.rngkeyWrite r v) := by
  rintro _ w ⟨⟩
theorem Encoding.sfAccess (op) : Encoding.Statement (.sfAccess op) := by
  rintro _ w ⟨⟩
theorem Encoding.upfx (d a b w i) : Encoding.Statement (.upfx d a b w i) := by
  rintro _ w ⟨⟩
  rw [wordI_eq]
  simp only [decode, wordT_ne_zero _ _ _ _ _ (show (0x7E#7 : BitVec 7) ≠ 0#7 by decide), fieldMaj_wordT, fieldC_wordT,
    fieldD_wordT, fieldI_wordT, upfx_byte, split16]
  rfl
theorem Encoding.vpfx (m r z d a b c) : Encoding.Statement (.vpfx m r z d a b c) := by
  rintro _ w ⟨⟩
  rw [wordJ_eq]
  simp only [decode, wordT_ne_zero _ _ _ _ _ (show (0x7F#7 : BitVec 7) ≠ 0#7 by decide), fieldMaj_wordT, fieldC_wordT, fieldO_wordT, split24]
  have e (n k : Nat) (x : BitVec k) (h : ∀ i, i < k → (m ++ r ++ z ++ d ++ a ++ b ++ c ++ 0#3).getLsbD (n + i) = x.getLsbD i) :
      (m ++ r ++ z ++ d ++ a ++ b ++ c ++ 0#3).extractLsb' n k = x := by
    apply BitVec.eq_of_getLsbD_eq
    intro i hi
    simp [hi, h i hi]
  rw [e 0 3 0#3, e 21 3 m, e 18 3 r, e 17 1 z, e 15 2 d, e 13 2 a, e 11 2 b, e 3 8 c]
  · simp
  all_goals
    intro i hi
    simp only [BitVec.getLsbD_append]
    grind
theorem Encoding.vadd (c d a b) : Encoding.Statement (.vadd c d a b) := by
  rintro _ w ⟨⟩
  exact (decode_wordT _ _ _ _ _ (by decide) (by decide) (by decide)).trans rfl
theorem Encoding.vsub (c d a b) : Encoding.Statement (.vsub c d a b) := by
  rintro _ w ⟨⟩
  exact (decode_wordT _ _ _ _ _ (by decide) (by decide) (by decide)).trans rfl
theorem Encoding.vmul (c d a b) : Encoding.Statement (.vmul c d a b) := by
  rintro _ w ⟨⟩
  exact (decode_wordT _ _ _ _ _ (by decide) (by decide) (by decide)).trans rfl
theorem Encoding.vmulhI (c d a b) : Encoding.Statement (.vmulhI c d a b) := by
  rintro _ w ⟨⟩
  exact (decode_wordT _ _ _ _ _ (by decide) (by decide) (by decide)).trans rfl
theorem Encoding.vmulhN (c d a b) : Encoding.Statement (.vmulhN c d a b) := by
  rintro _ w ⟨⟩
  exact (decode_wordT _ _ _ _ _ (by decide) (by decide) (by decide)).trans rfl
theorem Encoding.vmad (c d a b) : Encoding.Statement (.vmad c d a b) := by
  rintro _ w ⟨⟩
  exact (decode_wordT _ _ _ _ _ (by decide) (by decide) (by decide)).trans rfl
theorem Encoding.vand (c d a b) : Encoding.Statement (.vand c d a b) := by
  rintro _ w ⟨⟩
  exact (decode_wordT _ _ _ _ _ (by decide) (by decide) (by decide)).trans rfl
theorem Encoding.vor (c d a b) : Encoding.Statement (.vor c d a b) := by
  rintro _ w ⟨⟩
  exact (decode_wordT _ _ _ _ _ (by decide) (by decide) (by decide)).trans rfl
theorem Encoding.vxor (c d a b) : Encoding.Statement (.vxor c d a b) := by
  rintro _ w ⟨⟩
  exact (decode_wordT _ _ _ _ _ (by decide) (by decide) (by decide)).trans rfl
theorem Encoding.vandn (c d a b) : Encoding.Statement (.vandn c d a b) := by
  rintro _ w ⟨⟩
  exact (decode_wordT _ _ _ _ _ (by decide) (by decide) (by decide)).trans rfl
theorem Encoding.vshl (c d a b) : Encoding.Statement (.vshl c d a b) := by
  rintro _ w ⟨⟩
  exact (decode_wordT _ _ _ _ _ (by decide) (by decide) (by decide)).trans rfl
theorem Encoding.vshr (c d a b) : Encoding.Statement (.vshr c d a b) := by
  rintro _ w ⟨⟩
  exact (decode_wordT _ _ _ _ _ (by decide) (by decide) (by decide)).trans rfl
theorem Encoding.vsar (c d a b) : Encoding.Statement (.vsar c d a b) := by
  rintro _ w ⟨⟩
  exact (decode_wordT _ _ _ _ _ (by decide) (by decide) (by decide)).trans rfl
theorem Encoding.vminI (c d a b) : Encoding.Statement (.vminI c d a b) := by
  rintro _ w ⟨⟩
  exact (decode_wordT _ _ _ _ _ (by decide) (by decide) (by decide)).trans rfl
theorem Encoding.vminN (c d a b) : Encoding.Statement (.vminN c d a b) := by
  rintro _ w ⟨⟩
  exact (decode_wordT _ _ _ _ _ (by decide) (by decide) (by decide)).trans rfl
theorem Encoding.vmaxI (c d a b) : Encoding.Statement (.vmaxI c d a b) := by
  rintro _ w ⟨⟩
  exact (decode_wordT _ _ _ _ _ (by decide) (by decide) (by decide)).trans rfl
theorem Encoding.vmaxN (c d a b) : Encoding.Statement (.vmaxN c d a b) := by
  rintro _ w ⟨⟩
  exact (decode_wordT _ _ _ _ _ (by decide) (by decide) (by decide)).trans rfl
theorem Encoding.vbfe (c d a b) : Encoding.Statement (.vbfe c d a b) := by
  rintro _ w ⟨⟩
  exact (decode_wordT _ _ _ _ _ (by decide) (by decide) (by decide)).trans rfl
theorem Encoding.vbfi (c d a b) : Encoding.Statement (.vbfi c d a b) := by
  rintro _ w ⟨⟩
  exact (decode_wordT _ _ _ _ _ (by decide) (by decide) (by decide)).trans rfl
theorem Encoding.vsel (c d a b) : Encoding.Statement (.vsel c d a b) := by
  rintro _ w ⟨⟩
  exact (decode_wordT _ _ _ _ _ (by decide) (by decide) (by decide)).trans rfl
theorem Encoding.vcmpI (c k m a b) : Encoding.Statement (.vcmpI c k m a b) := by
  rintro _ w ⟨⟩
  refine (decode_wordT _ _ _ _ _ (by decide) (by decide) (by decide)).trans ?_
  simp [decodeVector, compare_byte k m]
theorem Encoding.vcmpN (c k m a b) : Encoding.Statement (.vcmpN c k m a b) := by
  rintro _ w ⟨⟩
  refine (decode_wordT _ _ _ _ _ (by decide) (by decide) (by decide)).trans ?_
  simp [decodeVector, compare_byte k m]
theorem Encoding.vfcmpF32 (c k m a b) : Encoding.Statement (.vfcmpF32 c k m a b) := by
  rintro _ w ⟨⟩
  refine (decode_wordT _ _ _ _ _ (by decide) (by decide) (by decide)).trans ?_
  simp [decodeVector, compare_byte k m]
theorem Encoding.vclz (c d a) : Encoding.Statement (.vclz c d a) := by
  rintro _ w ⟨⟩
  exact (decode_wordT _ _ _ _ _ (by decide) (by decide) (by decide)).trans rfl
theorem Encoding.vpopc (c d a) : Encoding.Statement (.vpopc c d a) := by
  rintro _ w ⟨⟩
  exact (decode_wordT _ _ _ _ _ (by decide) (by decide) (by decide)).trans rfl
theorem Encoding.vbrev (c d a) : Encoding.Statement (.vbrev c d a) := by
  rintro _ w ⟨⟩
  exact (decode_wordT _ _ _ _ _ (by decide) (by decide) (by decide)).trans rfl
theorem Encoding.vsext8 (c d a) : Encoding.Statement (.vsext8 c d a) := by
  rintro _ w ⟨⟩
  exact (decode_wordT _ _ _ _ _ (by decide) (by decide) (by decide)).trans rfl
theorem Encoding.vsext16 (c d a) : Encoding.Statement (.vsext16 c d a) := by
  rintro _ w ⟨⟩
  exact (decode_wordT _ _ _ _ _ (by decide) (by decide) (by decide)).trans rfl
theorem Encoding.vneg (c d a) : Encoding.Statement (.vneg c d a) := by
  rintro _ w ⟨⟩
  exact (decode_wordT _ _ _ _ _ (by decide) (by decide) (by decide)).trans rfl
theorem Encoding.vabs (c d a) : Encoding.Statement (.vabs c d a) := by
  rintro _ w ⟨⟩
  exact (decode_wordT _ _ _ _ _ (by decide) (by decide) (by decide)).trans rfl
theorem Encoding.vmov (c d a) : Encoding.Statement (.vmov c d a) := by
  rintro _ w ⟨⟩
  exact (decode_wordT _ _ _ _ _ (by decide) (by decide) (by decide)).trans rfl
theorem Encoding.vfaddF32 (c d a b) : Encoding.Statement (.vfaddF32 c d a b) := by
  rintro _ w ⟨⟩
  exact (decode_wordT _ _ _ _ _ (by decide) (by decide) (by decide)).trans rfl
theorem Encoding.vfsubF32 (c d a b) : Encoding.Statement (.vfsubF32 c d a b) := by
  rintro _ w ⟨⟩
  exact (decode_wordT _ _ _ _ _ (by decide) (by decide) (by decide)).trans rfl
theorem Encoding.vfmulF32 (c d a b) : Encoding.Statement (.vfmulF32 c d a b) := by
  rintro _ w ⟨⟩
  exact (decode_wordT _ _ _ _ _ (by decide) (by decide) (by decide)).trans rfl
theorem Encoding.vfmaF32 (c d a b) : Encoding.Statement (.vfmaF32 c d a b) := by
  rintro _ w ⟨⟩
  exact (decode_wordT _ _ _ _ _ (by decide) (by decide) (by decide)).trans rfl
theorem Encoding.vfminF32 (c d a b) : Encoding.Statement (.vfminF32 c d a b) := by
  rintro _ w ⟨⟩
  exact (decode_wordT _ _ _ _ _ (by decide) (by decide) (by decide)).trans rfl
theorem Encoding.vfmaxF32 (c d a b) : Encoding.Statement (.vfmaxF32 c d a b) := by
  rintro _ w ⟨⟩
  exact (decode_wordT _ _ _ _ _ (by decide) (by decide) (by decide)).trans rfl
theorem Encoding.vfaddF16x2 (c d a b) : Encoding.Statement (.vfaddF16x2 c d a b) := by
  rintro _ w ⟨⟩
  exact (decode_wordT _ _ _ _ _ (by decide) (by decide) (by decide)).trans rfl
theorem Encoding.vfmulF16x2 (c d a b) : Encoding.Statement (.vfmulF16x2 c d a b) := by
  rintro _ w ⟨⟩
  exact (decode_wordT _ _ _ _ _ (by decide) (by decide) (by decide)).trans rfl
theorem Encoding.vfmaF16x2 (c d a b) : Encoding.Statement (.vfmaF16x2 c d a b) := by
  rintro _ w ⟨⟩
  exact (decode_wordT _ _ _ _ _ (by decide) (by decide) (by decide)).trans rfl
theorem Encoding.vfaddBf16x2 (c d a b) : Encoding.Statement (.vfaddBf16x2 c d a b) := by
  rintro _ w ⟨⟩
  exact (decode_wordT _ _ _ _ _ (by decide) (by decide) (by decide)).trans rfl
theorem Encoding.vfmulBf16x2 (c d a b) : Encoding.Statement (.vfmulBf16x2 c d a b) := by
  rintro _ w ⟨⟩
  exact (decode_wordT _ _ _ _ _ (by decide) (by decide) (by decide)).trans rfl
theorem Encoding.vfmaBf16x2 (c d a b) : Encoding.Statement (.vfmaBf16x2 c d a b) := by
  rintro _ w ⟨⟩
  exact (decode_wordT _ _ _ _ _ (by decide) (by decide) (by decide)).trans rfl
theorem Encoding.vdot2F16 (c d a b) : Encoding.Statement (.vdot2F16 c d a b) := by
  rintro _ w ⟨⟩
  exact (decode_wordT _ _ _ _ _ (by decide) (by decide) (by decide)).trans rfl
theorem Encoding.vdot2Bf16 (c d a b) : Encoding.Statement (.vdot2Bf16 c d a b) := by
  rintro _ w ⟨⟩
  exact (decode_wordT _ _ _ _ _ (by decide) (by decide) (by decide)).trans rfl
theorem Encoding.vfabs (c d a) : Encoding.Statement (.vfabs c d a) := by
  rintro _ w ⟨⟩
  exact (decode_wordT _ _ _ _ _ (by decide) (by decide) (by decide)).trans rfl
theorem Encoding.vfneg (c d a) : Encoding.Statement (.vfneg c d a) := by
  rintro _ w ⟨⟩
  exact (decode_wordT _ _ _ _ _ (by decide) (by decide) (by decide)).trans rfl
theorem Encoding.vfclass (c d a) : Encoding.Statement (.vfclass c d a) := by
  rintro _ w ⟨⟩
  exact (decode_wordT _ _ _ _ _ (by decide) (by decide) (by decide)).trans rfl
theorem Encoding.vfrnd (c d a) : Encoding.Statement (.vfrnd c d a) := by
  rintro _ w ⟨⟩
  exact (decode_wordT _ _ _ _ _ (by decide) (by decide) (by decide)).trans rfl
theorem Encoding.vcvt (c d a x s t) : Encoding.Statement (.vcvt c d a x s t) := by
  rintro _ w ⟨⟩
  refine (decode_wordT _ _ _ _ _ (by decide) (by decide) (by decide)).trans ?_
  simp [decodeVcvt, decodeVector, convert_byte x s t]
theorem Encoding.vqcvt (c d a l f) : Encoding.Statement (.vqcvt c d a l f) := by
  rintro _ w ⟨⟩
  refine (decode_wordT _ _ _ _ _ (by decide) (by decide) (by decide)).trans ?_
  simp [decodeVector, lane_byte l f]
theorem Encoding.vqexp (c d a l f) : Encoding.Statement (.vqexp c d a l f) := by
  rintro _ w ⟨⟩
  refine (decode_wordT _ _ _ _ _ (by decide) (by decide) (by decide)).trans ?_
  simp [decodeVector, lane_byte l f]
theorem Encoding.vrcp (c d a) : Encoding.Statement (.vrcp c d a) := by
  rintro _ w ⟨⟩
  exact (decode_wordT _ _ _ _ _ (by decide) (by decide) (by decide)).trans rfl
theorem Encoding.vrsq (c d a) : Encoding.Statement (.vrsq c d a) := by
  rintro _ w ⟨⟩
  exact (decode_wordT _ _ _ _ _ (by decide) (by decide) (by decide)).trans rfl
theorem Encoding.vsqrt (c d a) : Encoding.Statement (.vsqrt c d a) := by
  rintro _ w ⟨⟩
  exact (decode_wordT _ _ _ _ _ (by decide) (by decide) (by decide)).trans rfl
theorem Encoding.vexp2 (c d a) : Encoding.Statement (.vexp2 c d a) := by
  rintro _ w ⟨⟩
  exact (decode_wordT _ _ _ _ _ (by decide) (by decide) (by decide)).trans rfl
theorem Encoding.vlog2 (c d a) : Encoding.Statement (.vlog2 c d a) := by
  rintro _ w ⟨⟩
  exact (decode_wordT _ _ _ _ _ (by decide) (by decide) (by decide)).trans rfl
theorem Encoding.vsin (c d a) : Encoding.Statement (.vsin c d a) := by
  rintro _ w ⟨⟩
  exact (decode_wordT _ _ _ _ _ (by decide) (by decide) (by decide)).trans rfl
theorem Encoding.vcos (c d a) : Encoding.Statement (.vcos c d a) := by
  rintro _ w ⟨⟩
  exact (decode_wordT _ _ _ _ _ (by decide) (by decide) (by decide)).trans rfl
theorem Encoding.vtanh (c d a) : Encoding.Statement (.vtanh c d a) := by
  rintro _ w ⟨⟩
  exact (decode_wordT _ _ _ _ _ (by decide) (by decide) (by decide)).trans rfl
theorem Encoding.vshfl (c d a b) : Encoding.Statement (.vshfl c d a b) := by
  rintro _ w ⟨⟩
  exact (decode_wordT _ _ _ _ _ (by decide) (by decide) (by decide)).trans rfl
theorem Encoding.vrot (c d a b) : Encoding.Statement (.vrot c d a b) := by
  rintro _ w ⟨⟩
  exact (decode_wordT _ _ _ _ _ (by decide) (by decide) (by decide)).trans rfl
theorem Encoding.vredu (c d a f) : Encoding.Statement (.vredu c d a f) := by
  rintro _ w ⟨⟩
  exact (decode_wordT _ _ _ _ _ (by decide) (by decide) (by decide)).trans rfl
theorem Encoding.vtrans (c d a e) : Encoding.Statement (.vtrans c d a e) := by
  rintro hw w ⟨⟩
  have he : e ≠ 3#2 := by
    rintro rfl
    revert hw
    simp [Instr.wellFormed]
  refine (decode_wordT _ _ _ _ _ (by decide) (by decide) (by decide)).trans ?_
  show (if (0#6 ++ e) &&& 0xFC#8 = 0#8 ∧ (0#6 ++ e).extractLsb' 0 2 ≠ 3#2 then
    Except.ok (Instr.vtrans c d a ((0#6 ++ e).extractLsb' 0 2)) else Except.error Reject.illegalOpcode) = _
  simp [set_byte e, he]
theorem Encoding.vrand (c d) : Encoding.Statement (.vrand c d) := by
  rintro _ w ⟨⟩
  exact (decode_wordT _ _ _ _ _ (by decide) (by decide) (by decide)).trans rfl
theorem Encoding.vld (c d a o) : Encoding.Statement (.vld c d a o) := by
  rintro _ w ⟨⟩
  exact (decode_wordT _ _ _ _ _ (by decide) (by decide) (by decide)).trans rfl
theorem Encoding.vst (c d a o) : Encoding.Statement (.vst c d a o) := by
  rintro _ w ⟨⟩
  exact (decode_wordT _ _ _ _ _ (by decide) (by decide) (by decide)).trans rfl
theorem Encoding.vlds (c d a o) : Encoding.Statement (.vlds c d a o) := by
  rintro _ w ⟨⟩
  exact (decode_wordT _ _ _ _ _ (by decide) (by decide) (by decide)).trans rfl
theorem Encoding.vsts (c d a o) : Encoding.Statement (.vsts c d a o) := by
  rintro _ w ⟨⟩
  exact (decode_wordT _ _ _ _ _ (by decide) (by decide) (by decide)).trans rfl
theorem Encoding.vatom (c d a s r p) : Encoding.Statement (.vatom c d a s r p) := by
  rintro _ w ⟨⟩
  refine (decode_wordT _ _ _ _ _ (by decide) (by decide) (by decide)).trans ?_
  simp [decodeMemory, atomic_byte s r p]
theorem Encoding.vred (c d a s r p) : Encoding.Statement (.vred c d a s r p) := by
  rintro _ w ⟨⟩
  refine (decode_wordT _ _ _ _ _ (by decide) (by decide) (by decide)).trans ?_
  simp [decodeMemory, atomic_byte s r p]
theorem Encoding.vatoms (c d a s r p) : Encoding.Statement (.vatoms c d a s r p) := by
  rintro _ w ⟨⟩
  refine (decode_wordT _ _ _ _ _ (by decide) (by decide) (by decide)).trans ?_
  simp [decodeMemory, atomic_byte s r p]
theorem Encoding.vcas (c d a b) : Encoding.Statement (.vcas c d a b) := by
  rintro _ w ⟨⟩
  exact (decode_wordT _ _ _ _ _ (by decide) (by decide) (by decide)).trans rfl
theorem Encoding.vcass (c d a b) : Encoding.Statement (.vcass c d a b) := by
  rintro _ w ⟨⟩
  exact (decode_wordT _ _ _ _ _ (by decide) (by decide) (by decide)).trans rfl
theorem Encoding.vldfe (c d a o) : Encoding.Statement (.vldfe c d a o) := by
  rintro _ w ⟨⟩
  exact (decode_wordT _ _ _ _ _ (by decide) (by decide) (by decide)).trans rfl
theorem Encoding.vstef (c d a o) : Encoding.Statement (.vstef c d a o) := by
  rintro _ w ⟨⟩
  exact (decode_wordT _ _ _ _ _ (by decide) (by decide) (by decide)).trans rfl
theorem Encoding.vpref (c l a o) : Encoding.Statement (.vpref c l a o) := by
  rintro _ w ⟨⟩
  refine (decode_wordT _ _ _ _ _ (by decide) (by decide) (by decide)).trans ?_
  simp [decodeMemory, level_byte l]
theorem Encoding.vldpk (c d a o) : Encoding.Statement (.vldpk c d a o) := by
  rintro _ w ⟨⟩
  exact (decode_wordT _ _ _ _ _ (by decide) (by decide) (by decide)).trans rfl
theorem Encoding.vspfeEmpty (c a) : Encoding.Statement (.vspfeEmpty c a) := by
  rintro _ w ⟨⟩
  exact (decode_wordT _ _ _ _ _ (by decide) (by decide) (by decide)).trans rfl
theorem Encoding.vspfeFull (c a) : Encoding.Statement (.vspfeFull c a) := by
  rintro _ w ⟨⟩
  exact (decode_wordT _ _ _ _ _ (by decide) (by decide) (by decide)).trans rfl
theorem Encoding.vspfeGet (c d a) : Encoding.Statement (.vspfeGet c d a) := by
  rintro _ w ⟨⟩
  exact (decode_wordT _ _ _ _ _ (by decide) (by decide) (by decide)).trans rfl
theorem Encoding.mma (c t f a b) : Encoding.Statement (.mma c t f a b) := by
  rintro _ w ⟨⟩
  refine (decode_wordT _ _ _ _ _ (by decide) (by decide) (by decide)).trans ?_
  simp [decodeMatrixCopy, tile_fmt t f]
theorem Encoding.mzero (c t) : Encoding.Statement (.mzero c t) := by
  rintro _ w ⟨⟩
  refine (decode_wordT _ _ _ _ _ (by decide) (by decide) (by decide)).trans ?_
  simp [decodeMatrixCopy, tile_alone t]
theorem Encoding.mtov (c t k a) : Encoding.Statement (.mtov c t k a) := by
  rintro _ w ⟨⟩
  refine (decode_wordT _ _ _ _ _ (by decide) (by decide) (by decide)).trans ?_
  simp [decodeMatrixCopy, tile_block t k]
theorem Encoding.mfromv (c t k a) : Encoding.Statement (.mfromv c t k a) := by
  rintro _ w ⟨⟩
  refine (decode_wordT _ _ _ _ _ (by decide) (by decide) (by decide)).trans ?_
  simp [decodeMatrixCopy, tile_block t k]
theorem Encoding.mdrain (c t a x h) : Encoding.Statement (.mdrain c t a x h) := by
  rintro _ w ⟨⟩
  refine (decode_wordT _ _ _ _ _ (by decide) (by decide) (by decide)).trans ?_
  simp [decodeMatrixCopy, tile_alone t, drain_byte x h]
theorem Encoding.mrp (c t a) : Encoding.Statement (.mrp c t a) := by
  rintro _ w ⟨⟩
  refine (decode_wordT _ _ _ _ _ (by decide) (by decide) (by decide)).trans ?_
  simp [decodeMatrixCopy, tile_alone t]
theorem Encoding.cpyG2s (c h a) : Encoding.Statement (.cpyG2s c h a) := by
  rintro _ w ⟨⟩
  refine (decode_wordT _ _ _ _ _ (by decide) (by decide) (by decide)).trans ?_
  simp [decodeCpy, decodeMatrixCopy, handle_byte h]
theorem Encoding.cpyS2g (c h a) : Encoding.Statement (.cpyS2g c h a) := by
  rintro _ w ⟨⟩
  refine (decode_wordT _ _ _ _ _ (by decide) (by decide) (by decide)).trans ?_
  simp [decodeCpy, decodeMatrixCopy, handle_byte h]
theorem Encoding.cpyS2gAdd (c h a) : Encoding.Statement (.cpyS2gAdd c h a) := by
  rintro _ w ⟨⟩
  refine (decode_wordT _ _ _ _ _ (by decide) (by decide) (by decide)).trans ?_
  simp [decodeCpy, decodeMatrixCopy, handle_byte h]
theorem Encoding.cpyG2g (c h a) : Encoding.Statement (.cpyG2g c h a) := by
  rintro _ w ⟨⟩
  refine (decode_wordT _ _ _ _ _ (by decide) (by decide) (by decide)).trans ?_
  simp [decodeCpy, decodeMatrixCopy, handle_byte h]
theorem Encoding.cpyS2s (c h a) : Encoding.Statement (.cpyS2s c h a) := by
  rintro _ w ⟨⟩
  refine (decode_wordT _ _ _ _ _ (by decide) (by decide) (by decide)).trans ?_
  simp [decodeCpy, decodeMatrixCopy, handle_byte h]
theorem Encoding.cpyGate (c h a) : Encoding.Statement (.cpyGate c h a) := by
  rintro _ w ⟨⟩
  refine (decode_wordT _ _ _ _ _ (by decide) (by decide) (by decide)).trans ?_
  simp [decodeCpy, decodeMatrixCopy, handle_byte h]
theorem Encoding.ckick (c h a b) : Encoding.Statement (.ckick c h a b) := by
  rintro _ w ⟨⟩
  refine (decode_wordT _ _ _ _ _ (by decide) (by decide) (by decide)).trans ?_
  simp [decodeMatrixCopy, handle_byte h]
theorem Encoding.hwait (c d h) : Encoding.Statement (.hwait c d h) := by
  rintro _ w ⟨⟩
  refine (decode_wordT _ _ _ _ _ (by decide) (by decide) (by decide)).trans ?_
  simp [decodeHnd, decodeMatrixCopy, handle_byte h]
theorem Encoding.htest (c d h) : Encoding.Statement (.htest c d h) := by
  rintro _ w ⟨⟩
  refine (decode_wordT _ _ _ _ _ (by decide) (by decide) (by decide)).trans ?_
  simp [decodeHnd, decodeMatrixCopy, handle_byte h]
theorem Encoding.hcancel (c h) : Encoding.Statement (.hcancel c h) := by
  rintro _ w ⟨⟩
  refine (decode_wordT _ _ _ _ _ (by decide) (by decide) (by decide)).trans ?_
  simp [decodeHnd, decodeMatrixCopy, handle_byte h]
theorem Encoding.hmove (c g h) : Encoding.Statement (.hmove c g h) := by
  rintro _ w ⟨⟩
  refine (decode_wordT _ _ _ _ _ (by decide) (by decide) (by decide)).trans ?_
  simp [decodeHnd, decodeMatrixCopy, handle_byte h, handle_byte g]
theorem Encoding.hexport (c d h) : Encoding.Statement (.hexport c d h) := by
  rintro _ w ⟨⟩
  refine (decode_wordT _ _ _ _ _ (by decide) (by decide) (by decide)).trans ?_
  simp [decodeHnd, decodeMatrixCopy, handle_byte h]
theorem Encoding.himport (c g a) : Encoding.Statement (.himport c g a) := by
  rintro _ w ⟨⟩
  refine (decode_wordT _ _ _ _ _ (by decide) (by decide) (by decide)).trans ?_
  simp [decodeHnd, decodeMatrixCopy, handle_byte g]
theorem Encoding.bbinit (c d a) : Encoding.Statement (.bbinit c d a) := by
  rintro _ w ⟨⟩
  exact (decode_wordT _ _ _ _ _ (by decide) (by decide) (by decide)).trans rfl
theorem Encoding.bbexpect (c d a) : Encoding.Statement (.bbexpect c d a) := by
  rintro _ w ⟨⟩
  exact (decode_wordT _ _ _ _ _ (by decide) (by decide) (by decide)).trans rfl
theorem Encoding.bbarrive (c d a) : Encoding.Statement (.bbarrive c d a) := by
  rintro _ w ⟨⟩
  exact (decode_wordT _ _ _ _ _ (by decide) (by decide) (by decide)).trans rfl
theorem Encoding.bbwait (c d a) : Encoding.Statement (.bbwait c d a) := by
  rintro _ w ⟨⟩
  exact (decode_wordT _ _ _ _ _ (by decide) (by decide) (by decide)).trans rfl
theorem Encoding.bbtest (c d a) : Encoding.Statement (.bbtest c d a) := by
  rintro _ w ⟨⟩
  exact (decode_wordT _ _ _ _ _ (by decide) (by decide) (by decide)).trans rfl
theorem Encoding.br (c a k o) : Encoding.Statement (.br c a k o) := by
  rintro _ w ⟨⟩
  rw [wordI_eq, decode_wordT _ _ _ _ _ (by decide) (by decide) (by decide)]
  simp only [decodeControl, split16]
  have e1 : (k ++ o).extractLsb' 0 13 = o := by
    apply BitVec.eq_of_getLsbD_eq
    intro i hi
    simp only [BitVec.getLsbD_extractLsb', BitVec.getLsbD_append]
    grind
  have e2 : ((k ++ o).extractLsb' 8 8).extractLsb' 5 3 = k := by
    apply BitVec.eq_of_getLsbD_eq
    intro i hi
    simp only [BitVec.getLsbD_extractLsb', BitVec.getLsbD_append]
    grind
  simp [e1, e2]
theorem Encoding.jmp (c o) : Encoding.Statement (.jmp c o) := by
  rintro _ w ⟨⟩
  rw [wordJ_eq, decode_wordT _ _ _ _ _ (by decide) (by decide) (by decide), split24]
  rfl
theorem Encoding.call (c o) : Encoding.Statement (.call c o) := by
  rintro _ w ⟨⟩
  rw [wordJ_eq, decode_wordT _ _ _ _ _ (by decide) (by decide) (by decide), split24]
  rfl
theorem Encoding.loop (c d i) : Encoding.Statement (.loop c d i) := by
  rintro _ w ⟨⟩
  rw [wordI_eq, decode_wordT _ _ _ _ _ (by decide) (by decide) (by decide), split16]
  rfl
theorem Encoding.ret (c) : Encoding.Statement (.ret c) := by
  rintro _ w ⟨⟩
  exact (decode_wordT _ _ _ _ _ (by decide) (by decide) (by decide)).trans rfl
theorem Encoding.bri (c a) : Encoding.Statement (.bri c a) := by
  rintro _ w ⟨⟩
  exact (decode_wordT _ _ _ _ _ (by decide) (by decide) (by decide)).trans rfl
theorem Encoding.calli (c a) : Encoding.Statement (.calli c a) := by
  rintro _ w ⟨⟩
  exact (decode_wordT _ _ _ _ _ (by decide) (by decide) (by decide)).trans rfl
theorem Encoding.yield (c) : Encoding.Statement (.yield c) := by
  rintro _ w ⟨⟩
  exact (decode_wordT _ _ _ _ _ (by decide) (by decide) (by decide)).trans rfl
theorem Encoding.exit (c) : Encoding.Statement (.exit c) := by
  rintro _ w ⟨⟩
  exact (decode_wordT _ _ _ _ _ (by decide) (by decide) (by decide)).trans rfl
theorem Encoding.tret (c) : Encoding.Statement (.tret c) := by
  rintro _ w ⟨⟩
  exact (decode_wordT _ _ _ _ _ (by decide) (by decide) (by decide)).trans rfl
theorem Encoding.sdrain (c) : Encoding.Statement (.sdrain c) := by
  rintro _ w ⟨⟩
  exact (decode_wordT _ _ _ _ _ (by decide) (by decide) (by decide)).trans rfl
theorem Encoding.fence (c s k) : Encoding.Statement (.fence c s k) := by
  rintro _ w ⟨⟩
  refine (decode_wordT _ _ _ _ _ (by decide) (by decide) (by decide)).trans ?_
  simp [decodeCtrl, decodeControl, fence_byte s k]
theorem Encoding.trap (c d) : Encoding.Statement (.trap c d) := by
  rintro _ w ⟨⟩
  exact (decode_wordT _ _ _ _ _ (by decide) (by decide) (by decide)).trans rfl
theorem Encoding.mget (c d a) : Encoding.Statement (.mget c d a) := by
  rintro _ w ⟨⟩
  refine (decode_wordT _ _ _ _ _ (by decide) (by decide) (by decide)).trans ?_
  simp [decodeMask, decodeControl, mask_byte a]
theorem Encoding.mset (c d a) : Encoding.Statement (.mset c d a) := by
  rintro _ w ⟨⟩
  refine (decode_wordT _ _ _ _ _ (by decide) (by decide) (by decide)).trans ?_
  simp [decodeMask, decodeControl, mask_byte d]
theorem Encoding.mand (c d a) : Encoding.Statement (.mand c d a) := by
  rintro _ w ⟨⟩
  refine (decode_wordT _ _ _ _ _ (by decide) (by decide) (by decide)).trans ?_
  simp [decodeMask, decodeControl, mask_byte a, mask_byte d]
theorem Encoding.mandn (c d a) : Encoding.Statement (.mandn c d a) := by
  rintro _ w ⟨⟩
  refine (decode_wordT _ _ _ _ _ (by decide) (by decide) (by decide)).trans ?_
  simp [decodeMask, decodeControl, mask_byte a, mask_byte d]
theorem Encoding.mor (c d a) : Encoding.Statement (.mor c d a) := by
  rintro _ w ⟨⟩
  refine (decode_wordT _ _ _ _ _ (by decide) (by decide) (by decide)).trans ?_
  simp [decodeMask, decodeControl, mask_byte a, mask_byte d]
theorem Encoding.mxor (c d a) : Encoding.Statement (.mxor c d a) := by
  rintro _ w ⟨⟩
  refine (decode_wordT _ _ _ _ _ (by decide) (by decide) (by decide)).trans ?_
  simp [decodeMask, decodeControl, mask_byte a, mask_byte d]
theorem Encoding.mlive (c d) : Encoding.Statement (.mlive c d) := by
  rintro _ w ⟨⟩
  refine (decode_wordT _ _ _ _ _ (by decide) (by decide) (by decide)).trans ?_
  simp [decodeMask, decodeControl, mask_byte d]
theorem Encoding.mpopc (c d a) : Encoding.Statement (.mpopc c d a) := by
  rintro _ w ⟨⟩
  refine (decode_wordT _ _ _ _ _ (by decide) (by decide) (by decide)).trans ?_
  simp [decodeMask, decodeControl, mask_byte a]
theorem Encoding.mfirst (c d a) : Encoding.Statement (.mfirst c d a) := by
  rintro _ w ⟨⟩
  refine (decode_wordT _ _ _ _ _ (by decide) (by decide) (by decide)).trans ?_
  simp [decodeMask, decodeControl, mask_byte a]
theorem Encoding.mput (c d a) : Encoding.Statement (.mput c d a) := by
  rintro _ w ⟨⟩
  refine (decode_wordT _ _ _ _ _ (by decide) (by decide) (by decide)).trans ?_
  simp [decodeMask, decodeControl, mask_byte d]
theorem Encoding.mtake (c d a) : Encoding.Statement (.mtake c d a) := by
  rintro _ w ⟨⟩
  refine (decode_wordT _ _ _ _ _ (by decide) (by decide) (by decide)).trans ?_
  simp [decodeMask, decodeControl, mask_byte a]
theorem Encoding.bar (c s n) : Encoding.Statement (.bar c s n) := by
  rintro _ w ⟨⟩
  refine (decode_wordT _ _ _ _ _ (by decide) (by decide) (by decide)).trans ?_
  simp [decodeSync, decodeControl, barrier_byte s n]
theorem Encoding.bara (c s n a) : Encoding.Statement (.bara c s n a) := by
  rintro _ w ⟨⟩
  refine (decode_wordT _ _ _ _ _ (by decide) (by decide) (by decide)).trans ?_
  simp [decodeSync, decodeControl, barrier_byte s n]
theorem Encoding.barw (c s n a) : Encoding.Statement (.barw c s n a) := by
  rintro _ w ⟨⟩
  refine (decode_wordT _ _ _ _ _ (by decide) (by decide) (by decide)).trans ?_
  simp [decodeSync, decodeControl, barrier_byte s n]
theorem Encoding.bard (c s n) : Encoding.Statement (.bard c s n) := by
  rintro _ w ⟨⟩
  refine (decode_wordT _ _ _ _ _ (by decide) (by decide) (by decide)).trans ?_
  simp [decodeSync, decodeControl, barrier_byte s n]
theorem Encoding.barj (c s n a) : Encoding.Statement (.barj c s n a) := by
  rintro _ w ⟨⟩
  refine (decode_wordT _ _ _ _ _ (by decide) (by decide) (by decide)).trans ?_
  simp [decodeSync, decodeControl, barrier_byte s n]
theorem Encoding.spawn (c d a) : Encoding.Statement (.spawn c d a) := by
  rintro _ w ⟨⟩
  exact (decode_wordT _ _ _ _ _ (by decide) (by decide) (by decide)).trans rfl
theorem Encoding.qpush (c d a) : Encoding.Statement (.qpush c d a) := by
  rintro _ w ⟨⟩
  exact (decode_wordT _ _ _ _ _ (by decide) (by decide) (by decide)).trans rfl
theorem Encoding.qpop (c d a) : Encoding.Statement (.qpop c d a) := by
  rintro _ w ⟨⟩
  exact (decode_wordT _ _ _ _ _ (by decide) (by decide) (by decide)).trans rfl
theorem Encoding.qtrypush (c d a) : Encoding.Statement (.qtrypush c d a) := by
  rintro _ w ⟨⟩
  exact (decode_wordT _ _ _ _ _ (by decide) (by decide) (by decide)).trans rfl
theorem Encoding.qtrypop (c d a) : Encoding.Statement (.qtrypop c d a) := by
  rintro _ w ⟨⟩
  exact (decode_wordT _ _ _ _ _ (by decide) (by decide) (by decide)).trans rfl
theorem Encoding.tlsig (c d a) : Encoding.Statement (.tlsig c d a) := by
  rintro _ w ⟨⟩
  exact (decode_wordT _ _ _ _ _ (by decide) (by decide) (by decide)).trans rfl
theorem Encoding.tlwait (c d a) : Encoding.Statement (.tlwait c d a) := by
  rintro _ w ⟨⟩
  exact (decode_wordT _ _ _ _ _ (by decide) (by decide) (by decide)).trans rfl
theorem Encoding.tlread (c d a) : Encoding.Statement (.tlread c d a) := by
  rintro _ w ⟨⟩
  exact (decode_wordT _ _ _ _ _ (by decide) (by decide) (by decide)).trans rfl
theorem Encoding.coll (c h a) : Encoding.Statement (.coll c h a) := by
  rintro _ w ⟨⟩
  refine (decode_wordT _ _ _ _ _ (by decide) (by decide) (by decide)).trans ?_
  simp [decodeTask, decodeControl, handle_byte h]
theorem Encoding.asdef (c n a) : Encoding.Statement (.asdef c n a) := by
  rintro _ w ⟨⟩
  refine (decode_wordT _ _ _ _ _ (by decide) (by decide) (by decide)).trans ?_
  simp [decodeAset, decodeControl, set_byte n]
theorem Encoding.astouch (c d a) : Encoding.Statement (.astouch c d a) := by
  rintro _ w ⟨⟩
  exact (decode_wordT _ _ _ _ _ (by decide) (by decide) (by decide)).trans rfl
theorem Encoding.asage (c d) : Encoding.Statement (.asage c d) := by
  rintro _ w ⟨⟩
  exact (decode_wordT _ _ _ _ _ (by decide) (by decide) (by decide)).trans rfl
theorem Encoding.asq (c d a) : Encoding.Statement (.asq c d a) := by
  rintro _ w ⟨⟩
  exact (decode_wordT _ _ _ _ _ (by decide) (by decide) (by decide)).trans rfl
theorem Encoding.asretry (c a) : Encoding.Statement (.asretry c a) := by
  rintro _ w ⟨⟩
  exact (decode_wordT _ _ _ _ _ (by decide) (by decide) (by decide)).trans rfl
theorem Encoding.erd (c d a) : Encoding.Statement (.erd c d a) := by
  rintro _ w ⟨⟩
  exact (decode_wordT _ _ _ _ _ (by decide) (by decide) (by decide)).trans rfl
theorem Encoding.ebkt (c d a) : Encoding.Statement (.ebkt c d a) := by
  rintro _ w ⟨⟩
  exact (decode_wordT _ _ _ _ _ (by decide) (by decide) (by decide)).trans rfl
theorem Encoding.eop (c d a) : Encoding.Statement (.eop c d a) := by
  rintro _ w ⟨⟩
  exact (decode_wordT _ _ _ _ _ (by decide) (by decide) (by decide)).trans rfl
theorem Encoding.cntrd (c d a) : Encoding.Statement (.cntrd c d a) := by
  rintro _ w ⟨⟩
  exact (decode_wordT _ _ _ _ _ (by decide) (by decide) (by decide)).trans rfl
theorem Encoding.tstamp (c d) : Encoding.Statement (.tstamp c d) := by
  rintro _ w ⟨⟩
  exact (decode_wordT _ _ _ _ _ (by decide) (by decide) (by decide)).trans rfl
theorem Encoding.trd (c d a) : Encoding.Statement (.trd c d a) := by
  rintro _ w ⟨⟩
  exact (decode_wordT _ _ _ _ _ (by decide) (by decide) (by decide)).trans rfl
theorem Encoding.twr (c d a) : Encoding.Statement (.twr c d a) := by
  rintro _ w ⟨⟩
  exact (decode_wordT _ _ _ _ _ (by decide) (by decide) (by decide)).trans rfl
theorem Encoding.packetFetch (g) : Encoding.Statement (.packetFetch g) := by
  rintro _ w ⟨⟩
theorem Encoding.vWordCompletion (g) : Encoding.Statement (.vWordCompletion g) := by
  rintro _ w ⟨⟩
theorem Encoding.specialFunctionDelivery (g k) : Encoding.Statement (.specialFunctionDelivery g k) := by
  rintro _ w ⟨⟩
theorem Encoding.scratchpadResultDelivery (g k) : Encoding.Statement (.scratchpadResultDelivery g k) := by
  rintro _ w ⟨⟩
theorem Encoding.globalLoadCompletion (id) : Encoding.Statement (.globalLoadCompletion id) := by
  rintro _ w ⟨⟩
theorem Encoding.yieldWindowExpiry (g) : Encoding.Statement (.yieldWindowExpiry g) := by
  rintro _ w ⟨⟩
theorem Encoding.issueStarvationPromotion (g) : Encoding.Statement (.issueStarvationPromotion g) := by
  rintro _ w ⟨⟩
theorem Encoding.storeQueueTranslation (g) : Encoding.Statement (.storeQueueTranslation g) := by
  rintro _ w ⟨⟩
theorem Encoding.storeArrivesHome (core id) : Encoding.Statement (.storeArrivesHome core id) := by
  rintro _ w ⟨⟩
theorem Encoding.pageWalkStart (die) : Encoding.Statement (.pageWalkStart die) := by
  rintro _ w ⟨⟩
theorem Encoding.pageWalkComplete (die id) : Encoding.Statement (.pageWalkComplete die id) := by
  rintro _ w ⟨⟩
theorem Encoding.priResponse (die id granted hpa) : Encoding.Statement (.priResponse die id granted hpa) := by
  rintro _ w ⟨⟩
theorem Encoding.priTimeout (die id) : Encoding.Statement (.priTimeout die id) := by
  rintro _ w ⟨⟩
theorem Encoding.atsInvalidate (die ctx base len) : Encoding.Statement (.atsInvalidate die ctx base len) := by
  rintro _ w ⟨⟩
theorem Encoding.translationInvalidateCommand (ctx range) : Encoding.Statement (.translationInvalidateCommand ctx range) := by
  rintro _ w ⟨⟩
theorem Encoding.combiningEntryTimeout (core id) : Encoding.Statement (.combiningEntryTimeout core id) := by
  rintro _ w ⟨⟩
theorem Encoding.combiningFlushApplied (core id) : Encoding.Statement (.combiningFlushApplied core id) := by
  rintro _ w ⟨⟩
theorem Encoding.sharedCacheWriteback (line) : Encoding.Statement (.sharedCacheWriteback line) := by
  rintro _ w ⟨⟩
theorem Encoding.sharedCacheFlush (die) : Encoding.Statement (.sharedCacheFlush die) := by
  rintro _ w ⟨⟩
theorem Encoding.remoteMessage (core) : Encoding.Statement (.remoteMessage core) := by
  rintro _ w ⟨⟩
theorem Encoding.remoteReply (g k) : Encoding.Statement (.remoteReply g k) := by
  rintro _ w ⟨⟩
theorem Encoding.fullEmptyWake (g) : Encoding.Statement (.fullEmptyWake g) := by
  rintro _ w ⟨⟩
theorem Encoding.scratchpadReservation (core lg) : Encoding.Statement (.scratchpadReservation core lg) := by
  rintro _ w ⟨⟩
theorem Encoding.scratchpadBlockReturn (core off) : Encoding.Statement (.scratchpadBlockReturn core off) := by
  rintro _ w ⟨⟩
theorem Encoding.launchCommandCheck (ctx) : Encoding.Statement (.launchCommandCheck ctx) := by
  rintro _ w ⟨⟩
theorem Encoding.dispatchPlacement (part) : Encoding.Statement (.dispatchPlacement part) := by
  rintro _ w ⟨⟩
theorem Encoding.dispatchPassoverBlock (ctx item) : Encoding.Statement (.dispatchPassoverBlock ctx item) := by
  rintro _ w ⟨⟩
theorem Encoding.gangFieldsMessage (launch pkg gangId tick) : Encoding.Statement (.gangFieldsMessage launch pkg gangId tick) := by
  rintro _ w ⟨⟩
theorem Encoding.gangReady (launch pkg) : Encoding.Statement (.gangReady launch pkg) := by
  rintro _ w ⟨⟩
theorem Encoding.gangGoCheck (launch) : Encoding.Statement (.gangGoCheck launch) := by
  rintro _ w ⟨⟩
theorem Encoding.gangGo (launch) : Encoding.Statement (.gangGo launch) := by
  rintro _ w ⟨⟩
theorem Encoding.gangAbort (frame) : Encoding.Statement (.gangAbort frame) := by
  rintro _ w ⟨⟩
theorem Encoding.gangTick (launch) : Encoding.Statement (.gangTick launch) := by
  rintro _ w ⟨⟩
theorem Encoding.granuleRequest (slice) : Encoding.Statement (.granuleRequest slice) := by
  rintro _ w ⟨⟩
theorem Encoding.granuleGrant (g base glog) : Encoding.Statement (.granuleGrant g base glog) := by
  rintro _ w ⟨⟩
theorem Encoding.granuleRelease (slice) : Encoding.Statement (.granuleRelease slice) := by
  rintro _ w ⟨⟩
theorem Encoding.wound (stamp restart) : Encoding.Statement (.wound stamp restart) := by
  rintro _ w ⟨⟩
theorem Encoding.rollback (g) : Encoding.Statement (.rollback g) := by
  rintro _ w ⟨⟩
theorem Encoding.rollbackRestart (g) : Encoding.Statement (.rollbackRestart g) := by
  rintro _ w ⟨⟩
theorem Encoding.irrevocableTokenGrant : Encoding.Statement (.irrevocableTokenGrant) := by
  rintro _ w ⟨⟩
theorem Encoding.holdBufferDrainComplete (g) : Encoding.Statement (.holdBufferDrainComplete g) := by
  rintro _ w ⟨⟩
theorem Encoding.asretryDelayExpiry (g) : Encoding.Statement (.asretryDelayExpiry g) := by
  rintro _ w ⟨⟩
theorem Encoding.mmaStagingComplete (q id) : Encoding.Statement (.mmaStagingComplete q id) := by
  rintro _ w ⟨⟩
theorem Encoding.mmaStart (q) : Encoding.Statement (.mmaStart q) := by
  rintro _ w ⟨⟩
theorem Encoding.mmaRowCommit (q) : Encoding.Statement (.mmaRowCommit q) := by
  rintro _ w ⟨⟩
theorem Encoding.mmaComplete (q) : Encoding.Statement (.mmaComplete q) := by
  rintro _ w ⟨⟩
theorem Encoding.mmaSuspension (q) : Encoding.Statement (.mmaSuspension q) := by
  rintro _ w ⟨⟩
theorem Encoding.tilePortComplete (q tile) : Encoding.Statement (.tilePortComplete q tile) := by
  rintro _ w ⟨⟩
theorem Encoding.governorStepBoundary (die) : Encoding.Statement (.governorStepBoundary die) := by
  rintro _ w ⟨⟩
theorem Encoding.copyRequestStart (core id) : Encoding.Statement (.copyRequestStart core id) := by
  rintro _ w ⟨⟩
theorem Encoding.ckickEntryFetch (core id) : Encoding.Statement (.ckickEntryFetch core id) := by
  rintro _ w ⟨⟩
theorem Encoding.copyChunkComplete (core id) : Encoding.Statement (.copyChunkComplete core id) := by
  rintro _ w ⟨⟩
theorem Encoding.copyRequestComplete (core id) : Encoding.Statement (.copyRequestComplete core id) := by
  rintro _ w ⟨⟩
theorem Encoding.copyFailure (core id) : Encoding.Statement (.copyFailure core id) := by
  rintro _ w ⟨⟩
theorem Encoding.copyCancelEffect (core id) : Encoding.Statement (.copyCancelEffect core id) := by
  rintro _ w ⟨⟩
theorem Encoding.byteBarrierWake (g) : Encoding.Statement (.byteBarrierWake g) := by
  rintro _ w ⟨⟩
theorem Encoding.barrierStep (inst g op) : Encoding.Statement (.barrierStep inst g op) := by
  rintro _ w ⟨⟩
theorem Encoding.barrierWake (g) : Encoding.Statement (.barrierWake g) := by
  rintro _ w ⟨⟩
theorem Encoding.queueHomeStep (g) : Encoding.Statement (.queueHomeStep g) := by
  rintro _ w ⟨⟩
theorem Encoding.queueEntryWritten (id) : Encoding.Statement (.queueEntryWritten id) := by
  rintro _ w ⟨⟩
theorem Encoding.queueEntryRead (id) : Encoding.Statement (.queueEntryRead id) := by
  rintro _ w ⟨⟩
theorem Encoding.queueWaiterServe (hdr pop) : Encoding.Statement (.queueWaiterServe hdr pop) := by
  rintro _ w ⟨⟩
theorem Encoding.timelineWake (g) : Encoding.Statement (.timelineWake g) := by
  rintro _ w ⟨⟩
theorem Encoding.taskWordHomeReply (g) : Encoding.Statement (.taskWordHomeReply g) := by
  rintro _ w ⟨⟩
theorem Encoding.collectiveComplete (id contribs) : Encoding.Statement (.collectiveComplete id contribs) := by
  rintro _ w ⟨⟩
theorem Encoding.collectiveTimeout (id missing) : Encoding.Statement (.collectiveTimeout id missing) := by
  rintro _ w ⟨⟩
theorem Encoding.drawServed : Encoding.Statement (.drawServed) := by
  rintro _ w ⟨⟩
theorem Encoding.holdLimitExpiry (g) : Encoding.Statement (.holdLimitExpiry g) := by
  rintro _ w ⟨⟩
theorem Encoding.residentIdleCharge (g) : Encoding.Statement (.residentIdleCharge g) := by
  rintro _ w ⟨⟩
theorem Encoding.refillTick (measured) : Encoding.Statement (.refillTick measured) := by
  rintro _ w ⟨⟩
theorem Encoding.reckoningWindowClose (measured) : Encoding.Statement (.reckoningWindowClose measured) := by
  rintro _ w ⟨⟩
theorem Encoding.meterRecordSecond : Encoding.Statement (.meterRecordSecond) := by
  rintro _ w ⟨⟩
theorem Encoding.meterBatchWrite : Encoding.Statement (.meterBatchWrite) := by
  rintro _ w ⟨⟩
theorem Encoding.opChangeClockRestart (part) : Encoding.Statement (.opChangeClockRestart part) := by
  rintro _ w ⟨⟩
theorem Encoding.wyariRound (demand floor) : Encoding.Statement (.wyariRound demand floor) := by
  rintro _ w ⟨⟩
theorem Encoding.demand (round pkg demand floor) : Encoding.Statement (.demand round pkg demand floor) := by
  rintro _ w ⟨⟩
theorem Encoding.grant (round pkg cap podcap) : Encoding.Statement (.grant round pkg cap podcap) := by
  rintro _ w ⟨⟩
theorem Encoding.firmwareSetAllowance (part op maxop) : Encoding.Statement (.firmwareSetAllowance part op maxop) := by
  rintro _ w ⟨⟩
theorem Encoding.energyBlockWrite (ctx w) : Encoding.Statement (.energyBlockWrite ctx w) := by
  rintro _ w ⟨⟩
theorem Encoding.partitionSwitch (part out inc) : Encoding.Statement (.partitionSwitch part out inc) := by
  rintro _ w ⟨⟩
theorem Encoding.partitionHaltComplete (ctx) : Encoding.Statement (.partitionHaltComplete ctx) := by
  rintro _ w ⟨⟩
theorem Encoding.spillComplete (id) : Encoding.Statement (.spillComplete id) := by
  rintro _ w ⟨⟩
theorem Encoding.refillComplete (g) : Encoding.Statement (.refillComplete g) := by
  rintro _ w ⟨⟩
theorem Encoding.watchdogIdleFire (ctx) : Encoding.Statement (.watchdogIdleFire ctx) := by
  rintro _ w ⟨⟩
theorem Encoding.watchdogRunFire (launch) : Encoding.Statement (.watchdogRunFire launch) := by
  rintro _ w ⟨⟩
theorem Encoding.trapEntry (g) : Encoding.Statement (.trapEntry g) := by
  rintro _ w ⟨⟩
theorem Encoding.definePartition (d) : Encoding.Statement (.definePartition d) := by
  rintro _ w ⟨⟩
theorem Encoding.createContext (d) : Encoding.Statement (.createContext d) := by
  rintro _ w ⟨⟩
theorem Encoding.destroyContext (ctx) : Encoding.Statement (.destroyContext ctx) := by
  rintro _ w ⟨⟩
theorem Encoding.lock (i shadow) : Encoding.Statement (.lock i shadow) := by
  rintro _ w ⟨⟩
theorem Encoding.start (i) : Encoding.Statement (.start i) := by
  rintro _ w ⟨⟩
theorem Encoding.stop (i) : Encoding.Statement (.stop i) := by
  rintro _ w ⟨⟩
theorem Encoding.doorbell (i n) : Encoding.Statement (.doorbell i n) := by
  rintro _ w ⟨⟩
theorem Encoding.queueInterfaceFetch (i) : Encoding.Statement (.queueInterfaceFetch i) := by
  rintro _ w ⟨⟩
theorem Encoding.errorLogEntryWrite (log) : Encoding.Statement (.errorLogEntryWrite log) := by
  rintro _ w ⟨⟩
theorem Encoding.queueControlBlockWrite (i f v) : Encoding.Statement (.queueControlBlockWrite i f v) := by
  rintro _ w ⟨⟩
theorem Encoding.flr (fn) : Encoding.Statement (.flr fn) := by
  rintro _ w ⟨⟩
theorem Encoding.flrDrainTimeout (fn) : Encoding.Statement (.flrDrainTimeout fn) := by
  rintro _ w ⟨⟩
theorem Encoding.hostKill (ctx) : Encoding.Statement (.hostKill ctx) := by
  rintro _ w ⟨⟩
theorem Encoding.uncorrectableRead (u) : Encoding.Statement (.uncorrectableRead u) := by
  rintro _ w ⟨⟩
theorem Encoding.eccRetryResult (ok) : Encoding.Statement (.eccRetryResult ok) := by
  rintro _ w ⟨⟩
theorem Encoding.correctedErrorReport : Encoding.Statement (.correctedErrorReport) := by
  rintro _ w ⟨⟩
theorem Encoding.keySlotWrite (stack slot key) : Encoding.Statement (.keySlotWrite stack slot key) := by
  rintro _ w ⟨⟩
theorem Encoding.linkKeyProgram (die key) : Encoding.Statement (.linkKeyProgram die key) := by
  rintro _ w ⟨⟩
theorem Encoding.linkRekeyInterrupt (way) : Encoding.Statement (.linkRekeyInterrupt way) := by
  rintro _ w ⟨⟩
theorem Encoding.linkCounterExhausted (way) : Encoding.Statement (.linkCounterExhausted way) := by
  rintro _ w ⟨⟩
theorem Encoding.linkKeyTimeout (die) : Encoding.Statement (.linkKeyTimeout die) := by
  rintro _ w ⟨⟩
theorem Encoding.gateEntryWrite (gate v) : Encoding.Statement (.gateEntryWrite gate v) := by
  rintro _ w ⟨⟩
theorem Encoding.reclaim (ctx page) : Encoding.Statement (.reclaim ctx page) := by
  rintro _ w ⟨⟩
theorem Encoding.accept (ctx page) : Encoding.Statement (.accept ctx page) := by
  rintro _ w ⟨⟩
theorem Encoding.force (ctx page) : Encoding.Statement (.force ctx page) := by
  rintro _ w ⟨⟩
theorem Encoding.getVersion (fn) : Encoding.Statement (.getVersion fn) := by
  rintro _ w ⟨⟩
theorem Encoding.getCapabilities (fn) : Encoding.Statement (.getCapabilities fn) := by
  rintro _ w ⟨⟩
theorem Encoding.negotiateAlgorithms (fn) : Encoding.Statement (.negotiateAlgorithms fn) := by
  rintro _ w ⟨⟩
theorem Encoding.getDigests (fn) : Encoding.Statement (.getDigests fn) := by
  rintro _ w ⟨⟩
theorem Encoding.getCertificate (fn) : Encoding.Statement (.getCertificate fn) := by
  rintro _ w ⟨⟩
theorem Encoding.challenge (fn nonce) : Encoding.Statement (.challenge fn nonce) := by
  rintro _ w ⟨⟩
theorem Encoding.getMeasurements (fn index) : Encoding.Statement (.getMeasurements fn index) := by
  rintro _ w ⟨⟩
theorem Encoding.pluginFault (tenant) : Encoding.Statement (.pluginFault tenant) := by
  rintro _ w ⟨⟩
theorem Encoding.schedulerFault (die) : Encoding.Statement (.schedulerFault die) := by
  rintro _ w ⟨⟩
theorem Encoding.hostAccess (t) : Encoding.Statement (.hostAccess t) := by
  rintro _ w ⟨⟩
theorem Encoding.dieBoundaryRetry (b failed) : Encoding.Statement (.dieBoundaryRetry b failed) := by
  rintro _ w ⟨⟩
theorem Encoding.packageLost (pkg) : Encoding.Statement (.packageLost pkg) := by
  rintro _ w ⟨⟩
theorem Encoding.hbmPowerDown (die) : Encoding.Statement (.hbmPowerDown die) := by
  rintro _ w ⟨⟩
theorem Encoding.openCounterSession (d) : Encoding.Statement (.openCounterSession d) := by
  rintro _ w ⟨⟩
theorem Encoding.closeCounterSession (id) : Encoding.Statement (.closeCounterSession id) := by
  rintro _ w ⟨⟩
theorem Encoding.readcnt (id) : Encoding.Statement (.readcnt id) := by
  rintro _ w ⟨⟩
theorem Encoding.counterWrap (id entry) : Encoding.Statement (.counterWrap id entry) := by
  rintro _ w ⟨⟩
theorem Encoding.freeze : Encoding.Statement (.freeze) := by
  rintro _ w ⟨⟩
theorem Encoding.unlock (token nonce) : Encoding.Statement (.unlock token nonce) := by
  rintro _ w ⟨⟩
theorem Encoding.scanCommand (cmd) : Encoding.Statement (.scanCommand cmd) := by
  rintro _ w ⟨⟩
theorem Encoding.coldReset : Encoding.Statement (.coldReset) := by
  rintro _ w ⟨⟩
theorem Encoding.powerOn (b) : Encoding.Statement (.powerOn b) := by
  rintro _ w ⟨⟩
theorem Encoding.thermalThrottle (parts) : Encoding.Statement (.thermalThrottle parts) := by
  rintro _ w ⟨⟩
theorem Encoding.thermalTrip : Encoding.Statement (.thermalTrip) := by
  rintro _ w ⟨⟩
theorem Encoding.atsTranslationCompletion (die id present hpa) : Encoding.Statement (.atsTranslationCompletion die id present hpa) := by
  rintro _ w ⟨⟩
theorem Encoding.contextMigration (ctx savedTime elapsed) : Encoding.Statement (.contextMigration ctx savedTime elapsed) := by
  rintro _ w ⟨⟩
theorem Encoding.podPortDown (port) : Encoding.Statement (.podPortDown port) := by
  rintro _ w ⟨⟩
theorem Encoding.podPortUp (port) : Encoding.Statement (.podPortUp port) := by
  rintro _ w ⟨⟩
theorem Encoding.powerOff : Encoding.Statement (.powerOff) := by
  rintro _ w ⟨⟩

end Sys2Proof.Laws
end

