-- ==== Sys2Proof/Tests/Slice0.lean ====
section
/-!
SUPPORT. Checks of the model: ill-formed terms that WellFormed refuses, decoding of words built from the table, single
instructions on small states with results from the manual's examples and tables, and for each statement states and
operands that meet its hypotheses.
-/

namespace Sys2Proof.Tests

open Sys2Proof Sys2Proof.Machine Sys2Proof.Claims

set_option Elab.async false
set_option maxRecDepth 10000
set_option exponentiation.threshold 1100

/-! ### Small states -/

/-- One strand in slot 0, changed by a function, in the issue context of its group; nothing else in the package. -/
def own (f : Strand → Strand := id) : State := ((State.reset.withFetchWord 32 0).modStrand 0 f).openGroup 0 []

/-- With values in uniform registers. -/
def ownU (l : List (Nat × Word)) : State := own (fun t => { t with uregs := l.foldl (fun (m : Words) x => m.set x.1 x.2) t.uregs })

/-- With values of v1 in slots, and the given slots active. -/
def ownV (em : Word) (l : List (Nat × Word)) : State :=
  own (fun t => l.foldl (fun (t : Strand) x => t.putV 1 x.1 x.2) { t with masks := t.masks.set 0 em })

/-- The translation of the first gigabyte stands in the core's TLB. -/
def warm (s : State) : State :=
  s.modCore 0 (fun c => { c with tlb := [{ ctx := 0, base := 0, lg := 30, pa := 0, typ := 0, r := true, w := true, x := true, key := 1,
                                           other := false }] })

/-- Under a UPFX with a width code. -/
def wide (w : BitVec 2) (s : State) : State := { s with iss := { s.iss with up := some { UPfx.zero with w := w } } }

/-- Under a VPFX. -/
def under (p : VPfx) (s : State) : State := { s with iss := { s.iss with vp := some p } }

/-- The state after an instruction. -/
def after (i : Instr) (s : State) : State := match exec i s with | .next t => t | _ => s

/-- A uniform register after an instruction. -/
def uAfter (i : Instr) (s : State) (n : Nat) : Word := (after i s).me.uregs.get n

/-- The state after a step. -/
def stepped (s : State) : State := match step s with | .next t => t | _ => s

/-! ### Ill-formed terms, one for each check of WellFormed -/

theorem test_illformed_words :
    [(.vcmpI false 6 0 0 0 : Instr), .vcmpN false 7 0 0 0, .vcvt false 0 0 0 2 2, .vcvt false 0 0 0 5 0, .vcvt false 0 0 0 0 5,
     .vredu false 0 0 0x0B, .vtrans false 0 0 3, .vatom false 0 0 7 0 0, .vatoms false 0 0 0 0 0xC, .vred false 0 0 0 0 8,
     .vred false 0 0 7 0 0, .mma false 0 7 0 0, .mma false 0 0 2 0, .mma false 0 0 0 6, .mtov false 0 0 8, .mfromv false 0 0 128,
     .mdrain false 0 4 0 0, .cpyG2s false 0 1, .cpyGate false 0 12, .br false 3 0 0, .br false 1 5 0, .bri false 1, .calli false 3,
     .fence false 7 1, .fence false 0 0, .bar false 0 0, .bara false 6 0 0, .barj false 7 0 0,
     .returnStackRegisterWrite 0x0D 0, .rngkeyWrite 0x0C 0].all (fun i => !i.wellFormed) = true := by decide

theorem test_illformed_events :
    [(.packetFetch 4194304 : Instr), .trapEntry 4194304, .specialFunctionDelivery 0 32, .remoteReply 4194304 0, .pageWalkStart 16,
     .atsInvalidate 16 0 0 0, .storeArrivesHome 512 0, .scratchpadReservation 512 10, .mmaStart 2048, .tilePortComplete 2048 0,
     .granuleRequest 256, .dispatchPlacement 64, .firmwareSetAllowance 64 none none,
     .definePartition { part := 64, quads := [0], op := 0, maxop := 0, holdLimit := none },
     .definePartition { part := 0, quads := [128], op := 0, maxop := 0, holdLimit := none },
     .definePartition { part := 0, quads := [0], op := 8, maxop := 0, holdLimit := none },
     .launchCommandCheck 4096, .hostKill 4096, .lock 4096 0, .doorbell 4096 0, .keySlotWrite 16 0 none, .keySlotWrite 0 1024 none,
     .gangReady 0 1024, .packageLost 1024, .podPortDown 16, .dieBoundaryRetry 22 false,
     .hostAccess { firmware := false, write := true, addr := 0, data := [1], len := 2 }].all (fun i => !i.wellFormed) = true := by
  decide

/-! ### Decoding (R28, R35 to R53)

Each word is the match of its row of the opcode table with every field at a value of its own. -/

theorem test_decode_uniform :
    decode 0x00000000#32 = .ok (.unop)
    ∧ decode 0x818EF65E#32 = .ok (.uadd true 142 246 94)
    ∧ decode 0x82C035AA#32 = .ok (.usub true 192 53 170)
    ∧ decode 0x83F274F6#32 = .ok (.umul true 242 116 246)
    ∧ decode 0x8424B342#32 = .ok (.umulhI true 36 179 66)
    ∧ decode 0x8556F28E#32 = .ok (.umulhN true 86 242 142)
    ∧ decode 0x868831DA#32 = .ok (.uand true 136 49 218)
    ∧ decode 0x87BA7026#32 = .ok (.uor true 186 112 38)
    ∧ decode 0x88ECAF72#32 = .ok (.uxor true 236 175 114)
    ∧ decode 0x891EEEBE#32 = .ok (.uandn true 30 238 190)
    ∧ decode 0x8A502D0A#32 = .ok (.ushl true 80 45 10)
    ∧ decode 0x8B826C56#32 = .ok (.ushr true 130 108 86)
    ∧ decode 0x8CB4ABA2#32 = .ok (.usar true 180 171 162)
    ∧ decode 0x8DE6EAEE#32 = .ok (.uminI true 230 234 238)
    ∧ decode 0x8E18293A#32 = .ok (.uminN true 24 41 58)
    ∧ decode 0x8F4A6886#32 = .ok (.umaxI true 74 104 134)
    ∧ decode 0x907CA7D2#32 = .ok (.umaxN true 124 167 210)
    ∧ decode 0x91AEE61E#32 = .ok (.usltI true 174 230 30)
    ∧ decode 0x92E0256A#32 = .ok (.usltN true 224 37 106)
    ∧ decode 0x931264B6#32 = .ok (.useq true 18 100 182)
    ∧ decode 0x944405A3#32 = .ok (.uaddi true 68 1443)
    ∧ decode 0x957605E2#32 = .ok (.umovi true 118 1506)
    ∧ decode 0x96A80621#32 = .ok (.ului true 168 1569)
    ∧ decode 0x97DA6000#32 = .ok (.uclz true 218 96)
    ∧ decode 0x970C9F01#32 = .ok (.upopc true 12 159)
    ∧ decode 0x973EDE02#32 = .ok (.ubrev true 62 222)
    ∧ decode 0x97701D03#32 = .ok (.usext8 true 112 29)
    ∧ decode 0x97A25C04#32 = .ok (.usext16 true 162 92)
    ∧ decode 0x97D49B05#32 = .ok (.uneg true 212 155)
    ∧ decode 0x9706DA06#32 = .ok (.uabs true 6 218)
    ∧ decode 0x983819FA#32 = .ok (.ubfe true 56 25 250)
    ∧ decode 0x996A5846#32 = .ok (.ubfi true 106 88 70)
    ∧ decode 0x9A9C9792#32 = .ok (.ufadd true 156 151 146)
    ∧ decode 0x9BCED6DE#32 = .ok (.ufmul true 206 214 222)
    ∧ decode 0x9C01152A#32 = .ok (.ufslt true 1 21 42)
    ∧ decode 0x9D325476#32 = .ok (.uld true 50 84 118)
    ∧ decode 0x9E6493C2#32 = .ok (.ust true 100 147 194)
    ∧ decode 0x9F96D200#32 = .ok (.usr true 150 210)
    ∧ decode 0x9FC81101#32 = .ok (.usw true 200 17) := by
  and_intros <;> rfl

theorem test_decode_vector_integer :
    decode 0xA0F48B22#32 = .ok (.vadd true 244 139 34)
    ∧ decode 0xA126CA6E#32 = .ok (.vsub true 38 202 110)
    ∧ decode 0xA25809BA#32 = .ok (.vmul true 88 9 186)
    ∧ decode 0xA38A4806#32 = .ok (.vmulhI true 138 72 6)
    ∧ decode 0xA4BC8752#32 = .ok (.vmulhN true 188 135 82)
    ∧ decode 0xA5EEC69E#32 = .ok (.vmad true 238 198 158)
    ∧ decode 0xA62005EA#32 = .ok (.vand true 32 5 234)
    ∧ decode 0xA7524436#32 = .ok (.vor true 82 68 54)
    ∧ decode 0xA8848382#32 = .ok (.vxor true 132 131 130)
    ∧ decode 0xA9B6C2CE#32 = .ok (.vandn true 182 194 206)
    ∧ decode 0xAAE8011A#32 = .ok (.vshl true 232 1 26)
    ∧ decode 0xAB1A4066#32 = .ok (.vshr true 26 64 102)
    ∧ decode 0xAC4C7FB2#32 = .ok (.vsar true 76 127 178)
    ∧ decode 0xAD7EBEFE#32 = .ok (.vminI true 126 190 254)
    ∧ decode 0xAEB0FD4A#32 = .ok (.vminN true 176 253 74)
    ∧ decode 0xAFE23C96#32 = .ok (.vmaxI true 226 60 150)
    ∧ decode 0xB0147BE2#32 = .ok (.vmaxN true 20 123 226)
    ∧ decode 0xB146BA2E#32 = .ok (.vbfe true 70 186 46)
    ∧ decode 0xB278F97A#32 = .ok (.vbfi true 120 249 122)
    ∧ decode 0xB3AA38C6#32 = .ok (.vsel true 170 56 198)
    ∧ decode 0xB44712AD#32 = .ok (.vcmpI true 4 7 18 173)
    ∧ decode 0xB5665E06#32 = .ok (.vcmpN true 6 6 94 6)
    ∧ decode 0xB615AA5F#32 = .ok (.vfcmpF32 true 1 5 170 95)
    ∧ decode 0xB7723400#32 = .ok (.vclz true 114 52)
    ∧ decode 0xB7A47301#32 = .ok (.vpopc true 164 115)
    ∧ decode 0xB7D6B202#32 = .ok (.vbrev true 214 178)
    ∧ decode 0xB708F103#32 = .ok (.vsext8 true 8 241)
    ∧ decode 0xB73A3004#32 = .ok (.vsext16 true 58 48)
    ∧ decode 0xB76C6F05#32 = .ok (.vneg true 108 111)
    ∧ decode 0xB79EAE06#32 = .ok (.vabs true 158 174)
    ∧ decode 0xB7D0ED07#32 = .ok (.vmov true 208 237) := by
  and_intros <;> rfl

theorem test_decode_vector_float :
    decode 0xB8022C56#32 = .ok (.vfaddF32 true 2 44 86)
    ∧ decode 0xB9346BA2#32 = .ok (.vfsubF32 true 52 107 162)
    ∧ decode 0xBA66AAEE#32 = .ok (.vfmulF32 true 102 170 238)
    ∧ decode 0xBB98E93A#32 = .ok (.vfmaF32 true 152 233 58)
    ∧ decode 0xBCCA2886#32 = .ok (.vfminF32 true 202 40 134)
    ∧ decode 0xBDFC67D2#32 = .ok (.vfmaxF32 true 252 103 210)
    ∧ decode 0xBE2EA61E#32 = .ok (.vfaddF16x2 true 46 166 30)
    ∧ decode 0xBF60E56A#32 = .ok (.vfmulF16x2 true 96 229 106)
    ∧ decode 0xC09224B6#32 = .ok (.vfmaF16x2 true 146 36 182)
    ∧ decode 0xC1C46302#32 = .ok (.vfaddBf16x2 true 196 99 2)
    ∧ decode 0xC2F6A24E#32 = .ok (.vfmulBf16x2 true 246 162 78)
    ∧ decode 0xC328E19A#32 = .ok (.vfmaBf16x2 true 40 225 154)
    ∧ decode 0xC45A20E6#32 = .ok (.vdot2F16 true 90 32 230)
    ∧ decode 0xC58C5F32#32 = .ok (.vdot2Bf16 true 140 95 50)
    ∧ decode 0xC6BE9E00#32 = .ok (.vfabs true 190 158)
    ∧ decode 0xC6F0DD01#32 = .ok (.vfneg true 240 221)
    ∧ decode 0xC6221C02#32 = .ok (.vfclass true 34 28)
    ∧ decode 0xC6545B03#32 = .ok (.vfrnd true 84 91)
    ∧ decode 0xC7869A56#32 = .ok (.vcvt true 134 154 1 2 6)
    ∧ decode 0xC8B8D913#32 = .ok (.vqcvt true 184 217 2 3)
    ∧ decode 0xC9EA1834#32 = .ok (.vqexp true 234 24 6 4)
    ∧ decode 0xCA1C5700#32 = .ok (.vrcp true 28 87)
    ∧ decode 0xCA4E9601#32 = .ok (.vrsq true 78 150)
    ∧ decode 0xCA80D502#32 = .ok (.vsqrt true 128 213)
    ∧ decode 0xCAB21403#32 = .ok (.vexp2 true 178 20)
    ∧ decode 0xCAE45304#32 = .ok (.vlog2 true 228 83)
    ∧ decode 0xCA169205#32 = .ok (.vsin true 22 146)
    ∧ decode 0xCA48D106#32 = .ok (.vcos true 72 209)
    ∧ decode 0xCA7A1007#32 = .ok (.vtanh true 122 16)
    ∧ decode 0xCBAC4FF2#32 = .ok (.vshfl true 172 79 242)
    ∧ decode 0xCCDE8E3E#32 = .ok (.vrot true 222 142 62)
    ∧ decode 0xCD10CD8A#32 = .ok (.vredu true 16 205 138)
    ∧ decode 0xCE420C02#32 = .ok (.vtrans true 66 12 2)
    ∧ decode 0xCF740000#32 = .ok (.vrand true 116) := by
  and_intros <;> rfl

theorem test_decode_vector_memory :
    decode 0xD0A68A6E#32 = .ok (.vld true 166 138 110)
    ∧ decode 0xD1D8C9BA#32 = .ok (.vst true 216 201 186)
    ∧ decode 0xD20A0806#32 = .ok (.vlds true 10 8 6)
    ∧ decode 0xD33C4752#32 = .ok (.vsts true 60 71 82)
    ∧ decode 0xD46E86DE#32 = .ok (.vatom true 110 134 6 1 14)
    ∧ decode 0xD5A0C554#32 = .ok (.vred true 160 197 2 1 4)
    ∧ decode 0xD6D204DA#32 = .ok (.vatoms true 210 4 6 1 10)
    ∧ decode 0xD7044382#32 = .ok (.vcas true 4 67 130)
    ∧ decode 0xD83682CE#32 = .ok (.vcass true 54 130 206)
    ∧ decode 0xD968C11A#32 = .ok (.vldfe true 104 193 26)
    ∧ decode 0xDA9A0166#32 = .ok (.vstef true 154 1 102)
    ∧ decode 0xDB013FB2#32 = .ok (.vpref true 1 63 178)
    ∧ decode 0xDCFE7EFE#32 = .ok (.vldpk true 254 126 254)
    ∧ decode 0xDD003000#32 = .ok (.vspfeEmpty true 48)
    ∧ decode 0xDD006201#32 = .ok (.vspfeFull true 98)
    ∧ decode 0xDD943B02#32 = .ok (.vspfeGet true 148 59) := by
  and_intros <;> rfl

theorem test_decode_matrix :
    decode 0xE0BA2EE2#32 = .ok (.mma true 2 58 46 226)
    ∧ decode 0xE1400000#32 = .ok (.mzero true 1)
    ∧ decode 0xE281C600#32 = .ok (.mtov true 2 1 198)
    ∧ decode 0xE3471200#32 = .ok (.mfromv true 1 7 18)
    ∧ decode 0xE4807616#32 = .ok (.mdrain true 2 118 1 6)
    ∧ decode 0xE540B500#32 = .ok (.mrp true 1 181) := by
  and_intros <;> rfl

theorem test_decode_copy :
    decode 0xE802F400#32 = .ok (.cpyG2s true 2 244)
    ∧ decode 0xE8043301#32 = .ok (.cpyS2g true 4 51)
    ∧ decode 0xE8067202#32 = .ok (.cpyS2gAdd true 6 114)
    ∧ decode 0xE808B103#32 = .ok (.cpyG2g true 8 177)
    ∧ decode 0xE80AF004#32 = .ok (.cpyS2s true 10 240)
    ∧ decode 0xE80C2F05#32 = .ok (.cpyGate true 12 47)
    ∧ decode 0xE90E6EBE#32 = .ok (.ckick true 14 110 190)
    ∧ decode 0xEA500D00#32 = .ok (.hwait true 80 13)
    ∧ decode 0xEA820C01#32 = .ok (.htest true 130 12)
    ∧ decode 0xEA000402#32 = .ok (.hcancel true 4)
    ∧ decode 0xEA060A03#32 = .ok (.hmove true 6 10)
    ∧ decode 0xEA180904#32 = .ok (.hexport true 24 9)
    ∧ decode 0xEA0AE805#32 = .ok (.himport true 10 232)
    ∧ decode 0xEB7C2700#32 = .ok (.bbinit true 124 39)
    ∧ decode 0xEBAE6601#32 = .ok (.bbexpect true 174 102)
    ∧ decode 0xEBE0A502#32 = .ok (.bbarrive true 224 165)
    ∧ decode 0xEB12E403#32 = .ok (.bbwait true 18 228)
    ∧ decode 0xEB442304#32 = .ok (.bbtest true 68 35) := by
  and_intros <;> rfl

theorem test_decode_control :
    decode 0xF0764D4E#32 = .ok (.br true 118 2 3406)
    ∧ decode 0xF1001DA8#32 = .ok (.jmp true 7592)
    ∧ decode 0xF2001DDA#32 = .ok (.call true 7642)
    ∧ decode 0xF40C261F#32 = .ok (.loop true 12 9759)
    ∧ decode 0xF3000000#32 = .ok (.ret true)
    ∧ decode 0xF3007001#32 = .ok (.bri true 112)
    ∧ decode 0xF300A202#32 = .ok (.calli true 162)
    ∧ decode 0xF3000003#32 = .ok (.yield true)
    ∧ decode 0xF3000004#32 = .ok (.exit true)
    ∧ decode 0xF3000005#32 = .ok (.tret true)
    ∧ decode 0xF3000006#32 = .ok (.sdrain true)
    ∧ decode 0xF3830007#32 = .ok (.fence true 4 3)
    ∧ decode 0xF3CE0008#32 = .ok (.trap true 206)
    ∧ decode 0xF5010500#32 = .ok (.mget true 1 5)
    ∧ decode 0xF502D401#32 = .ok (.mset true 2 212)
    ∧ decode 0xF5040302#32 = .ok (.mand true 4 3)
    ∧ decode 0xF5060203#32 = .ok (.mandn true 6 2)
    ∧ decode 0xF5010104#32 = .ok (.mor true 1 1)
    ∧ decode 0xF5020105#32 = .ok (.mxor true 2 1)
    ∧ decode 0xF5040006#32 = .ok (.mlive true 4)
    ∧ decode 0xF55E0607#32 = .ok (.mpopc true 94 6)
    ∧ decode 0xF5900508#32 = .ok (.mfirst true 144 5)
    ∧ decode 0xF502CC09#32 = .ok (.mput true 2 204)
    ∧ decode 0xF5F4030A#32 = .ok (.mtake true 244 3) := by
  and_intros <;> rfl

theorem test_decode_sync_and_task :
    decode 0xF6CA0000#32 = .ok (.bar true 6 10)
    ∧ decode 0xF629BA01#32 = .ok (.bara true 1 9 186)
    ∧ decode 0xF6480602#32 = .ok (.barw true 2 8 6)
    ∧ decode 0xF6870003#32 = .ok (.bard true 4 7)
    ∧ decode 0xF6C69E04#32 = .ok (.barj true 6 6 158)
    ∧ decode 0xF7208500#32 = .ok (.spawn true 32 133)
    ∧ decode 0xF752C401#32 = .ok (.qpush true 82 196)
    ∧ decode 0xF7840302#32 = .ok (.qpop true 132 3)
    ∧ decode 0xF7B64203#32 = .ok (.qtrypush true 182 66)
    ∧ decode 0xF7E88104#32 = .ok (.qtrypop true 232 129)
    ∧ decode 0xF71AC005#32 = .ok (.tlsig true 26 192)
    ∧ decode 0xF74CFF06#32 = .ok (.tlwait true 76 255)
    ∧ decode 0xF77E3E07#32 = .ok (.tlread true 126 62)
    ∧ decode 0xF7017D08#32 = .ok (.coll true 1 125) := by
  and_intros <;> rfl

theorem test_decode_set_energy_counter_trap :
    decode 0xF802BC00#32 = .ok (.asdef true 2 188)
    ∧ decode 0xF814FB01#32 = .ok (.astouch true 20 251)
    ∧ decode 0xF8460002#32 = .ok (.asage true 70)
    ∧ decode 0xF8787903#32 = .ok (.asq true 120 121)
    ∧ decode 0xF800AA04#32 = .ok (.asretry true 170)
    ∧ decode 0xF9DCF700#32 = .ok (.erd true 220 247)
    ∧ decode 0xF90E3601#32 = .ok (.ebkt true 14 54)
    ∧ decode 0xF9407502#32 = .ok (.eop true 64 117)
    ∧ decode 0xFA72B400#32 = .ok (.cntrd true 114 180)
    ∧ decode 0xFAA40001#32 = .ok (.tstamp true 164)
    ∧ decode 0xFBD63200#32 = .ok (.trd true 214 50)
    ∧ decode 0xFB087101#32 = .ok (.twr true 8 113) := by
  and_intros <;> rfl

theorem test_decode_prefix :
    decode 0xFED61007#32 = .ok (.upfx 3 1 1 2 4103)
    ∧ decode 0xFF2B33A0#32 = .ok (.vpfx 1 2 1 2 1 2 116) := by
  refine ⟨?_, ?_⟩ <;> rfl

/-- Words that the manual assembles in its text (R55, R95, R96, R143, R144, R273, R291, R364). -/
theorem test_decode_manual_examples :
    decode 0x73820007#32 = .ok (.fence false 4 2) ∧ decode 0x73050008#32 = .ok (.trap false 5)
    ∧ decode 0x34220103#32 = .ok (.vcmpI false 2 2 1 3) ∧ decode 0x5C08C400#32 = .ok (.vldpk false 8 0xC4 0)
    ∧ decode 0x61C00000#32 = .ok (.mzero false 3) ∧ decode 0x75080000#32 = .ok (.mget false 8 0)
    ∧ decode 0x75010001#32 = .ok (.mset false 1 0) ∧ decode 0x75000102#32 = .ok (.mand false 0 1)
    ∧ decode 0x79084D00#32 = .ok (.erd false 8 0x4D) ∧ decode 0x790A0201#32 = .ok (.ebkt false 10 2)
    ∧ decode 0x790C0D02#32 = .ok (.eop false 12 13) ∧ decode 0x33040102#32 = .ok (.vsel false 4 1 2)
    ∧ decode 0xFF600000#32 = .ok (.vpfx 3 0 0 0 0 0 0) := by
  and_intros <;> rfl

/-! ### Single instructions (results from the tables and examples of the manual) -/

/-- R127. -/
theorem test_uadd_wraps : uAfter (.uadd false 9 8 10) (ownU [(8, 0xFFFFFFFF), (10, 2)]) 9 = 1 := by decide
theorem test_usub_order : uAfter (.usub false 9 8 10) (ownU [(8, 5), (10, 7)]) 9 = 0xFFFFFFFE := by decide
theorem test_umulh_signs :
    uAfter (.umulhI false 9 8 10) (ownU [(8, 0xFFFFFFFF), (10, 2)]) 9 = 0xFFFFFFFF ∧
    uAfter (.umulhN false 9 8 10) (ownU [(8, 0xFFFFFFFF), (10, 2)]) 9 = 1 := by decide
theorem test_shift_counts_of_the_width :
    uAfter (.ushl false 9 8 10) (ownU [(8, 1), (10, 32)]) 9 = 0 ∧ uAfter (.ushr false 9 8 10) (ownU [(8, 0x80000000), (10, 33)]) 9 = 0 ∧
    uAfter (.usar false 9 8 10) (ownU [(8, 0x80000000), (10, 40)]) 9 = 0xFFFFFFFF := by decide
theorem test_uadd_pair_carries :
    uAfter (.uadd false 12 8 10) (wide 1 (ownU [(8, 0xFFFFFFFF), (9, 1), (10, 1)])) 13 = 2 := by decide
/-- R128: with a prefix the immediate is IMMHI and IMM16 exactly. -/
theorem test_umovi_extends : uAfter (.umovi false 9 0x8000) (ownU []) 9 = 0xFFFF8000 ∧
    uAfter (.umovi false 8 0x8000) (wide 1 (ownU [])) 8 = 0x8000 ∧ uAfter (.ului false 9 0x8000) (ownU []) 9 = 0x80000000 := by decide
/-- R129. -/
theorem test_unary_corners : uAfter (.uclz false 9 8) (ownU []) 9 = 32 ∧ uAfter (.uabs false 9 8) (ownU [(8, 0x80000000)]) 9 = 0x80000000 ∧
    uAfter (.ubrev false 9 8) (ownU [(8, 1)]) 9 = 0x80000000 ∧ uAfter (.usext8 false 9 8) (ownU [(8, 0x180)]) 9 = 0xFFFFFF80 := by decide
/-- R130: the control word 0x1_0404 takes four bits at 4 with their sign; a length of 0 leaves the register. -/
theorem test_bit_fields : uAfter (.ubfe false 9 8 10) (ownU [(8, 0x90), (10, 0x10404)]) 9 = 0xFFFFFFF9 ∧
    uAfter (.ubfe false 9 8 10) (ownU [(8, 0x90), (10, 0x404)]) 9 = 9 ∧
    uAfter (.ubfi false 9 8 10) (ownU [(8, 0xF), (9, 0x11), (10, 0x404)]) 9 = 0xF1 ∧
    uAfter (.ubfi false 9 8 10) (ownU [(8, 0xF), (9, 0x11), (10, 4)]) 9 = 0x11 := by decide
/-- R131: 1.0 + 2.0 = 3.0; infinity less infinity is the canonical NaN with NV; a NaN compares as false. -/
theorem test_ufadd : uAfter (.ufadd false 9 8 10) (ownU [(8, 0x3F800000), (10, 0x40000000)]) 9 = 0x40400000 ∧
    uAfter (.ufadd false 9 8 10) (ownU [(8, 0x7F800000), (10, 0xFF800000)]) 9 = 0x7FC00000 ∧
    (after (.ufadd false 9 8 10) (ownU [(8, 0x7F800000), (10, 0xFF800000)])).me.sf ≠ 0 := by decide
theorem test_ufslt : uAfter (.ufslt false 9 8 10) (ownU [(8, 0x80000000), (10, 0)]) 9 = 0 ∧
    uAfter (.ufslt false 9 8 10) (ownU [(8, 0xBF800000), (10, 0)]) 9 = 1 := by decide
/-- R119: s1024 lies beyond 16 blocks of 64. -/
theorem test_unallotted_register :
    (after (.uadd false 0 0 0) { ownU [] with iss := { (ownU []).iss with snap := some { fetchStrand 0 with info := { fetchInfo with ublk := 0 } } } }).iss.res
      = .enc .illegalOperand := by decide
/-- R86, R87: a call pushes the next packet, and a return takes it back. -/
theorem test_call_and_return :
    (after (.call false 2) (ownU [])).me.rstk = [0x1000C] ∧ (after (.call false 2) (ownU [])).iss.goto = some { pc := 0x10018, widx := 0 } ∧
    (after (.ret false) (own (fun t => { t with rstk := [0x1000C], rsDepth := 1 }))).iss.goto = some { pc := 0x1000C, widx := 0 } := by decide
/-- R24: five packets fill a code line of 64 bytes. -/
theorem test_branch_crosses_a_line :
    (after (.jmp false 5) (ownU [])).iss.goto = some { pc := 0x10040, widx := 0 } ∧
    (after (.jmp false 0xFFFFFF) (ownU [])).iss.goto = some { pc := 0xFFF0, widx := 0 } := by decide
/-- R54, R86. -/
theorem test_branch_condition :
    (after (.br false 8 1 3) (ownU [])).iss.goto = some { pc := 0x10024, widx := 0 } ∧ (after (.br false 8 2 3) (ownU [])).iss.goto = none := by decide
theorem test_loop_ends_at_zero :
    uAfter (.loop false 8 0xFFFF) (ownU [(8, 1)]) 8 = 0 ∧ (after (.loop false 8 0xFFFF) (ownU [(8, 1)])).iss.goto = none ∧
    uAfter (.loop false 8 0xFFFF) (ownU []) 8 = 0xFFFFFFFF := by decide
/-- R95, R92. -/
theorem test_trap_word : (after (.trap false 5) (ownU [])).iss.res = .trap { cause := .trapInsn, tcode := 5 } ∧
    (after (.tret false) (ownU [])).iss.res = .enc .priv := by decide
/-- R96. -/
theorem test_mtake : uAfter (.mtake false 9 1) (own (fun t => { t with masks := t.masks.set 1 0x30 })) 9 = 4 ∧
    (after (.mtake false 9 1) (own (fun t => { t with masks := t.masks.set 1 0x30 }))).me.masks.get 1 = 0x20 ∧
    uAfter (.mtake false 9 1) (ownU []) 9 = 0xFFFFFFFF := by decide
theorem test_mput_outside_live : (after (.mput false 1 8) (ownU [(8, 33)])).me.masks.get 1 = 0 ∧
    (after (.mput false 1 8) (ownU [(8, 31)])).me.masks.get 1 = 0x80000000 := by decide
/-- R141: v2 := v1 + 16 (the inline integer 0xA9) in the active slots alone. -/
theorem test_vadd_active_slots :
    (after (.vadd false 2 1 0xA9) (ownV 5 [(0, 1), (1, 2), (2, 3)])).me.vreg 2 0 = 17 ∧
    (after (.vadd false 2 1 0xA9) (ownV 5 [(0, 1), (1, 2), (2, 3)])).me.vreg 2 1 = 0 ∧
    (after (.vadd false 2 1 0xA9) (ownV 5 [(0, 1), (1, 2), (2, 3)])).me.vreg 2 2 = 19 := by decide
/-- R157, the manual's example with active slots 2, 5, 6 and 9. -/
theorem test_vrot_example :
    [2, 5, 6, 9].map ((after (.vrot false 4 1 0xA1) (ownV 0x264 [(2, 20), (5, 50), (6, 60), (9, 90)])).me.vreg 4) = [50, 60, 90, 20] ∧
    [2, 5, 6, 9].map ((after (.vrot false 4 1 0xAE) (ownV 0x264 [(2, 20), (5, 50), (6, 60), (9, 90)])).me.vreg 4) = [90, 20, 50, 60] := by
  decide
/-- R158: the sum over the active slots, in every active slot. -/
theorem test_vredu_add : (after (.vredu false 4 1 0) (ownV 0x264 [(2, 20), (5, 50), (6, 60), (9, 90)])).me.vreg 4 9 = 220 := by decide
/-- R144: v1 < 3, signed. -/
theorem test_vcmp : (after (.vcmpI false 2 2 1 0xA3) (ownV 7 [(0, 2), (1, 3), (2, 0xFFFFFFFF)])).me.masks.get 2 = 5 := by decide
/-- R73, R147: the sum waits in the write buffer. -/
theorem test_vfadd_waits :
    (after (.vfaddF32 false 2 1 0xB1) (ownV 1 [(0, 0x3F800000)])).me.vreg 2 0 = 0 ∧
    ((after (.vfaddF32 false 2 1 0xB1) (ownV 1 [(0, 0x3F800000)])).me.wbuf.find? 0).map (·.val) = some 0x40000000 := by decide
/-- R133, R172: a word in the strand's own window. -/
theorem test_window_store_and_load :
    ((after (.ust false 8 10 1) (ownU [(8, 0x01020304), (10, 0x4000000)])).core 0).readSp 4 4 = [4, 3, 2, 1] := by decide
/-- R132: an address of the wrong alignment. -/
theorem test_uld_alignment : (after (.uld false 8 10 0) (ownU [(10, 2)])).iss.res =
    .trap { cause := .align, kind := 1, va := some 2, size := 4 } := by decide
/-- R366: LEVEL of the context. -/
theorem test_ebkt_level : uAfter (.ebkt false 8 0) (ownU []) 8 = 1000000 := by decide
/-- R367: an operating point above the allowance, and one that is not a number of a point. -/
theorem test_eop_status : uAfter (.eop false 8 9) (ownU [(9, 8)]) 8 = 4 ∧ uAfter (.eop false 8 9) (ownU [(9, 7)]) 8 = 0 := by decide

/-! ### Steps -/

/-- R31, R33: a step runs the word at the boundary; the strand goes on to the next packet, as the rest is padding. -/
theorem test_step_uaddi :
    ((stepped (State.reset.withFetchWord 32 0x14050007)).strand 0).uregs.get 5 = 7 := by decide
theorem test_step_moves_on : ((stepped (State.reset.withFetchWord 32 0x14050007)).strand 0).pc = 0x1000C := by decide
/-- R56: a reserved major is trapped. -/
theorem test_step_illegal : ((stepped (State.reset.withFetchWord 32 0x5E000000)).strand 0).state = .trapEntry := by decide

/-! ### States and operands that meet the hypotheses of the statements

One theorem for each statement with hypotheses; a statement of several clauses has a line for each of them. -/

theorem witness_StepRunsTheDecodedWord :
    let s := State.reset.withFetchWord 32 0x14050007
    s.moves = [.issue 0] ∧ s.presenters 0 = [0] ∧ (s.strand 0).aset.bad = 0 ∧ (s.strand 0).leaving = false ∧
    s.skidBlocked 0 = false ∧ s.pursePositive 0 = true ∧ (s.strand 0).flight = none ∧ pcValid (s.strand 0).pc = true ∧
    (∃ s1 l u t c d, s.fetchLine 0 = (s1, .line l) ∧ ((s1.openGroup 0 l).strand 0).flight = none ∧
      ((s1.openGroup 0 l).strand 0).widx = (s.strand 0).widx ∧
      groupFrom ((packetWords l (s.strand 0).pc).drop (s.strand 0).widx) 3 = [0x14050007#32] ∧
      exec (.uaddi false 5 7) ((s1.openGroup 0 l).atWord (s.strand 0).widx) = .next u ∧ u.iss.res = .done ∧
      exec (.uaddi false 5 7) ((s1.openGroup 0 l).going.atWord (s.strand 0).widx) = .next t ∧ t.iss.res = .done ∧
      (t.noPrefix.finishGroup 0 ((s1.openGroup 0 l).strand 0) ((s1.openGroup 0 l).workOf 0) [0x14050007#32]).1.stalled = false ∧
      pickCtx (s.quarter 0).ptr (replenish [((s.strand 0).info.ctx, (s.quarter 0).def_ (s.strand 0).info.ctx,
        s.quantumOf (s.strand 0).info.ctx)]) = some (c, d)) ∧
    (s.strand 0).widx = 0 ∧ groupLegal [0x14050007#32] (s.strand 0).widx = true ∧
    decode 0x14050007#32 = .ok (.uaddi false 5 7) ∧ isUpfx 0x14050007#32 = false ∧ isVpfx 0x14050007#32 = false := by
  and_intros
  any_goals decide
  all_goals try rfl
  exact ⟨_, _, _, _, _, _, rfl, by decide, by decide, by decide, rfl, by decide, rfl, by decide, by decide, rfl⟩

theorem witness_StepMakesOneMove :
    State.reset.moves = [] ∧
    ({ State.reset with inputs := [.podPortUp 1] } : State).moves = [.input] ∧ State.reset.admits (.podPortUp 1) = true ∧
    ({ State.reset with pending := [.drawServed] } : State).moves = [.event .drawServed] ∧ Named .drawServed .drawServed ∧
    1 < ({ State.reset with pending := [.drawServed, .irrevocableTokenGrant] } : State).moves.length := by
  refine ⟨by decide, by decide, by decide, by decide, rfl, by decide⟩

theorem witness_MemoryReadsWhatWasStored : (State.reset.memWrite { host := false, addr := 5 } [1, 0, 3]).memWf = true ∧
    State.reset.memWf = true := by decide

theorem witness_EveryStepKeepsMemoryCanonical :
    (State.reset.withFetchWord 32 0x14050007).memWf = true ∧ ∃ t, step (State.reset.withFetchWord 32 0x14050007) = .next t :=
  ⟨by decide, _, rfl⟩

theorem witness_StepsNeverRefuse :
    step { State.reset with inputs := [.hostAccess { firmware := false, write := false, addr := 2 ^ 40, data := [], len := 1 }] }
      = .fault .noSuchAddress := rfl

theorem witness_DecodeAndEncodeAgree :
    (Instr.wellFormed (.uadd true 255 0 1) = true ∧ encode (.uadd true 255 0 1) = some 0x81FF0001#32) ∧
    decode 0x81FF0001#32 = .ok (.uadd true 255 0 1) := ⟨by decide, rfl⟩

/-- Registers are ready in the small state at both widths. -/
theorem ready_small : (own).UReady [(9, 1), (8, 1), (10, 1)] ∧ (own).UReady [(12, 2), (8, 2), (10, 2)] ∧
    (own).UReady [(8, 4)] ∧ (own).UReady [(16, 8)] := by
  unfold State.UReady; decide

theorem witness_UniformThreeOperand :
    (∃ f, ruleThree (.uadd false 9 8 10) = some ((9, 8, 10), f)) ∧ (own).up.imm = 0 ∧ (own).up.w = 0 ∧
    (own).UReady [(9, 1), (8, 1), (10, 1)] ∧
    (∃ f, ruleThree (.usar true 12 8 10) = some ((12, 8, 10), f)) ∧ (wide 1 own).up.imm = 0 ∧ (wide 1 own).up.w = 1 ∧
    (wide 1 own).UReady [(12, 2), (8, 2), (10, 2)] := by
  refine ⟨⟨_, rfl⟩, by decide, by decide, ready_small.1, ⟨_, rfl⟩, by decide, by decide, ?_⟩
  unfold State.UReady; decide

theorem witness_UniformUnaryFieldAndFloat :
    (∃ f, ruleOne (.uclz false 9 8) = some ((9, 8), f)) ∧ (own).up.imm = 0 ∧ (own).up.xb = 0 ∧ (own).up.w = 0 ∧
    (own).UReady [(9, 1), (8, 1)] ∧ (wide 1 own).up.w = 1 ∧ (wide 1 own).UReady [(12, 2), (8, 2)] ∧
    (∃ f, ruleField (.ubfi false 9 8 10) = some ((9, 8, 10), f)) := by
  refine ⟨⟨_, rfl⟩, by decide, by decide, by decide, ?_, by decide, ?_, ⟨_, rfl⟩⟩ <;> (unfold State.UReady; decide)

theorem witness_UniformImmediate :
    (own).up.xa = 0 ∧ (own).up.xb = 0 ∧ (own).up.w = 0 ∧ (own).UReady [(9, 1)] ∧ (wide 1 own).up.w = 1 ∧
    (wide 1 own).UReady [(12, 2)] ∧ (own).up.imm = 0 := by
  refine ⟨by decide, by decide, by decide, ?_, by decide, ?_, by decide⟩ <;> (unfold State.UReady; decide)

/-- The first register beyond 16 blocks is s1024, which XD = 3 and D = 255 do not reach; with 15 blocks it is s960. -/
theorem witness_UniformWordTraps :
    (2 ≤ (wide 2 own).up.w.toNat) ∧ (own (fun t => { t with info := { t.info with ublk := 3 } })).old.info.ublk * 64 ≤ 192 ∧
    (own).awaitsAcquire = false ∧ canonical (2 ^ 56) = false ∧ canonical (2 ^ 56 - 1) = true ∧ canonical 2 = true ∧ 2 % 4 ≠ 0 ∧
    (own).UReady [(9, 2 ^ (own).up.w.toNat), (8, 2)] := by
  refine ⟨by decide, by decide, by decide, by decide, by decide, by decide, by decide, ?_⟩
  unfold State.UReady; decide

/-- A strand whose window has its second half on core 1. -/
def spread (f : Strand → Strand := id) : State :=
  own (fun t => f { t with info := { t.info with segs := [(0, 0), (1, 0)] } })

/-- Offsets 0xFFFC and 0x10000 are the last word of the block on the strand's core and the first of the block beside it. -/
theorem witness_UniformLoadStarts :
    let s := warm (ownU [(8, 0x20000)])
    s.up.imm = 0 ∧ s.up.xb = 0 ∧ s.UReady [(9, 2 ^ s.up.w.toNat), (8, 2)] ∧ s.awaitsAcquire = false ∧ canonical 0x20000 = true ∧
    s.me.window 0x20000 = none ∧ s.me.inSet 0x20000 = none ∧ s.rodTouches 0 0x20000 4 = false ∧
    (∃ s1 p, (s.raw 1 1).translateFor (.group 0) (s.workOf 0) 0 0x20000 .load = (s1, .ok p) ∧
      (s1.lineBusy 0 s.me.info.ctx p).2 = false ∧ s1.storeBefore 0 0x20000 4 = false ∧ s1.iss.g = 0) ∧
    s.me.window 0x4000000 = some 0 ∧ s.me.window 0x400FFFC = some 0xFFFC ∧ 0xFFFC + 4 ≤ s.me.winSize ∧
    (s.me.winPlace 0xFFFC).1 = 0 ∧ s.old.vmemOut = false ∧ s.spadOrder 0 0 = true ∧
    (spread).me.window 0x4010000 = some 0x10000 ∧ 0x10000 + 4 ≤ (spread).me.winSize ∧ ((spread).me.winPlace 0x10000).1 = 1 ∧
    (spread).spadOrder 0 1 = true ∧ (spread).remoteFull 1 = false := by
  unfold State.UReady
  and_intros
  any_goals decide
  exact ⟨_, _, rfl, by decide, by decide, by decide⟩

theorem witness_UniformStore :
    let s := ownU [(8, 0x20000)]
    s.UReady [(9, 2 ^ s.up.w.toNat), (8, 2)] ∧ s.awaitsAcquire = false ∧ s.me.window 0x20000 = none ∧ s.me.setBearing = false ∧
    s.rodTouches 0 0x20000 4 = false ∧ s.sqRoom (s.uEntry 0x20000 [0, 0, 0, 0]) = true ∧ s.me.window 0x400FFFC = some 0xFFFC ∧
    s.me.usent = none ∧ s.old.vmemOut = false ∧ s.spadOrder 0 0 = true ∧ (spread).me.usent = none ∧
    ((spread).me.winPlace 0x10000).1 = 1 ∧ (spread).remoteFull 1 = false := by
  unfold State.UReady
  and_intros
  all_goals decide

theorem witness_SystemRegisterReads :
    (own).old.info.spLog ≠ 0 ∧ (own (fun t => { t with info := { t.info with spLog := 0 } })).old.info.spLog = 0 ∧
    (own).sysReg 0x05 = some 1 ∧ (own).UReady [(9, 1)] ∧ (own).old.flagsSettled = true ∧
    (own).sysReg 0x32 = none ∧ (own).sysReg 0x0D = none := by
  refine ⟨by decide, by decide, by decide, ?_, by decide, by decide, by decide⟩
  unfold State.UReady; decide

/-- A V word on the rod of the small state. -/
def flying : State := after (.vadd false 2 1 0xA9) (ownV 1 [])

theorem witness_SystemRegisterWrites :
    (own).UReady [(8, 1)] ∧ (ownU [(8, 63)]).u 8 = 63 ∧ (ownU [(8, 64)]).u 8 = 64 ∧ (0x20#32 &&& ~~~0x20#32 = 0) ∧
    (0x21#32 &&& ~~~0x20#32 ≠ 0) ∧ fmValid 0xFFFFFFFF = false ∧ (own).me.rstk = [] ∧ (own).old.flagsSettled = true ∧
    (∃ s', (own).spillAll 0 [] = .ok s' 0) ∧
    (let s := flying.openGroup 0 []
     s.UReady [(8, 1)] ∧ s.iss.go = false ∧ s.old.rodFree = false) := by
  refine ⟨?_, by decide, by decide, by decide, by decide, by decide, by decide, by decide, ⟨_, rfl⟩, ?_, by decide, by decide⟩ <;>
    (unfold State.UReady; decide)

theorem witness_ReturnStackRegisterWrite :
    let s := warm (own (fun t => { t with rstk := [0x10000], rsDepth := 1, rsp := 0x20000 }))
    ∃ s', s.spillAll s.iss.raw.length s.me.rstk.reverse = .ok s' 0 := ⟨_, rfl⟩
theorem witness_BranchAndJumpWords :
    (own).UReady [(8, 1)] ∧ (own).UReady [(8, 2)] ∧ ruleBranch own 8 1 ∧ ¬ ruleBranch own 8 2 ∧ (own).old.flight = none ∧
    (ownU [(8, 1)]).u 8 = 1 ∧ (own).u 8 ≠ 1 ∧ pcValid ((ownU [(8, 0x10030)]).u2 8) = true ∧
    pcValid ((ownU [(8, 0x1003C)]).u2 8) = false := by
  refine ⟨?_, ?_, rfl, fun h => h rfl, by decide, by decide, by decide, by decide, by decide⟩ <;> (unfold State.UReady; decide)

theorem witness_CallAndReturnWords :
    ((own).me.rsDepth ≠ 0xFFFFFFFF#32 ∧ (own).me.rstk.length < 8) ∧
    (let s := warm (own (fun t => { t with rstk := List.replicate 8 0x10000, rsDepth := 8, rsp := 0x20000 }))
     s.me.rsDepth ≠ 0xFFFFFFFF#32 ∧ 8 ≤ s.me.rstk.length ∧
      ∃ s' v, (s.raw 1 1).storeSpill s.me.rsp.toNat (s.me.rstk.getLastD 0) = .ok s' v) ∧
    (own (fun t => { t with rsDepth := 0xFFFFFFFF })).me.rsDepth = 0xFFFFFFFF#32 ∧
    (let s := own (fun t => { t with rstk := [0x1000C], rsDepth := 1 })
     s.me.rsDepth ≠ 0 ∧ s.me.rstk = [0x1000C] ∧ pcValid 0x1000C = true ∧ pcValid 0x1003C = false) ∧
    (let s := warm (own (fun t => { t with rsDepth := 1, rsp := 0x10008 }))
     s.me.rsDepth ≠ 0 ∧ s.me.rstk = [] ∧
      ∃ s' v, (s.raw 1 1).loadSpill (s.me.rsp - 8).toNat = .ok s' v ∧ pcValid v = true) ∧ (own).me.rsDepth = 0 := by
  refine ⟨by decide, ⟨by decide, by decide, _, _, rfl⟩, by decide, by decide, ⟨by decide, by decide, _, _, rfl, by decide⟩, by decide⟩

/-- A store whose translation is awaited, and the release of a strand that has none. -/
def storing : State := (after (.ust false 9 8 0) (ownU [(8, 0x20000)])).openGroup 0 []

theorem witness_YieldDrainAndFence :
    (own).untranslated 0 = false ∧ storing.untranslated 0 = true ∧ storing.iss.go = false ∧ (own).loadsOut 0 = false ∧
    (∃ s', ((own).raw 1 1).releaseStep 0 4 = (s', true)) ∧ (∃ s', (storing.raw 1 1).releaseStep 0 4 = (s', false)) :=
  ⟨by decide, by decide, by decide, by decide, ⟨_, rfl⟩, ⟨_, rfl⟩⟩

/-- The strand in its handler. -/
def handling : State := own (fun t => { t with trap := { t.trap with inHandler := true }, uregs := [(8, 0x2000#32), (9, 0x80#32)] })

theorem witness_HandlerWordsOutside : (own).old.trap.inHandler = false ∧ (own).UReady [(8, 1)] := by
  refine ⟨by decide, ?_⟩; unfold State.UReady; decide

/-- Word 6 with a reserved bit and without, word 10 likewise, and the two words beside each range. -/
theorem witness_TrapRecordWords :
    handling.old.trap.inHandler = true ∧ handling.UReady [(8, 1)] ∧
    (handling.u 10 &&& 0xFFFFE000#32 = 0) ∧ (handling.u 8 &&& 0xFFFFE000#32 ≠ 0) ∧ (handling.u 10 &&& 0x80808080#32 = 0) ∧
    (handling.u 9 &&& 0x80808080#32 ≠ 0) := by
  refine ⟨by decide, ?_, by decide, by decide, by decide, by decide⟩; unfold State.UReady; decide

theorem witness_MaskWords :
    (∃ a b c d, ruleMask own (.mtake false 9 1) = some (a, b, c, d) ∧ (own).UReady (b.map (fun r => (r.toNat, 1)))) ∧
    (∃ a b c d, ruleMask (ownU [(8, 31)]) (.mput false 1 8) = some (a, b, c, d) ∧ d ≠ none ∧
      (ownU [(8, 31)]).UReady (b.map (fun r => (r.toNat, 1)))) ∧
    (∃ a b c d, ruleMask (ownU [(8, 32)]) (.mput false 1 8) = some (a, b, c, d) ∧ d = none) ∧ (own).old.flight = none := by
  refine ⟨⟨_, _, _, _, rfl, ?_⟩, ⟨_, _, _, _, rfl, by decide, ?_⟩, ⟨_, _, _, _, rfl, by decide⟩, by decide⟩ <;>
    (unfold State.UReady; decide)

/-- A word under no prefix with v1 and v3 as its operands. -/
theorem ready_v : (own).VReady [.reg 1 1, .reg 3 1] (some (2, 1)) ∧ (own).VReady [.const 0, .reg 1 1, .reg 3 1] (some (2, 1)) ∧
    (own).VReady [.const 0, .reg 1 1] (some (2, 1)) ∧ (own).VReady [.const 0, .reg 1 1, .reg 3 1] none ∧
    (own).VReady [.reg 1 1, .reg 3 1] none ∧ (own).VReady [.reg 1 1] (some (2, 1)) ∧ (own).VReady [] (some (2, 1)) := by
  refine ⟨?_, ?_, ?_, ?_, ?_, ?_, ?_⟩ <;>
    exact ⟨by decide, rfl, by rintro r n ⟨⟩ <;> decide, by decide⟩

theorem witness_VectorInteger :
    (∃ ws e f, ruleVInt (.vadd false 2 1 3) = some ((2, 1, 3), ws, e, f) ∧
      VLegal own { cls := 2, widths := ws } 2 [(1, 0), (3, 0)] [.reg 1 1, .reg 3 1] (.const 0)) ∧
    (∃ ws e f, ruleVInt (.vadd false 2 4 6) = some ((2, 4, 6), ws, e, f) ∧
      VLegal (under { VPfx.zero with wd := 1, wa := 1, wb := 1 } own) { cls := 2, widths := ws } 2 [(4, 1), (6, 1)]
        [.reg 4 2, .reg 6 2] (.const 0)) := by
  refine ⟨⟨_, _, _, rfl, rfl, rfl, by decide, by decide, by decide, by decide, rfl, ?_, by decide⟩,
    ⟨_, _, _, rfl, rfl, rfl, by decide, by decide, by decide, by decide, rfl, ?_, by decide⟩⟩ <;>
  (rintro r n ⟨⟩; decide)

theorem witness_VectorSingle :
    ∃ fm codes f, ruleVSingle own (.vclz false 2 1) = some (fm, 2, codes, f) ∧ VLegal own fm 2 codes [.reg 1 1] (.const 0) := by
  refine ⟨_, _, _, rfl, rfl, rfl, by decide, by decide, by decide, by decide, rfl, ?_, by decide⟩
  rintro r n ⟨⟩; decide

theorem witness_VectorFloat :
    ∃ fm codes f, ruleVFloat own (.vfaddF32 false 2 1 3) = some (fm, 2, codes, f) ∧
      VLegal own fm 2 codes [.reg 1 1, .reg 3 1] (.const 0) := by
  refine ⟨_, _, _, rfl, rfl, rfl, by decide, by decide, by decide, by decide, rfl, ?_, by decide⟩
  rintro r n ⟨⟩; decide

theorem witness_VectorPacked :
    ∃ fm codes f, ruleVPacked (under { VPfx.zero with rm := 5 } own) (.vfaddF16x2 false 2 1 3) = some (fm, 2, codes, f) ∧
      VLegal (under { VPfx.zero with rm := 5 } own) fm 2 codes [.reg 1 1, .reg 3 1] (.const 0) := by
  refine ⟨_, _, _, rfl, rfl, rfl, by decide, by decide, by decide, by decide, rfl, ?_, by decide⟩
  rintro r n ⟨⟩; decide

/-- fm0 holds the format with a sign, four exponent bits of bias 7, three mantissa bits and a single NaN (R104). -/
def formatted : State := own (fun t => { t with fm := t.fm.set 0 0x20739 })

theorem witness_VectorConversions :
    VLegal own (formFp (!cvtExact 0 1)) 2 [(1, 0)] [.reg 1 1] (.const 0) ∧
    (let ok := fmUsable formatted.old.fm 0 && laneOk (formatted.old.fm.get 0) 3
     VLegal formatted { formFp true with readsD := true, ok := ok } 2 [(1, 0)] [.reg 1 1, .reg 2 1] (.const 0) ∧
     VLegal formatted { formFp true with ok := ok } 2 [(1, 0)] [.reg 1 1] (.const 0)) := by
  refine ⟨⟨rfl, rfl, by decide, by decide, by decide, by decide, rfl, ?_, by decide⟩,
    ⟨rfl, by decide, by decide, by decide, by decide, by decide, rfl, ?_, by decide⟩,
    ⟨rfl, by decide, by decide, by decide, by decide, by decide, rfl, ?_, by decide⟩⟩ <;>
  (rintro r n ⟨⟩; decide)

theorem witness_VectorResultsEnter :
    (([(0, 7), (2, 9)] : List (Nat × DWord)).map (·.1)).Nodup ∧
    (∀ x ∈ ([(0, 7), (2, 9)] : List (Nat × DWord)), x.1 < 32 ∧ (5#32).getLsbD x.1 = true) ∧ dstN 2 = false ∧ dstN 0x82 = true ∧
    (∃ f, ((after (.vadd false 2 1 3) own).strand 0).flight = some f ∧ f.stop = .ran) ∧ ((own).strand 0).flight = none ∧
    (∃ b, ((after (.vfaddF32 false 2 1 3) own).strand 0).wbuf.find? 0 = some b) := by
  refine ⟨by decide, by decide, by decide, by decide, ⟨_, rfl, rfl⟩, by decide, ⟨_, rfl⟩⟩

theorem witness_VectorMovesAndSelect :
    (let s := under { VPfx.zero with wd := 1, wa := 1 } own
     s.vp.wd ≠ 0 ∧ s.vp.wa = s.vp.wd ∧ vSrcOf s.iss.lit 4 s.vp.wa = some (.reg 4 2) ∧
      s.old.vDstOk 2 (2 ^ s.vp.wd.toNat) false = true ∧ s.VReady [.reg 4 2] (some (dstReg 2, 2 ^ s.vp.wd.toNat)) ∧
      (s.modMe Strand.vEnter).active ≠ 0) ∧
    (let s := under { VPfx.zero with wd := 1, wa := 1 } (ownV 0 [])
     (s.modMe Strand.vEnter).active = 0) ∧
    (let s := under { VPfx.zero with msk := 3 } own
     vSrcOf s.iss.lit 1 s.vp.wa = some (.reg 1 1) ∧ vSrcOf s.iss.lit 3 s.vp.wb = some (.reg 3 1) ∧ s.vp.c = 0 ∧
      widthsNone s.vp.wd s.vp.wa s.vp.wb = true ∧ s.old.vDstOk 2 1 true = true ∧ s.vp.msk ≠ 0 ∧
      s.VReady [.const 0, .reg 1 1, .reg 3 1] (some (dstReg 2, 1)) ∧ (s.modMe Strand.vEnter).mask 0 ≠ 0) ∧ (own).vp.msk = 0 := by
  refine ⟨⟨by decide, by decide, rfl, by decide, ⟨by decide, rfl, ?_, by decide⟩, by decide⟩, by decide,
    ⟨rfl, rfl, by decide, by decide, by decide, by decide, ⟨by decide, rfl, ?_, by decide⟩, by decide⟩, by decide⟩ <;>
  (rintro r n ⟨⟩; decide)

theorem witness_VectorCompare :
    (∃ f, ruleCompare (.vcmpI false 5 2 1 3) = some ((2, 1, 3), 2, true, f)) ∧ vSrcOf (own).iss.lit 1 (own).vp.wa = some (.reg 1 1) ∧
    widthsNone (own).vp.wd (own).vp.wa (own).vp.wb = true ∧ (own).VReady [.reg 1 1, .reg 3 1] none ∧
    ((own).modMe Strand.vEnter).active ≠ 0 ∧ ((ownV 0 []).modMe Strand.vEnter).active = 0 ∧
    (∃ f, ruleCompare (.vfcmpF32 false 7 2 1 3) = some ((2, 1, 3), 3, true, f)) :=
  ⟨⟨_, rfl⟩, rfl, by decide, ready_v.2.2.2.2.1, by decide, by decide, ⟨_, rfl⟩⟩

theorem witness_VectorSpecial :
    ruleSfu (.vtanh false 2 1) = some ((2, 1), 7) ∧ vSrcOf (own).iss.lit 1 (own).vp.wa = some (.reg 1 1) ∧
    (own).old.vDstOk 2 1 false = true ∧ (own).VReady [.reg 1 1] (some (dstReg 2, 1)) ∧ ((own).modMe Strand.vEnter).active ≠ 0 ∧
    (∃ x, (after (.vrcp false 2 1) own).me.late = [] ++ x :: (after (.vrcp false 2 1) own).me.late.tail ∧ x.delivered = false) := by
  refine ⟨rfl, rfl, by decide, ready_v.2.2.2.2.2.1, by decide, _, rfl, by decide⟩

theorem witness_VectorCrossSlot :
    vSrcOf (own).iss.lit 1 0 = some (.reg 1 1) ∧ vSrcOf (own).iss.lit 0xA1 0 = some (.const 1) ∧
    (own).old.vDstOk 2 1 true = true ∧ (own).VReady [.reg 1 1, .const 1] (some (dstReg 2, 1)) ∧ dstN 2 = false ∧
    (0xA0#8 ≤ 0xA1#8 ∧ 0xA1#8 ≤ 0xAF#8) ∧ ((own).modMe Strand.vEnter).active ≠ 0 ∧ ((ownV 0 []).modMe Strand.vEnter).active = 0 := by
  refine ⟨rfl, rfl, by decide, ⟨by decide, rfl, ?_, by decide⟩, by decide, by decide, by decide, by decide⟩
  rintro r n ⟨⟩; decide

theorem witness_VectorReduceTransposeRandom :
    (own).old.vDstOk 2 1 false = true ∧ (own).VReady [.reg 1 1] (some (dstReg 2, 1)) ∧
    (let s := under { VPfx.zero with wd := 3, wa := 3 } own
     vSrcOf s.iss.lit 16 s.vp.wa = some (.reg 16 8) ∧ s.old.vDstOk 8 8 false = true ∧ s.VReady [.reg 16 8] (some (dstReg 8, 8))) ∧
    (own).VReady [] (some (dstReg 2, 1)) := by
  refine ⟨by decide, ready_v.2.2.2.2.2.1, ⟨rfl, by decide, ⟨by decide, rfl, ?_, by decide⟩⟩, ready_v.2.2.2.2.2.2⟩
  rintro r n ⟨⟩; decide

/-- A word's form, by its instruction under no prefix. -/
def formOf (i : Instr) : MemForm := (memForm i VPfx.zero).getD { op := .ld, d := 0, a := 0 }

/-- v1 of every slot holds a window offset of its own; s8 holds an address in the first gigabyte. -/
def addressing : State := own (fun t => (List.range 32).foldl (fun (t : Strand) k => t.putV 1 k (BitVec.ofNat 32 (4 * k)))
  { t with uregs := [(8, 0x20000#32)], masks := [(0, 1#32)] })

theorem witness_VectorMemoryPass :
    (memForm (.vlds false 2 1 0) addressing.vp = some (formOf (.vlds false 2 1 0)) ∧ MemReady addressing (formOf (.vlds false 2 1 0)) ∧
      addressing.active ≠ 0) ∧
    (MemReady (ownV 0 []) (formOf (.vlds false 2 1 0)) ∧ (ownV 0 []).active = 0) ∧
    (∃ c, (formOf (.vatom false 2 1 7 0 0)).bad = some c) ∧
    ((formOf (.vlds false 0x82 1 0)).bad = none ∧ addressing.memOk (formOf (.vlds false 0x82 1 0)) = false) ∧
    (let s := memEntered addressing (.vlds false 2 1 0) (formOf (.vlds false 2 1 0)) .stores
     ∃ f, (s.strand 0).flight = some f ∧ memForm f.instr f.vp = some (formOf (.vlds false 2 1 0)) ∧ f.stop.goesOn = true ∧
      f.waited = false ∧ (formOf (.vlds false 2 1 0)).rel = false ∧
      (∃ t, s.memSlot 0 f (formOf (.vlds false 2 1 0)) 4 0 = (t, .ok)) ∧
      (∃ t x, s.memSlot 0 f (formOf (.vldfe false 2 1 0)) 4 0 = (t, .stop x)) ∧
      (∃ t x, s.memSlot 0 f (formOf (.vlds false 2 1 0)) 8 1 = (t, .fault x))) := by
  refine ⟨⟨rfl, ⟨rfl, by decide, by decide, by decide, by decide, by decide⟩, by decide⟩,
    ⟨⟨rfl, by decide, by decide, by decide, by decide, by decide⟩, by decide⟩, ⟨_, rfl⟩, ⟨rfl, by decide⟩,
    ⟨_, rfl, rfl, by decide, by decide, by decide, ⟨_, rfl⟩, ⟨_, _, rfl⟩, ⟨_, _, rfl⟩⟩⟩

/-- A release that waits for a store that is not translated. -/
theorem witness_VectorMemoryPass_release :
    let s := memEntered storing (.vst false 2 0xC8 0) (formOf (.vst false 2 0xC8 0)) .stores
    ∃ f, (s.strand 0).flight = some f ∧ f.waited = false ∧ ({ formOf (.vst false 2 0xC8 0) with rel := true } : MemForm).rel = true ∧
      (s.strand 0).takeable = none ∧ ∃ t, s.flightRelease 0 f { formOf (.vst false 2 0xC8 0) with rel := true } = (t, false) :=
  ⟨_, rfl, by decide, rfl, by decide, _, rfl⟩

/-- Full bit of the word at offset 0. -/
def filled : CoreSt := { (own).core 0 with fe := ((((own).core 0).setFull 0 true)).fe }

theorem witness_ScratchpadSlots :
    (let s := memEntered addressing (.vlds false 2 1 0) (formOf (.vlds false 2 1 0)) .stores
     ∃ f, (s.strand 0).flight = some f ∧ (formOf (.vlds false 2 1 0)).op.spad = true ∧
      spadOff (s.strand 0) f (formOf (.vlds false 2 1 0)) 8 1 % 8 ≠ 0 ∧
      spadOff (s.strand 0) f (formOf (.vlds false 2 1 0)) 4 1 % 4 = 0 ∧
      spadOff (s.strand 0) f (formOf (.vlds false 2 1 0)) 4 1 + 4 ≤ (s.strand 0).winSize ∧
      ((own (fun t => { t with info := { t.info with segs := [] } })).strand 0).winSize = 0 ∧
      (s.strand 0).setBound = false ∧ s.spadOrder 0 (coreOf 0) = true ∧
      (s.strand 0).winPlace (spadOff (s.strand 0) f (formOf (.vlds false 2 1 0)) 4 1) = (coreOf 0, 4) ∧
      (∃ r, s.spPerform (coreOf 0) 4 (spadOp (s.strand 0) f (formOf (.vlds false 2 1 0)) 4 1) = some r) ∧
      s.spPerform (coreOf 0) 4 (spadOp (s.strand 0) f (formOf (.vldfe false 2 1 0)) 4 1) = none) ∧
    filled.full 0 = true ∧ ((own).core 0).full 0 = false := by
  refine ⟨⟨_, rfl, ?_⟩, by decide, by decide⟩
  and_intros
  any_goals decide
  exact ⟨_, rfl⟩

/-- Slots of a block on core 1: a store, a load that has not sent its message, and one with and without its reply. -/
theorem witness_ScratchpadSlots_remote :
    let m := { formOf (.vlds false 2 0xC8 0) with off := 0 }
    let s := memEntered (spread (fun t => { t with uregs := [(8, 0x10000#32)] })) (.vlds false 2 0xC8 0) m .stores
    ∃ f, (s.strand 0).flight = some f ∧ m.op.spad = true ∧ m.op ≠ .stef ∧ spadOff (s.strand 0) f m 4 0 % 4 = 0 ∧
      spadOff (s.strand 0) f m 4 0 + 4 ≤ (s.strand 0).winSize ∧
      (m.op.waits && (s.strand 0).setBound && !(s.strand 0).aset.holds.isEmpty) = false ∧
      (s.strand 0).winPlace (spadOff (s.strand 0) f m 4 0) = (1, 0) ∧ 1 ≠ coreOf 0 ∧ (s.strand 0).sent = false ∧
      s.spadOrder 0 1 = true ∧ s.remoteFull 1 = false ∧ m.op.writesD = true ∧ (formOf (.vsts false 2 1 0)).op.writesD = false ∧
      ((s.modStrand 0 (fun t => { t with sent := true })).strand 0).reply8 = none ∧
      ((s.modStrand 0 (fun t => { t with sent := true, reply8 := some [1, 2, 3, 4] })).strand 0).reply8 = some [1, 2, 3, 4] := by
  refine ⟨_, rfl, ?_⟩
  and_intros
  all_goals decide

/-- With the page of the address in the tables of the core and of the die. -/
def translated (s : State) : State :=
  match (s.walk 0 0x20000).1 with
  | .ok e => s.fillTlbs 0 e
  | .error _ => s

theorem witness_GlobalSlots :
    let s := translated <| memEntered addressing (.vld false 2 0xC8 0) (formOf (.vld false 2 0xC8 0)) .stores
    ∃ f, (s.strand 0).flight = some f ∧
      (let va := globalVa (s.strand 0) f (formOf (.vld false 2 0xC8 0)) 4 0
       canonical va = true ∧ va % 4 = 0 ∧ (s.strand 0).window va = none ∧ (s.strand 0).setBearing = false ∧
        (s.strand 0).setBound = false ∧ (formOf (.vld false 2 0xC8 0)).op = .ld ∧ s.storeBefore 0 va 4 = false ∧
        storing.storeBefore 0 0x20000 4 = true ∧ (formOf (.vst false 2 0xC8 0)).op = .st ∧
        (formOf (.vred false 2 0xC8 0 0 0)).op = .red 0 ∧ (formOf (.vcas false 2 0xC8 0)).op = .cas ∧
        (formOf (.vatom false 2 0xC8 0 0 0)).op = .atom 0 ∧
        (∃ t p, s.slotPlace 0 va .load = (t, .at p)) ∧ (∃ t p, s.slotPlace 0 va .atomic = (t, .at p) ∧ (t.strand 0).setBound = false)) :=
  ⟨_, rfl, by decide, by decide, by decide, by decide, by decide, rfl, by decide, by decide, rfl, rfl, rfl, rfl, ⟨_, _, rfl⟩, ⟨_, _, rfl, rfl⟩⟩


/-- A combining entry of the line at 0x20000, and a buffer of 128 entries for other lines. -/
def combining (s : State) : State :=
  s.modCore 0 (fun c => { c with cb := [{ id := 900, work := {}, pa := { host := false, addr := 0x20000 }, op := 0, vals := [(0, 1)],
                                          flushing := false }] })
def combFull (s : State) : State :=
  s.modCore 0 (fun c => { c with cb := (List.range 128).map (fun i =>
    { id := i, work := {}, pa := { host := false, addr := 0x40000 + 64 * i }, op := 0, vals := [], flushing := false }) })

/-- A line that a combining entry stands in the way of, an entry of another operation, a full buffer, and a page that does
not exist. -/
theorem witness_GlobalSlots_waits :
    let p : PAddr := { host := false, addr := 0x20000 }
    (∃ u, (own).lineBusy 0 0 p = (u, false)) ∧ (∃ u, (combining own).lineBusy 0 0 p = (u, true)) ∧
    (∃ u, (own).combineRoom {} p 0 = (u, false)) ∧ (∃ u, (combining own).combineRoom {} p 1 = (u, true)) ∧
    (∃ u, (combFull own).combineRoom {} p 0 = (u, true)) ∧ (own).sqRoom ((own).uEntry 0x20000 [0, 0, 0, 0]) = true ∧
    (∃ t, (translated own).slotPlace 0 (2 ^ 56) .load = (t, .fail 1)) ∧ (formOf (.vpref false 0 0xC8 0)).op = .pref false ∧
    (formOf (.vred false 2 0xC8 0 0 0)).rel = false ∧ (formOf (.vred false 2 0xC8 0 1 0)).rel = true :=
  ⟨⟨_, rfl⟩, ⟨_, rfl⟩, ⟨_, rfl⟩, ⟨_, rfl⟩, ⟨_, rfl⟩, by decide, ⟨_, rfl⟩, rfl, rfl, rfl⟩

/-- A store queue of 256 entries. -/
theorem witness_GlobalSlots_full_queue :
    let s := (own).modCore 0 (fun c => { c with sq := (List.range 256).map (fun i =>
      { (own).uEntry (0x20000 + 64 * i) [0] with id := i, window := i }) })
    s.sqRoom ((own).uEntry 0x10000 [0, 0, 0, 0]) = false := by decide +kernel

/-- Both layouts of an MMA in s8 to s15, a barrier-free drain in s16 to s23, and one selected row. -/
def matrixRegs : State :=
  own (fun t => { t with
    masks := [(0, 1)], uregs := [(8, 0x20000), (10, 128), (12, 0x20000), (14, 128), (23, 0xFFFFFFFF)] })

/-- The unit of the strand's quarter is running. -/
def running (s : State) : State := s.modQuarter 0 (fun x => { x with unit := .running })

/-- No earlier access is open. -/
theorem ownDone_small : OwnDone matrixRegs ∧ OwnDone (running matrixRegs) := by unfold OwnDone; decide

theorem witness_MatrixWords :
    ((matrixRegs.quarter 0).tileSt 0).susp = none ∧ ((matrixRegs.quarter 0).tileSt 0).heldWords = [] ∧
    MReady matrixRegs 0 0 [(8, 4), (12, 4)] ∧
    (layoutOf (matrixRegs.u128 8)).ok 0 true matrixRegs.old.fm = true ∧
    (layoutOf (matrixRegs.u128 12)).ok 0 false matrixRegs.old.fm = true ∧
    (ownV 0 []).mask 0 = 0 ∧ matrixRegs.mask 0 ≠ 0 ∧ matrixRegs.old.flight = none ∧ QueueFree matrixRegs ∧ OwnDone matrixRegs ∧
    (matrixRegs.quarter matrixRegs.myQuarter).unit = .idle ∧ ((running matrixRegs).quarter matrixRegs.myQuarter).unit ≠ .idle ∧
    MReady matrixRegs 0 0 [] ∧ matrixRegs.old.blockOk 0 = true ∧ matrixRegs.old.pendsV 0 16 = false ∧
    matrixRegs.old.lateIn 0 16 = false ∧ matrixRegs.old.late = [] ∧ MReady matrixRegs 0 0 [(16, 8)] ∧
    (matrixRegs.me.setBound && !matrixRegs.me.aset.holds.isEmpty) = false ∧ matrixRegs.me.handle 0 ≠ .pending ∧
    (matrixRegs.core matrixRegs.myCore).creq.length < 32 ∧ matrixRegs.u (16 + 7) = 0xFFFFFFFF ∧
    matrixRegs.barrierTrap 0 = none ∧ matrixRegs.old.info.tiles[0]? = some 0 ∧ matrixRegs.UReady [(8, 1)] ∧
    (own (fun t => { t with info := { t.info with tiles := [] } })).old.info.tiles[(0 : Nat)]? = none ∧
    ¬QueueFree (matrixRegs.modQuarter 0 (fun x => { x with mq := (List.range 4).map (fun i => newEntry matrixRegs i (.mzero 0)) })) ∧
    (∃ x, matrixRegs.barrierTrap 8 = some x) ∧ (layoutOf ((ownU [(8, 1)]).u128 8)).ok 0 true (own).old.fm = false ∧
    matrixRegs.old.blockOk 0x78 = false := by
  refine ⟨by decide, by decide, ?_, by decide, by decide, by decide, by decide, by decide, ?_, ?_, by decide, by decide, ?_, by decide,
    by decide, by decide, by decide, ?_, by decide, by decide, by decide, by decide, by decide, by decide, ?_, by decide, ?_,
    ⟨_, rfl⟩, by decide, by decide⟩ <;>
  first | (unfold MReady State.UReady; decide) | (unfold QueueFree; decide) | (unfold OwnDone; decide) | (unfold State.UReady; decide)

/-- The registers of a request from device memory into the scratchpad, without a byte barrier. -/
def copyRegs : State := ownU [(8, 0x20000), (10, 0), (12, 64), (15, 0xFFFFFFF0), (16, 32), (17, 1)]

/-- Word 0 is not a multiple of 128. -/
def badCopy : State := ownU [(8, 0x20040)]

theorem witness_CopyWords :
    ((.cpyG2s false 0 8, 0) ∈ cpyForm false 0 8 ∧ (.cpyGate false 0 8, 5) ∈ cpyForm false 0 8) ∧ copyRegs.UReady [(8, 8)] ∧
    checkCopy 0 ((List.range 8).map (fun i => badCopy.u (8 + i))) badCopy.me.winSize = some { cause := .illegalOperand } ∧
    checkCopy 0 ((List.range 8).map (fun i => copyRegs.u (8 + i))) copyRegs.me.winSize = none ∧
    (copyRegs.me.setBound && !copyRegs.me.aset.holds.isEmpty) = false ∧
    (own (fun t => t.setHandle 3 .pending)).me.handle 3 = .pending ∧ copyRegs.me.handle 3 ≠ .pending ∧
    32 ≤ ((copyRegs.modCore 0 (fun x => { x with creq := (List.replicate 32 ((copyRegs.newRequest 0 0 [] none).core 0).creq).flatten })).core
      copyRegs.myCore).creq.length ∧
    (copyRegs.core copyRegs.myCore).creq.length < 32 ∧ OwnDone copyRegs ∧ copyRegs.UReady [(16, 1), (17, 1)] ∧
    (copyRegs.u 17).toNat = 1 ∧ (copyRegs.u 16).toNat = 32 ∧ 32 + 32 * 1 ≤ copyRegs.me.winSize ∧
    copyRegs.me.winSize < 0x10000 + 32 * 1 ∧ 0x10000 % 32 = 0 := by
  unfold OwnDone State.UReady; decide

/-- A token of the strand in the core's export table, and in s8. -/
def exported : State :=
  (ownU [(8, 1)]).modCore 0 (fun x => { x with exports :=
    [{ token := 1, work := (own).me.info.work, exporter := 0, handle := .done 0 }] })

/-- An engine with its 32 entries taken. -/
def engineFull (s : State) : State :=
  s.modCore 0 (fun x => { x with creq := (List.replicate 32 ((copyRegs.newRequest 0 0 [] none).core 0).creq).flatten })

theorem witness_HandleWords :
    (own).UReady [(8, 1)] ∧ EngineFree own ∧ ¬EngineFree (engineFull own) ∧ (engineFull own).UReady [(8, 1)] ∧
    ((own).me.setBound && !(own).me.aset.holds.isEmpty) = false ∧
    (own (fun t => t.setHandle 3 .pending)).old.handle 3 = .pending ∧ (own).old.handle 3 ≠ .pending ∧
    (3 : BitVec 4) ≠ 4 ∧ (own (fun t => t.setHandle 3 .pending)).me.handle 3 = .pending ∧ (own).me.handle 3 ≠ .pending ∧
    256 ≤ (((own).modCore 0 (fun x => { x with exports := (List.replicate 256 (exported.core 0).exports).flatten })).core 0).exports.length ∧
    ((own).core (own).myCore).exports.length < 256 ∧ (own).exportFor (own).iss.g ((own).u 8) = none ∧
    exported.UReady [(8, 1)] ∧ exported.me.handle 3 ≠ .pending ∧ EngineFree exported ∧
    (∃ k e, exported.exportFor exported.iss.g (exported.u 8) = some (k, e) ∧ e.handle ≠ .pending) := by
  unfold State.UReady EngineFree
  and_intros
  any_goals decide
  exact ⟨_, _, rfl, by decide⟩

/-- At offset 0 and at 65520, the last barrier of the block on the strand's core; the first of the block beside it, with
and without the reply of its step; beyond the window, and unaligned, a word traps. -/
theorem witness_ByteBarrierWords :
    (own).UReady [(9, 1), (8, 1)] ∧ BbHere own 0 0 ∧ BbHere own 65520 65520 ∧
    BbReplied (spread (fun t => { t with usent := some 7, ureply := some [1, 0, 0, 0] })) 65536 [1, 0, 0, 0] ∧
    (∃ x, (own).barrierTrap 65536 = some x) ∧ (∃ x, (own).barrierTrap 8 = some x) ∧ ((own).u 9).toNat = 0 ∧
    (own).barrierTrap 0 = none ∧ EngineFree own ∧
    (∃ r, BbStep own (((own).raw 1 1).raw 8 4) 0 (.bb 0 ((own).u 8)) r) ∧
    (∃ q, Released ((own).raw 1 1) q (((own).raw 1 1).barrierScope 0) ∧
      (∃ r, BbStep q (q.raw 8 4) 0 (.bb 1 (q.u 8)) r) ∧ (∃ r, BbStep q (q.raw 8 4) 0 (.bb 2 (q.u 8)) r)) ∧
    (∃ q, Releasing (storing.raw 1 1) q ((storing.raw 1 1).barrierScope 0)) ∧ storing.UReady [(9, 1), (8, 1)] ∧
    storing.barrierTrap 0 = none ∧ EngineFree storing ∧
    (∃ r, BbStep own ((own).raw 1 1) 0 (.bb 4 0) r ∧ (wordOfBytes r.2).getLsbD 0 = (r.1.u 8).getLsbD 0) ∧
    (∃ r, BbStep (ownU [(8, 1)]) ((ownU [(8, 1)]).raw 1 1) 0 (.bb 4 0) r ∧ (wordOfBytes r.2).getLsbD 0 ≠ (r.1.u 8).getLsbD 0) ∧
    ((own).me.setBound && !(own).me.aset.holds.isEmpty) = false := by
  have h : BbHere own 0 0 := by unfold BbHere; decide
  have h1 : BbHere (ownU [(8, 1)]) 0 0 := by unfold BbHere; decide
  refine ⟨?_, h, ?_, ?_, ⟨_, rfl⟩, ⟨_, rfl⟩, by decide, by decide, ?_, ⟨_, .inl ⟨0, h, rfl⟩⟩,
    ⟨_, rfl, ⟨_, .inl ⟨0, ?_, rfl⟩⟩, ⟨_, .inl ⟨0, ?_, rfl⟩⟩⟩, ⟨_, by decide, rfl⟩, ?_, by decide, ?_,
    ⟨_, .inl ⟨0, h, rfl⟩, by decide⟩, ⟨_, .inl ⟨0, h1, rfl⟩, by decide⟩, by decide⟩ <;>
  first
  | (unfold State.UReady; decide)
  | (unfold BbHere; decide)
  | (unfold BbReplied; decide)
  | (unfold EngineFree; decide)

theorem witness_ByteBarrierCounts :
    let b : ByteBar := { expect := 2, arrived := 2, reload := 5, phase := false, ovf := false }
    b.expect ≠ 0 ∧ b.expect ≤ b.arrived ∧ b.expect + (3#32).toNat < 2 ^ 32 ∧
      2 ^ 32 ≤ b.expect + (0xFFFFFFFE#32).toNat ∧ b.arrived + (3#32).toNat < 2 ^ 32 ∧ 2 ^ 32 ≤ b.arrived + (0xFFFFFFFE#32).toNat ∧
      ({ b with arrived := 1 } : ByteBar).arrived < b.expect := by decide

/-- A strand of cohort 3 of launch 7, registered with another on `.core` barrier 2, whose generation is 5. -/
def atBarrier (f : BarInst → BarInst) : State :=
  { own (fun t => { t with info := { t.info with work := .cohort 7 3 } }) with
    bars := [(4, f { scope := 1, place := 0, ctx := 0, launch := 7, unitKey := 3, num := 2, joinMode := false, gen := 5, reg := 2,
                     arr := 0, drop := 0, join := 0, members := [{ g := 0 }, { g := 1 }] })] }

theorem witness_BarrierWordsAndSteps :
    (∃ b, BarNamed (atBarrier id) 1 2 4 b ∧ b.member 0 ≠ none ∧ b.registered 0 = true ∧ FlagsDone (atBarrier id) ∧
      (atBarrier id).old.satPending = false ∧ (∃ q, Released ((atBarrier id).raw 1 1) q 1) ∧ b.mayArrive 0 = true ∧
      b.arr + 1 ≠ b.reg ∧ b.arr ≠ b.reg ∧ passed b.gen 5 = false ∧ passed b.gen 4 = true ∧ passed b.gen 0xFFFFFFFF = true ∧
      ∃ m, b.member 0 = some m ∧ m.dropped = false ∧ m.pending = false ∧ m.arrived = false) ∧
    (∃ b, BarNamed (atBarrier (fun b => b.arrive 0)) 1 2 4 b ∧ b.registered 0 = true ∧ b.mayArrive 0 = false ∧ b.arr + 1 = b.reg ∧
      ∃ m, b.member 0 = some m ∧ m.dropped = false ∧ m.pending = false ∧ m.arrived = true ∧ b.arr ≠ b.reg) ∧
    (∃ b, BarNamed (atBarrier (fun b => { b with members := [], reg := 0 })) 1 2 4 b ∧ b.registered 0 = false ∧ b.member 0 = none ∧
      b.reg = 0) ∧
    (∃ b, BarNamed (atBarrier (fun b => { b with members := [{ g := 1 }], reg := 1, arr := 1 })) 1 2 4 b ∧
      b.member 0 = none ∧ b.reg ≠ 0 ∧ 0 < b.reg ∧ b.arr = b.reg) ∧
    (atBarrier id).UReady [(8, 1)] ∧ (atBarrier id).me.setBound = false ∧ (atBarrier id).barInst 0 1 3 = none ∧
    (1 ≤ (5#3).toNat ∧ (5#3).toNat ≤ 5) := by
  unfold BarNamed FlagsDone State.UReady
  refine ⟨⟨_, ⟨by decide, by decide, by decide, by decide, rfl⟩, by decide, by decide, by decide, by decide, ⟨_, rfl⟩, by decide, by decide,
    by decide, by decide, by decide, by decide, _, rfl, by decide, by decide, by decide⟩,
    ⟨_, ⟨by decide, by decide, by decide, by decide, rfl⟩, by decide, by decide, by decide, _, rfl, by decide, by decide, by decide, by decide⟩,
    ⟨_, ⟨by decide, by decide, by decide, by decide, rfl⟩, by decide, by decide, by decide⟩,
    ⟨_, ⟨by decide, by decide, by decide, by decide, rfl⟩, by decide, by decide, by decide, by decide⟩, by decide, by decide, by decide, by decide⟩

/-- A strand whose armed flag stands, and one with an untranslated store, at the barrier. -/
theorem witness_BarrierWords_waits :
    (let s := own (fun t => { t with info := { t.info with work := .cohort 7 3 }, sf := 0x20, sfarm := 0x20 })
     FlagsDone s ∧ s.old.satPending = true) ∧
    (∃ q, Releasing (storing.raw 1 1) q 1) ∧ (own (fun t => { t with info := { t.info with setCount := 1 } })).me.setBound = true := by
  unfold FlagsDone
  exact ⟨by decide, ⟨_, by decide, rfl⟩, by decide⟩

/-- The address of a task's record, queue or timeline in s8, s9. -/
def asking : State := warm (ownU [(8, 0x20000)])

/-- A strand whose home has a word to do. -/
def home (o : HomeOp) : State := own (fun t => { t with homeOp := some o })

/-- A header at 0x20000 of two entries of one word. -/
def header (free filled : Nat) : State := asking.memWrite { host := false, addr := 0x20000 }
  (natLe 4 64 ++ natLe 4 1 ++ natLe 4 free ++ natLe 4 filled)

/-- A record whose strand starts at 0x10000 with one pool unit and one uniform block. -/
def record (depth : Nat) : List Byte := natLe 64 (0x10000 + 2 ^ 64 + 2 ^ 69 + depth * 2 ^ 85)

theorem witness_TaskWordsAndHomes :
    ((own (fun t => { t with replied := true })).me.replied = true ∧ (own (fun t => { t with replied := true })).me.homeOp = none ∧
      (own (fun t => { t with replied := true })).me.replyRegs = [] ∧ (own (fun t => { t with replied := true })).me.setBound = false ∧
      (own (fun t => { t with replied := true })).UReady [(9, 1), (10, 2)] ∧
      (own (fun t => { t with replied := true })).UReady [(12, 2), (10, 2)]) ∧
    (asking.me.replied = false ∧ asking.me.homeOp = none ∧ asking.me.setBound = false ∧ asking.UReady [(9, 1), (8, 2)] ∧
      asking.UReady [(10, 2), (8, 2)] ∧ (asking.me.setBound && !asking.me.aset.holds.isEmpty) = false ∧
      NoHome asking ∧
      (∃ t p, TaskPlace asking t (asking.u2 8).toNat 64 .load true p ∧ t.me.setBound = false ∧ ∃ q, Released t q 4) ∧
      (∃ t p, TaskPlace asking t (asking.u2 8).toNat 8 .atomic false p ∧ ∃ q, Released t q 5) ∧
      (∃ t p r, TaskPlace asking t (asking.u2 8).toNat 8 .load false p ∧
        r = (t.chargeLine (t.workOf t.iss.g) (dieOf t.iss.g) p false false).modMe Strand.switchPoint ∧
        r.reached p.addr (r.u2 10) = true ∧ r.reached p.addr 1 = false)) ∧
    ((own (fun t => { t with info := { t.info with setCount := 1 } })).me.setBound = true ∧
      (own (fun t => { t with info := { t.info with setCount := 1 } })).UReady [(8, 2)]) ∧
    (asking.UReady [(8, 2)] ∧ asking.me.handle 3 ≠ .pending ∧ OwnDone asking) ∧
    (((home (.tlsig 0x20000 5)).strand 0).homeOp = some (.tlsig 0x20000 5) ∧
      (0 : DWord) = BitVec.ofNat 64 ((home (.tlsig 0x20000 5)).hbmNat 0x20000 8) ∧ 0 < ((5 : DWord) - 0).toInt ∧
      ((0xFFFFFFFFFFFFFFFF : DWord) - 0).toInt ≤ 0) ∧
    ((home (.tlread 0x20000 8)).strand 0).homeOp = some (.tlread 0x20000 8) ∧
    (((home (.spawn 8 [])).strand 0).homeOp = some (.spawn 8 []) ∧ taskValid [] = false ∧ taskValid (record 0) = true ∧
      ((own (fun t => { t with info := { t.info with depth := 8 } })).strand 0).info.depth + 1 = 9 ∧ ((own).strand 0).info.depth + 1 ≤ 8 ∧
      (own).taskQueueFull 0 = false ∧ ((own).modCtx 0 (fun c => { c with taskCap := 0 })).taskQueueFull 0 = true) ∧
    (((home (.qpush 0x20000 8 4 [7] true)).strand 0).homeOp = some (.qpush 0x20000 8 4 [7] true) ∧
      ((home (.qpop 0x20000 8 4 true)).strand 0).homeOp = some (.qpop 0x20000 8 4 true) ∧
      ((home (.qpop 0x20000 8 4 true)).strand 0).homeWait = false ∧
      ((((header 1 0).serveAll 0x20000 false).taskLine ((header 1 0).workOf 0) 0x20000 true).qhead 0x20000).free ≠ 0 ∧
      ((((header 0 1).serveAll 0x20000 false).taskLine ((header 0 1).workOf 0) 0x20000 true).qhead 0x20000).free = 0 ∧
      ((((header 0 1).serveAll 0x20000 true).taskLine ((header 0 1).workOf 0) 0x20000 true).qhead 0x20000).filled ≠ 0 ∧
      ((((header 1 0).serveAll 0x20000 true).taskLine ((header 1 0).workOf 0) 0x20000 true).qhead 0x20000).filled = 0) ∧
    ((own).strand 0).homeOp = none := by
  unfold OwnDone TaskPlace NoHome State.UReady
  refine ⟨by decide, ⟨by decide, by decide, by decide, by decide, by decide, by decide, by decide,
    ⟨_, _, ⟨by decide, by decide, .inl rfl, _, rfl, by decide, by decide, by decide, rfl⟩, by decide, _, rfl⟩,
    ⟨_, _, ⟨by decide, by decide, .inr (by decide), _, rfl, by decide, by decide, by decide, rfl⟩, _, rfl⟩,
    ⟨_, _, _, ⟨by decide, by decide, .inr (by decide), _, rfl, by decide, by decide, by decide, rfl⟩, rfl, by decide, by decide⟩⟩,
    by decide, by decide, by decide, by decide, by decide, by decide, by decide⟩

/-- A queue of two entries of one word that a queue word may use, a task bound by atomic sets with room in its hold buffer,
and addresses that are not canonical or not aligned. -/
theorem witness_TaskWords_queues :
    (∃ t p, TaskPlace (header 1 1) t ((header 1 1).u2 8).toNat 64 .atomic false p ∧ t.me.setBound = false ∧
      QueueAt t ((header 1 1).u2 8).toNat p 10 0 4 ∧ QueueAt t ((header 1 1).u2 8).toNat p 10 1 4) ∧
    (let s := warm (own (fun t => { t with info := { t.info with setCount := 1 }, uregs := [(8, 0x20000)] }))
     NoHome s ∧ ∃ t p, TaskPlace s t (s.u2 8).toNat 64 .load true p ∧ t.me.setBound = true ∧ t.holdRoom t.iss.g = none ∧
      (t.chargeLine (t.workOf t.iss.g) (dieOf t.iss.g) p false false).holdRoom t.iss.g = none) ∧
    canonical (2 ^ 56) = false ∧ canonical 0x20004 = true ∧ 0x20004 % 8 ≠ 0 ∧ taskValid (record 8) = true ∧
    ((own (fun t => { t with homeDone := true })).strand 0).homeDone = true ∧ ((own).strand 0).homeDone = false := by
  unfold TaskPlace NoHome QueueAt
  refine ⟨⟨_, _, ⟨by decide, by decide, .inr (by decide), _, rfl, by decide, by decide, by decide, rfl⟩, by decide, by decide, by decide⟩,
    ⟨by decide, _, _, ⟨by decide, by decide, .inl rfl, _, rfl, by decide, by decide, by decide, rfl⟩, by decide, by decide, by decide⟩,
    by decide, by decide, by decide, by decide, by decide, by decide⟩

/-- A task of two set slots, with a descriptor in s8 to s11. -/
def setTask (f : SetState → SetState) (v : Word := 1) : State :=
  own (fun t => { t with
    info := { t.info with setCount := 2 }, aset := f t.aset,
    uregs := [(8, 0x20000), (10, 0x400), (11, v), (12, 1), (13, 4), (14, 5), (15, 65)] })

/-- Slot 0 holds the set of 4 granules of 64 bytes at 0x20000. -/
def defined (x : SetState) : SetState := { x with sets := [(0, 0x1_00000400_0000000000020000#128)] }

/-- Granules 0 to 3 of a set lie in it; with 4 from granule 1 the last is beyond it. -/
theorem witness_SetWords :
    (own).me.setBearing = false ∧ (own).UReady [(8, 4)] ∧ (setTask id).me.setBearing = true ∧
    (setTask id).me.info.setCount ≤ (2#2).toNat ∧ (1#2).toNat < (setTask id).me.info.setCount ∧
    (setTask (fun x => { x with granted := true })).me.aset.granted = true ∧ (setTask id).me.aset.granted = false ∧
    descV ((setTask id 0).u128 8) = false ∧ descV ((setTask id).u128 8) = true ∧
    descValid (((setTask id).me.aset.sets.filter (fun x => x.1 != (1#2).toNat)).map (·.2)) ((setTask id).u128 8) = true ∧
    descValid (((setTask defined).me.aset.sets.filter (fun x => x.1 != (1#2).toNat)).map (·.2)) ((setTask defined).u128 8) = false ∧
    (setTask id).UReady [(12, 2)] ∧ (setTask id).UReady [(12, 1), (8, 2)] ∧ (own).u 12 = 0 ∧ 64 < ((setTask id).u 15).toNat ∧
    1 ≤ ((setTask id).u 12).toNat ∧ ((setTask id).u 12).toNat ≤ 64 ∧
    (∃ n x, (setTask defined).me.inSet ((setTask defined).u2 8).toNat = some (n, x) ∧
      0 = (((setTask defined).u2 8).toNat - descBase x) / descSize x ∧ 0 + ((setTask defined).u 13).toNat ≤ descCount x ∧
      descCount x < 0 + ((setTask defined).u 14).toNat) ∧
    (setTask id).UReady [(12, 1)] ∧ (setTask (fun x => { x with serialised := true })).me.aset.serialised = true ∧
    (setTask id).me.aset.serialised = false := by
  unfold State.UReady
  and_intros
  any_goals decide
  exact ⟨_, _, rfl, by decide, by decide, by decide⟩

/-- A session of one entry that the context's strands may read. -/
def counted : State :=
  { own with sessions := [
      { id := 1, ctx := 0, func := 0, strandRd := true, vector := 0, ven := false, entries := [
          { unit := 0, event := 1, value := 7, ovf := false, missed := false, ovfCnt := 0, counter := 0, serving := true }] }] }

/-- Each selector at both ends of its range, and the values beside it. -/
theorem witness_EnergyAndCounterWords :
    (own).UReady [(8, 2)] ∧ (own).UReady [(8, 1), (9, 1)] ∧
    (∃ v, ruleErd own 0 = some v) ∧ (∃ v, ruleErd own 5 = some v) ∧ (∃ v, ruleErd own 0x40 = some v) ∧ (∃ v, ruleErd own 0x5A = some v) ∧
    ruleErd own 6 = none ∧ ruleErd own 0x3F = none ∧ ruleErd own 0x5B = none ∧
    (∃ v, ruleEbkt own 0 = some v) ∧ (∃ v, ruleEbkt own 4 = some v) ∧ ruleEbkt own 5 = none ∧
    (own).readable (own).myCtx = none ∧ (∃ x, counted.readable counted.myCtx = some x ∧ x.entries[(1 : Nat)]? = none ∧
      ∃ e, x.entries[(0 : Nat)]? = some e) ∧
    (let p : Partition := { op := 3, maxop := 5 }
     eopStatus 8 true p = (4, none) ∧ (7 : Nat) < 8 ∧ { p with chg := some 2 }.chg = some 2 ∧ p.chg = none ∧ p.maxop < 6 ∧ 5 ≤ p.maxop ∧
      3 = p.op ∧ 5 ≠ p.op) ∧
    (eopStatus ((own).u 8).toNat ((own).ctx (own).myCtx).eopok ((own).part ((own).ctx (own).myCtx).part)).2 = some 0 ∧
    (eopStatus ((ownU [(8, 7)]).u 8).toNat ((own).ctx (own).myCtx).eopok ((own).part ((own).ctx (own).myCtx).part)).2 = none := by
  unfold State.UReady
  refine ⟨by decide, by decide, ⟨_, rfl⟩, ⟨_, rfl⟩, ⟨_, rfl⟩, ⟨_, rfl⟩, by decide, by decide, by decide, ⟨_, rfl⟩, ⟨_, rfl⟩, by decide,
    by decide, ⟨_, rfl, by decide, ⟨_, rfl⟩⟩, by decide, by decide, by decide⟩

/-- In a handler whose record resumes at a place. -/
def returning (pc : Word) : State := own (fun t => { t with trap := { t.trap with inHandler := true, record := [(4, pc)] } })

theorem witness_ExitAndReturn :
    (own).iss.multi = false ∧ (own).me.trap.inHandler = false ∧ (own).me.flight = none ∧ flying.me.flight ≠ none ∧
    (storing.me.trap.inHandler = false ∧ storing.me.flight = none ∧ storing.untranslated storing.iss.g = true) ∧
    ((after (.mzero false 0) matrixRegs).untranslated 0 = false ∧ (after (.mzero false 0) matrixRegs).mBusy 0 = true ∧
      (after (.mzero false 0) matrixRegs).me.flight = none) ∧
    ((own).untranslated (own).iss.g = false ∧ (own).mBusy (own).iss.g = false ∧
      ∃ q, ((own).raw 1 1).releaseStep (own).iss.g ((own).exitScope (own).iss.g) = (q, true) ∧ q.me.setBearing = false) ∧
    (let s := own (fun t => { t with unacked := 1 })
     s.untranslated s.iss.g = false ∧ s.mBusy s.iss.g = false ∧
      ∃ q, (s.raw 1 1).releaseStep s.iss.g (s.exitScope s.iss.g) = (q, false)) ∧
    ((returning 0x1003C).old.trap.inHandler = true ∧ (returning 0x1003C).old.flight = none ∧
      (returning 0x1003C).untranslated (returning 0x1003C).iss.g = false ∧ pcValid ((returning 0x1003C).old.rec64 4) = false ∧
      pcValid ((returning 0x10040).old.rec64 4) = true) ∧
    (((own).groupBase 2).iss.multi = true ∧ ((own).groupBase 2).old.flight = none ∧
      ((own).groupBase 2).untranslated ((own).groupBase 2).iss.g = false) := by
  refine ⟨by decide, by decide, by decide, by decide, by decide, by decide, ⟨by decide, by decide, _, rfl, by decide⟩,
    ⟨by decide, by decide, _, rfl⟩, by decide, by decide⟩

/-- A set-bearing task at each step of its end: with nothing deferred its entries have all run, and a deferred push to a
full queue has not. -/
theorem witness_ExitAndReturn_sets :
    (∀ n ∈ [0, 1, 2], ∃ q, ((setTask id).modMe (fun t => { t with exitStep := n })).releaseStep 0 ((setTask id).exitScope 0) = (q, true) ∧
      q.me.setBearing = true ∧ q.me.exitStep = n ∧ ∃ r, q.runDeferred 0 q.me.aset.deferred = (r, true)) ∧
    (∃ r, ((setTask id).memWrite { host := false, addr := 0x20000 } (natLe 4 64 ++ natLe 4 1)).runDeferred 0 [.qpush 0x20000 [7]]
      = (r, false)) := by
  refine ⟨?_, ⟨_, rfl⟩⟩
  simp only [List.mem_cons, List.not_mem_nil, or_false]
  rintro n (rfl | rfl | rfl) <;> exact ⟨_, rfl, by decide, by decide, _, rfl⟩

/-- The status of an address of the set and of one outside it; a granule that is not yet held. -/
theorem witness_SetWords_granules :
    (∃ t v, ((warm (setTask defined)).raw 1 1).asStatus 0x20000 = (t, .ok v)) ∧
    (∃ t h, ((setTask defined).raw 1 1).asStatus 0x20000 = (t, .error h)) ∧
    (∃ t p u x, (warm (setTask defined)).translateFor (.group 0) ((setTask defined).workOf 0) 0 0x20000 .load = (t, .ok p) ∧
      t.acquire 0 0x1_00000400_0000000000020000#128 p = (u, x) ∧ x ≠ .held ∧ x ≠ .violation) :=
  ⟨⟨_, _, rfl⟩, ⟨_, _, rfl⟩, ⟨_, _, _, _, rfl, rfl, by decide, by decide⟩⟩

/-! ### States for the events -/

/-- The small state with its die changed. -/
def onDie (f : DieSt → DieSt) : State := (own).modDie 0 f

/-- A load of s9 on its way. -/
def loading : State := after (.uld false 9 8 0) asking

/-- The store of `storing` with its translation. -/
def placed : State := ((warm storing).translateStore 0)

/-- A walker at work on a page. -/
def walking (vpn : Nat) : State := onDie (fun d => { d with walks := [{ id := 5, ctx := 0, vpn := vpn, work := {}, walking := true }] })

/-- A request of a host page that is with the agent, or with the host. -/
def atAgent : State := onDie (fun d => { d with atsReqs := [{ id := 5, ctx := 0, page := 1 }] })
def atHost (n : Nat) : State := onDie (fun d => { d with
  atsReqs := [{ id := 500, ctx := 0, page := 1 }], pri := (List.range n).map (fun i => { id := 5 + i, ctx := 0, page := i }) })

theorem witness_MemoryEvents :
    (∃ id r x, loading.loads.find? (fun r => r.id == id) = some r ∧ (loading.bindLoad r).loads.find? (fun r => r.id == id) = some x ∧
      loading.liveWork x.work = true) ∧ (own).loads = [] ∧ ((own).strand 0).resident = true ∧
    (∃ e p, (placed.core 0).sq.find? (fun x => x.id == (own).nextId) = some e ∧ e.pa = some p) ∧ ((own).core 0).sq = [] ∧
    (∃ l, ({ own with scache := [(9, { dirty := true, writer := {}, owner := 0 })] } : State).scache.find? 9 = some l) ∧
    (own).scache.find? 9 = none ∧
    (∃ w, (((onDie (fun d => { d with walks := [{ id := 5, ctx := 0, vpn := 2, work := {}, walking := false }] })).die 0).walks.filter
        (·.walking)).length < 64 ∧
      ((onDie (fun d => { d with walks := [{ id := 5, ctx := 0, vpn := 2, work := {}, walking := false }] })).die 0).walks.find?
        (fun w => !w.walking) = some w) ∧
    64 ≤ (((onDie (fun d => { d with walks := (List.range 64).map (fun i =>
      { id := i, ctx := 0, vpn := i, work := {}, walking := true }) })).die 0).walks.filter (·.walking)).length ∧
    (∃ w r, ((walking 0x4000).die 0).walks.find? (fun w => w.id == 5 && w.walking) = some w ∧
      ((walking 0x4000).walk w.ctx (w.vpn * 65536)).1 = .error r) ∧
    (∃ w e, ((walking 2).die 0).walks.find? (fun w => w.id == 5 && w.walking) = some w ∧
      ((walking 2).walk w.ctx (w.vpn * 65536)).1 = .ok e) ∧
    (∃ r, (atAgent.die 0).atsReqs.find? (fun x => x.id == 5) = some r) ∧ (atAgent.die 0).pri.length < 64 ∧
    (∃ r, ((atHost 64).die 0).atsReqs.find? (fun x => x.id == 500) = some r) ∧ 64 ≤ ((atHost 64).die 0).pri.length ∧
    (∃ r, ((atHost 1).die 0).pri.find? (fun x => x.id == 5) = some r) := by
  refine ⟨⟨1, _, _, rfl, rfl, by decide⟩, by decide, by decide, ⟨_, _, rfl, rfl⟩, by decide, ⟨_, rfl⟩, by decide, ⟨_, by decide, rfl⟩,
    by decide, ⟨_, _, rfl, rfl⟩, ⟨_, _, rfl, rfl⟩, ⟨_, rfl⟩, by decide, ⟨_, rfl⟩, by decide, ⟨_, rfl⟩⟩

/-- The stored line lands: the four bytes of the entry, and the byte after them. -/
theorem witness_StoresLand :
    ∃ e p, (placed.core 0).sq = [e] ∧ e.pa = some p ∧ e.id ≤ placed.nextId ∧ storedByte e { p with addr := p.addr + 3 } = some 0 ∧
      storedByte e { p with addr := p.addr + 4 } = none ∧ storedByte e { p with host := true } = none :=
  ⟨_, _, rfl, rfl, by decide, by decide, by decide, by decide⟩

/-- A load of one word on its way, the only one of its strand. -/
theorem witness_LoadReturns :
    ∃ id r, loading.loads.find? (fun r => r.id == id) = some r ∧ loading.loads.filter (fun x => x.work.g == r.work.g) = [r] ∧
      r.data = none ∧ r.remote = false ∧ r.raw = false ∧ loading.liveWork r.work = true ∧ r.n = 4 * 1 ∧ r.pa.addr % 64 + r.n ≤ 64 ∧
      (∀ l, (loading.core (coreOf r.work.g)).l1.find? (fun l => l.pa == r.pa.line) = some l → l.data.length = 64) ∧ r.uni = true :=
  ⟨1, _, rfl, rfl, by decide, by decide, by decide, by decide, by decide, by decide,
    fun _ h => (by decide : ∀ l ∈ (loading.core 0).l1, l.data.length = 64) _ (List.mem_of_find?_eq_some h), by decide⟩

/-- A combining entry with two values to apply, and with one. -/
theorem witness_MemoryEvents_flush :
    (∃ e v w l, (((combining own).modCore 0 (fun c => { c with cb := c.cb.map (fun e => { e with vals := [(0, 1), (1, 2)] }) })).core 0).cb.find?
      (fun e => e.id == 900) = some e ∧ e.vals = v :: w :: l) ∧
    (∃ e v, ((combining own).core 0).cb.find? (fun e => e.id == 900) = some e ∧ e.vals = [v]) :=
  ⟨⟨_, _, _, _, rfl, rfl⟩, ⟨_, _, rfl, rfl⟩⟩

/-- A strand that waits. -/
def waitingOn (w : WaitOn) : State := own (fun t => { t with state := .waiting, wait := w })

/-- A message to core 0, of strand 0, and with a stored word for a full place. -/
def message (d : SpDest) : State :=
  (own).modCore 0 (fun c => { c with remote := [{ work := {}, k := 1, off := 0, op := .load 4, dest := d }] })

/-- A block whose last strand has gone. -/
def leftBlock : State :=
  (own).modCore 0 (fun c => { c with blocks := [{ off := 0, lg := 16, ctx := 0, users := [], exitPending := true }] })

/-- A push to, and a pop from, the queue of `header` under way. -/
def transfer (g : Option Nat) : State :=
  { header 0 0 with
    strands := (home (.qpop 0x20000 8 4 false)).strands, xfers := [
      { id := 5, hdr := 0x20000, idx := 0, data := [1, 2, 3, 4], n := 4, g := g, work := {}, d := 8, landed := false, try_ := false }] }

/-- An all-reduce of one rank, of one word. -/
def reducing (bad : Bool) : State :=
  { warm own with
    launches := [(7, { ctx := 0, cmd := [], iface := none, order := 1, coll := [[(0, 0, 0)]] })], colls := [
      { id := 5, launch := 7, grp := 0, n := 1, bad := bad, members := [
          { rank := 0, g := 0, handle := 1, exported := none, work := {}, own := {}, handlerWork := 0, send := 0x20000, recv := 0x20100,
            miss := 0, record := natLe 64 (2 ^ 4 + 2 ^ 32 + 0x20000 * 2 ^ 64 + 0x20100 * 2 ^ 128) }] }] }

/-- The message to core 0 is performed, or its strand waits for the bit. -/
theorem witness_remote_messages :
    (∀ d ∈ [SpDest.none, .slot, .step, .uni 3, .load 2], ∃ m rest t b, ((message d).core 0).remote = m :: rest ∧
      m.dest = d ∧ (message d).liveWork m.work = true ∧
      ((message d).modCore 0 (fun c => { c with remote := rest })).spPerform 0 m.off m.op true = some (t, b)) ∧
    (let s := (own).modCore 0 (fun c => { c with remote := [{ work := {}, k := 1, off := 0, op := .ldfe, dest := .slot }] })
     ∃ m rest, (s.core 0).remote = m :: rest ∧
      (s.modCore 0 (fun c => { c with remote := rest })).spPerform 0 m.off m.op true = none ∧ s.liveWork m.work = true ∧
      s.liveWork { m.work with inc := 9 } = false) ∧
    ((own).core 0).remote = [] ∧
    ((own (fun t => { t with usent := some 3 })).strand 0).usent = some 3 ∧ ((own).strand 0).usent ≠ some 3 ∧
    ((own (fun t => { t with trap := { t.trap with leftSent := some (3, { pc := 0, widx := 0 }) } })).strand 0).trap.leftSent.any (fun x => x.1 == 3) = true ∧
    ((own).strand 0).trap.leftSent.any (fun x => x.1 == 3) = false := by
  refine ⟨?_, ⟨_, _, rfl, rfl, by decide, by decide⟩, rfl, by decide, by decide, by decide, by decide⟩
  simp only [List.mem_cons, List.not_mem_nil, or_false]
  rintro d (rfl | rfl | rfl | rfl | rfl) <;> exact ⟨_, _, _, _, rfl, by decide, by decide, rfl⟩

/-- A V word that waits for the reply of its slot 1. -/
def remoteWaits : State :=
  flying.modStrand 0 (fun t => { t with reply8 := some [1, 2, 3, 4],
                                        flight := t.flight.map (fun f => { f with stop := .remote, cursor := 1 }) })

theorem witness_SynchronisationEvents :
    (∃ f, (remoteWaits.strand 0).flight = some f ∧ f.stop = .remote ∧ f.cursor = 1 ∧ (remoteWaits.strand 0).reply8.isSome = true) ∧
    ((own).strand 0).flight = none ∧ ((own).strand 0).ureply = none ∧
    ((own (fun t => { t with ureply := some [] })).strand 0).ureply.isSome = true ∧
    (((waitingOn (.fullEmpty 0 0 false)).strand 0).wait = .fullEmpty 0 0 false ∧ ((waitingOn (.fullEmpty 0 0 false)).strand 0).state = .waiting ∧
      ((waitingOn (.fullEmpty 0 0 false)).core 0).full 0 = false ∧ ((waitingOn (.fullEmpty 0 0 false)).core 0).full 0 ≠ true) ∧
    (((waitingOn (.byteBarrier 0 0 false)).strand 0).wait = .byteBarrier 0 0 false ∧
      (((waitingOn (.byteBarrier 0 0 false)).core 0).byteBar 0).phase = false ∧
      (((waitingOn (.byteBarrier 0 0 false)).core 0).byteBar 0).phase ≠ true) ∧
    (∃ b, (leftBlock.core 0).blocks.find? (fun b => b.off == 0) = some b ∧ leftBlock.blockReady 0 b = true) ∧
    (∃ b, ((own).core 0).blocks.find? (fun b => b.off == 0) = some b ∧ (own).blockReady 0 b = false) ∧
    (∃ b, (atBarrier id).bars.find? 4 = some b ∧ b.mayArrive 0 = true ∧ passed b.gen 4 = true ∧ passed b.gen 5 = false) ∧
    ((waitingOn (.barrier 4 5)).strand 0).wait = .barrier 4 5 ∧
    (∃ x, (transfer none).xfers.find? (fun x => x.id == 5 && !x.landed) = some x) ∧ (own).xfers = [] ∧
    (∃ x r t, (transfer (some 0)).xfers.find? (fun x => x.id == 5 && !x.landed) = some x ∧ x.g = some 0 ∧
      r = settleXfers (updWhere (fun y => y.id == 5) (fun y => { y with landed := true }) (transfer (some 0)).xfers) x.hdr true ∧ x.role = .word ∧
      t = ({ transfer (some 0) with xfers := r.2 } : State).qput x.hdr 8 ((((transfer (some 0)).qhead x.hdr).free + r.1) % 2 ^ 32) ∧
      t.liveWork x.work = true ∧ (t.strand 0).homeOp = some (.qpop 0x20000 8 4 false)) ∧
    (((waitingOn (.timeline 0x20000 0)).strand 0).wait = .timeline 0x20000 0 ∧ (waitingOn (.timeline 0x20000 0)).reached 0x20000 0 = true ∧
      (waitingOn (.timeline 0x20000 1)).reached 0x20000 1 = false) ∧
    (own).colls = [] ∧ (∃ c, (reducing true).colls.find? (fun c => c.id == 5) = some c ∧ c.bad = true) ∧
    (∃ c, (reducing false).colls.find? (fun c => c.id == 5) = some c ∧ c.bad = false ∧
      c.strangers ((reducing false).localRanks c.launch c.grp) [] = false ∧
      (∀ r ∈ (reducing false).localRanks c.launch c.grp, ∃ m ∈ c.members, m.rank = r) ∧
      ((reducing false).localRanks c.launch c.grp).length = c.n ∧
      ∃ t m p q, (reducing false).collAll 5 c.n c.members = (t, [(m, .ok (p, q))])) := by
  refine ⟨⟨_, rfl, by decide, by decide, by decide⟩, by decide, by decide,
    by decide, by decide, by decide, ⟨_, rfl, by decide⟩, ⟨_, rfl, by decide⟩, ⟨_, rfl, by decide, by decide, by decide⟩, by decide, ⟨_, rfl⟩,
    by decide, ⟨_, _, _, rfl, by decide, rfl, by decide, rfl, by decide, by decide⟩, by decide, by decide, ⟨_, rfl, by decide⟩,
    ⟨_, rfl, by decide, by decide, by decide, by decide, _, _, _, _, rfl⟩⟩

/-- A command of one cohort of one strand of one thread, with more fields. -/
def command (more : Nat) : List Byte :=
  natLe 128 (0x10000 + 2 ^ 64 + 2 ^ 80 + 2 ^ 96 + 2 ^ 112 + 2 ^ 121 + 2 ^ 128 + 2 ^ 133 + more)

/-- Launch 7 at the head of the queue of context 0. -/
def launched (cmd : List Byte) (f : LaunchItem → LaunchItem := id) : State :=
  { own with launches := [(7, f { ctx := 0, cmd := cmd, iface := none, order := 1 })] }

/-- The parts of a queue's head. -/
theorem witness_launch_checks :
    (∃ it, (launched (command (2 ^ 127))).headLaunch 0 = some (7, it) ∧ it.state = .queued ∧ it.commandOk = false) ∧
    (∃ it, (launched (command (2 ^ 147 + 2 ^ 352))).headLaunch 0 = some (7, it) ∧ it.commandOk = true ∧ it.f 147 147 = 1 ∧
      it.f 447 384 ≤ (launched (command (2 ^ 147 + 2 ^ 352))).podTime.toNat) ∧
    (∃ it, (launched (command (2 ^ 146 + 2 ^ 318))).headLaunch 0 = some (7, it) ∧ it.commandOk = true ∧ it.f 147 147 = 0 ∧
      (launched (command (2 ^ 146 + 2 ^ 318))).readMap it = .error .bad) ∧
    (∃ it m t, (launched (command 0)).headLaunch 0 = some (7, it) ∧ it.state = .queued ∧ it.commandOk = true ∧
      (launched (command 0)).readMap it = .ok m ∧ (launched (command 0)).readTable it = .ok t) := by
  refine ⟨⟨_, rfl, by decide, by decide⟩, ⟨_, rfl, by decide, by decide, by decide⟩,
    ⟨_, rfl, by decide, by decide, rfl⟩, ⟨_, _, _, rfl, by decide, by decide, rfl, rfl⟩⟩

/-- A launch whose placement map stands on a host page, and the answer that the die's agent gave. -/
def mapOnHost : State :=
  (launched (command (2 ^ 146 + 2 ^ 286))).memWrite { host := false, addr := 0x3008 } (natLe 8 (0x2F + 2 ^ 30))
def mapAsk (n : Nat) : AskItem := { who := .launch 7, ctx := 0, host := true, page := n }
def mapRefused : State := mapOnHost.modDie 0 (fun d => { d with answers := [(mapAsk 0x4000, 1)] })

theorem witness_launch_host_page :
    (∃ it, mapOnHost.headLaunch 0 = some (7, it) ∧ it.state = .queued ∧ it.commandOk = true ∧ it.f 147 147 ≠ 1 ∧
      mapOnHost.readMap it = .error (.page 0x4000)) ∧
    mapOnHost.takeAnswer 0 (mapAsk 0x4000) = none ∧ (∃ t r, mapRefused.takeAnswer 0 (mapAsk 0x4000) = some (t, r)) := by
  refine ⟨⟨_, rfl, by decide, by decide, by decide, rfl⟩, rfl, _, _, rfl⟩

/-- With eight strand frames in the context's save area. -/
def framed (s : State) : State := s.memWrite { host := false, addr := 0x4100 } (natLe 64 (8 * 2 ^ 64))

/-- Only core 0 serves the partition. -/
def oneCore (s : State) : State :=
  framed { s with cores := s.cores ++ [(1, { retired := true }), (8, { retired := true }), (9, { retired := true })] }

/-- A checked launch that asks for the whole scratchpad of a core, while a halted strand of context 1 keeps a block. -/
def crowded : State :=
  let s := own (fun t => { t with state := .halted, info := { t.info with ctx := 1 } })
  oneCore { s with
    ctxs := [(0, fetchCtx), (1, { fetchCtx with state := .halted })],
    launches := [(7, { ctx := 0, cmd := command (21 * 2 ^ 138), iface := none, order := 1, state := .checked })] }

/-- A task that waits while one quarter of one core can take it. -/
def waitingTask : TaskItem := { id := 6, bytes := record 0, order := 2 }
def queued : State :=
  let full : QuarterSt := { ublkUsed := 256 }
  let s := (own).modCtx 0 (fun c => { c with tasks := [waitingTask] })
  oneCore { s with quarters := s.quarters ++ [(1, full), (2, full), (3, full)] }

/-- With one place to go, a task goes there. -/
theorem taskPlan_one (s : State) (ctx : Nat) (it : TaskItem) (x y : (Nat × Nat) × Claims)
    (h : s.cheapest (s.taskPlaces ctx it) = some x)
    (h1 : (s.taskPlaces ctx it).filter (fun z => s.planBytes z.2 == s.planBytes x.2) = [y]) : s.taskPlan ctx it = some y := by
  simp [State.taskPlan, h, h1, Nat.mod_one]

theorem queued_goes : queued.taskPlan 0 waitingTask = some ((0, 0), []) := taskPlan_one _ _ _ ((0, 0), []) ((0, 0), []) (by decide) (by decide)

theorem queued_picked : queued.pickItem 0 = some (0, .task waitingTask 0 0, []) := by
  have h : queued.headItem 0 = some (.task waitingTask 0 0, []) := by
    have h1 : queued.headLaunch 0 = none := rfl
    have h2 : queued.waitingTasks 0 = [waitingTask] := rfl
    simp [State.headItem, h1, h2, queued_goes]
  have h3 : queued.placers 0 = [(0, queued.ctx 0)] := rfl
  simp [State.pickItem, h3, h]

/-- A gang member. -/
def gang (f : LaunchItem → LaunchItem := id) : State := launched (command (2 ^ 147 + 2 ^ 352 + 9 * 2 ^ 320 + 2 ^ 384)) f

theorem witness_LaunchEvents :
    (∃ it, (launched (command (2 ^ 127))).headLaunch 0 = some (7, it) ∧ it.state = .queued ∧ it.commandOk = false) ∧
    (∃ it, (gang).launch? 7 = some it ∧ it.f 351 320 = (9#32).toNat ∧ it.f 447 384 = (1#64).toNat ∧ it.f 351 320 ≠ (8#32).toNat ∧
      it.f 147 147 = 1 ∧ (gang).coordinates it = true ∧ it.ready.eraseDups.length ≠ it.f 362 352 ∧ it.started = false ∧ it.go = false) ∧
    (∃ it, (gang (fun x => { x with ready := [0], go := true })).launch? 7 = some it ∧ it.ready.eraseDups.length = it.f 362 352 ∧ it.go = true) ∧
    (∃ it, (gang (fun x => { x with started := true })).launch? 7 = some it ∧ it.started = true) ∧
    (own).pickItem 0 = none ∧
    (∃ l it p, (framed (launched (command 0) (fun x => { x with state := .checked }))).pickItem 0 = some (0, .unit l it p, []) ∧
      ((framed (launched (command 0) (fun x => { x with state := .checked }))).placeUnit l it p).headLaunch 0 = none) ∧
    (queued.pickItem 0 = some (0, .task waitingTask 0 0, []) ∧ (queued.stepFree.placeTask 0 waitingTask 0 0).headLaunch 0 = none) ∧
    (∃ i c cs, crowded.pickItem 0 = some (0, i, c :: cs)) ∧
    (((own).modCore 0 (fun c => { c with reserved := some { off := 0, lg := 21, ctx := 0, order := 0 } })).core 0).reserved ≠ none ∧
    (∃ it, (gang).launch? 7 = some it ∧ it.f 351 320 ≠ (8#32).toNat ∧ it.heard = true ∧ it.differ = [] ∧
      { it with peers := [5] }.heard = false ∧ { it with differ := [5] }.differ ≠ []) ∧
    (∃ it, (launched (command (2 ^ 147 + 2 ^ 353)) (fun x => { x with differ := [5] })).launch? 7 = some it ∧ it.heard = true ∧
      it.differ ≠ [] ∧ it.differ.contains ((it.peers ++ it.differ).foldl min 0) = false ∧
      it.differ.contains ((it.peers ++ it.differ).foldl min 6) = true) := by
  refine ⟨⟨_, rfl, by decide, by decide⟩, ⟨_, rfl, by decide⟩, ⟨_, rfl, by decide, by decide⟩, ⟨_, rfl, by decide⟩, ?_,
    ⟨_, _, _, rfl, ?_⟩, ⟨queued_picked, ?_⟩, ⟨_, _, _, rfl⟩, ?_, ⟨_, rfl, ?_⟩, ⟨_, rfl, ?_⟩⟩ <;> decide

/-- A checked launch that asks for the whole scratchpad of a core, with blocks on core 0. -/
def asksSpad (l : List SpBlock) : State :=
  (launched (command (21 * 2 ^ 138)) (fun x => { x with state := .checked })).modCore 0 (fun c => { c with blocks := l })

/-- A block of 64 KB whose last strand has gone. -/
def gone (off : Nat) : SpBlock := { off := off, lg := 16, ctx := 0, users := [], exitPending := true }

/-- The request waits; the range is free where the block has gone from elsewhere, and is not where it has not: R165's
first range of 2^20 bytes is held, its second is free. -/
theorem witness_LaunchEvents_reservation :
    spadAsks (asksSpad []) 0 21 = [(1, 0)] ∧ spadAsks (asksSpad []) 0 20 = [] ∧ (asksSpad []).partOfCore 0 = some 0 ∧
    ((asksSpad []).core 0).reserved = none ∧ RangeFree (asksSpad []) 0 21 0 ∧ ¬RangeFree (asksSpad [gone 0]) 0 21 0 ∧
    (∀ i, i < 2 ^ (21 - 21) → ¬RangeFree (asksSpad [gone 0]) 0 21 i) ∧
    ¬RangeFree (asksSpad [gone 0]) 0 20 0 ∧ RangeFree (asksSpad [gone 0]) 0 20 1 := by
  unfold RangeFree
  and_intros
  all_goals decide

/-- Requests, holds and releases of a home slice, with a second task on slot 1, which is older unless its stamp is 9. -/
def slice0 (x : SliceSt) : State :=
  { own with strands := [(0, fetchStrand 0), (1, { fetchStrand 0 with info := { (fetchStrand 0).info with stamp := 9 } })], slices := [(0, x)] }

/-- The task of slot 0, and the younger one of slot 1. -/
def first : TaskAge := (slice0 {}).ageOf 0
def later : TaskAge := (slice0 {}).ageOf 1

/-- A granule. -/
def gran : Granule := { base := 0x20000, glog := 0 }

/-- A set-bearing strand in a set state. -/
def inSets (x : SetState) (f : Strand → Strand := id) : State :=
  own (fun t => f { t with info := { t.info with setCount := 1 }, aset := x })

/-- The youngest of many entries of one task is one of them. -/
theorem youngest_replicate {α : Type} (s : State) (f : α → TaskAge) (e : α) (n : Nat) :
    s.youngest f (List.replicate (n + 1) e) = some e := by
  induction n with
  | zero => rfl
  | succ n ih => simp [List.replicate_succ, State.youngest] at ih ⊢; rw [ih]; simp

/-- Requests: a live task's or a dead one's, of a granule that is free, held by the same task, by a younger or by an older
one. -/
theorem witness_SetEvents_requests :
    (((slice0 { reqs := [(first, gran)] }).slice 0).reqs = [(first, gran)] ∧
      ((slice0 { reqs := [(first, gran)] }).modSlice 0 (fun h => { h with reqs := [] })).liveWork first.work = true ∧
      ((slice0 { reqs := [(first, gran)] }).modSlice 0 (fun h => { h with reqs := [] })).liveWork { first.work with inc := 7 } = false) ∧
    (((slice0 {}).slice 0).holdTable.find? (fun e => e.gran == gran) = none ∧ ((slice0 {}).slice 0).holdTable.length < 2048) ∧
    (∀ e ∈ [HoldEntry.mk { gran with base := 0 } later, HoldEntry.mk { gran with base := 0 } first],
      ((slice0 { holdTable := List.replicate 2048 e }).slice 0).holdTable.find? (fun e => e.gran == gran) = none ∧
      2048 ≤ ((slice0 { holdTable := List.replicate 2048 e }).slice 0).holdTable.length ∧
      (slice0 { holdTable := List.replicate 2048 e }).youngest HoldEntry.task
        ((slice0 { holdTable := List.replicate 2048 e }).slice 0).holdTable = some e) ∧
    ((slice0 {}).older first later = true ∧ (slice0 {}).older later first = false) ∧
    (∀ a ∈ [first, later], ((slice0 { holdTable := [{ gran := gran, task := a }] }).slice 0).holdTable.find? (fun e => e.gran == gran) =
      some { gran := gran, task := a }) ∧
    (first.work = first.work ∧ later.work ≠ first.work) ∧
    (((slice0 {}).slice 0).waitList.length < 8 ∧
      (∀ a ∈ [first, later], let l := List.replicate 8 ({ task := a, gran := gran, slot := false } : WaitEntry)
       8 ≤ ((slice0 { waitList := l }).slice 0).waitList.length ∧
        (slice0 { waitList := l }).youngest WaitEntry.task ((slice0 { waitList := l }).slice 0).waitList =
          some { task := a, gran := gran, slot := false })) ∧
    ((own).slice 0).reqs = [] ∧ ((own).slice 0).rels = [] := by
  refine ⟨by decide, by decide, ?_, by decide, by decide, by decide, by decide, by decide, by decide⟩
  intro e he
  have hg : e.gran ≠ gran := by
    simp only [List.mem_cons, List.not_mem_nil, or_false] at he
    rcases he with rfl | rfl <;> decide
  have h : ((slice0 { holdTable := List.replicate 2048 e }).slice 0).holdTable = List.replicate 2048 e := rfl
  rw [h]
  refine ⟨?_, by simp, youngest_replicate _ _ _ 2047⟩
  simp only [List.find?_eq_none, List.mem_replicate]
  rintro x ⟨-, rfl⟩
  simpa using hg

/-- Releases, wounds, rollbacks, the token, the delay and the drain. -/
theorem witness_SetEvents :
    (((own).strand 0).resident = true ∧ gran ∉ ((own).strand 0).aset.holds ∧
      gran ∈ ((inSets { holds := [gran] }).strand 0).aset.holds) ∧
    (∀ w ∈ [none, some gran], let x : SliceSt := { rels := [(first, w)], holdTable := [{ gran := gran, task := first }] }
     ((slice0 x).slice 0).rels = [(first, w)] ∧ released first w { gran := gran, task := first } = true ∧
      released first w { gran := gran, task := later } = false ∧ ((slice0 x).strand 0).resident = true ∧
      ((slice0 x).strand 0).info.stamp = first.stamp ∧ ((slice0 x).strand 0).info.stamp ≠ later.stamp ∧
      ((slice0 x).strand 9).resident = false) ∧
    ((slice0 { waitList := [{ task := later, gran := gran, slot := false }] }).oldest WaitEntry.task
      ((((slice0 { waitList := [{ task := later, gran := gran, slot := false }] }).slice 0).waitList).filter (fun e => e.gran == gran)) =
        some { task := later, gran := gran, slot := false }) ∧
    (∀ e ∈ ((slice0 {}).slice 0).waitList, e.gran ≠ gran) ∧
    (∃ g t, List.find? (fun x => x.2.resident && x.2.setBound && x.2.info.stamp == first.stamp && x.2.aset.restarts == 0) (inSets {}).strands =
      some (g, t)) ∧
    (∀ x ∈ (inSets {}).strands, x.2.resident = true → x.2.setBound = true → x.2.info.stamp = first.stamp → x.2.aset.restarts ≠ 1) ∧
    (((inSets { rolling := true }).strand 0).resident = true ∧ ((inSets { rolling := true }).strand 0).aset.rolling = true ∧
      ((inSets { rolling := true }).strand 0).runsFirst = false ∧ ((inSets { rolling := true }).strand 0).aset.acks = 0 ∧
      ((inSets { rolling := true }).strand 0).spilt = {} ∧
      ((inSets { rolling := true } (fun t => { t with spilt := { rows := 1 } })).strand 0).spilt ≠ {} ∧
      ((inSets { rolling := true, acks := 1 }).strand 0).aset.acks ≠ 0 ∧
      (let s := memEntered addressing (.vlds false 2 1 0) (formOf (.vlds false 2 1 0)) .stores
       ((s.modStrand 0 (fun t => { t with aset := { t.aset with rolling := true } })).strand 0).runsFirst = true)) ∧
    (({ own with tokenHeld := true } : State).tokenHeld = true ∧
      ({ waitingOn .token with serialWait := [0] } : State).tokenHeld = false ∧
      ({ waitingOn .token with serialWait := [0] } : State).oldest ({ waitingOn .token with serialWait := [0] } : State).ageOf [0] = some 0 ∧
      ((waitingOn .token).strand 0).state = .waiting) ∧
    (((waitingOn .retry).strand 0).wait = .retry ∧ ((waitingOn .retry).strand 0).aset.rolling = false ∧
      (((waitingOn .retry).strand 0).aset.retryAt - (waitingOn .retry).podTime).toInt ≤ 0 ∧
      0 < (((inSets { retryAt := 5 }).strand 0).aset.retryAt - (own).podTime).toInt) ∧
    (let s := inSets { committing := true } (fun t => { t with exitStep := 1 })
     (s.strand 0).aset.committing = true ∧ (s.strand 0).exitStep = 1 ∧ (s.strand 0).spilt.lines = 0 ∧ (s.strand 0).aset.lines = []) ∧
    (((own (fun t => { t with spilt := { lines := 1 } })).strand 0).spilt.lines ≠ 0 ∧ ((own).strand 0).aset.committing = false) := by
  refine ⟨by decide, by decide, rfl, by decide, ⟨_, _, rfl⟩, by decide, by decide, by decide, by decide, by decide, by decide⟩

/-- A task that commits with one held line, which is the one that drains. -/
theorem witness_SetEvents_drain (l : HeldLine) :
    let s := inSets { committing := true, lines := [l] } (fun t => { t with exitStep := 1 })
    (s.strand 0).aset.committing = true ∧ (s.strand 0).exitStep = 1 ∧ (s.strand 0).spilt.lines = 0 ∧
      (s.strand 0).aset.lines[Config.pick s.free % (s.strand 0).aset.lines.length]? = some l := by
  have h : ((inSets { committing := true, lines := [l] } (fun t => { t with exitStep := 1 })).strand 0).aset.lines = [l] := rfl
  refine ⟨rfl, rfl, rfl, ?_⟩
  rw [h]
  simp [Nat.mod_one]

/-- The layout of an operand at an address, with rows of 128 bytes. -/
def layoutAt (va : Nat) : BitVec 128 := BitVec.ofNat 128 (va + 128 * 2 ^ 64)

/-- An MMA of one row on tile 0, with its A at an address. -/
def mmaAt (va : Nat) : MmaArgs := { fmt := 0, la := layoutAt va, lb := layoutAt 0x20000, fms := [], sel := 1, r0 := 0 }

/-- The place of a row of 32 units whose last begins the second page. -/
def split : Nat := 0x30000 - 124

/-- Operands that are staged. -/
def ready : Staging := { b := [], scales := [], a := [] }

/-- An entry of the queue, of the strand. -/
def entryOf (k : MKind) (staged : Option Staging) (running : Bool) (row : Nat) (pos : Nat := 0) (fail : Option PipeStop := none) : MEntry :=
  { id := 5, work := {}, tile := 0, kind := k, staged := staged, running := running, row := row, handlerWork := 0, pos := pos, fail := fail }

/-- The queue of the strand's quarter. -/
def queue (l : List MEntry) (u : UnitState := .running) (s : State := own) : State := s.modQuarter 0 (fun x => { x with mq := l, unit := u })

/-- The translation of the page of 64 KB at 0x20000 stands in the core's TLB, and no other. -/
def halfWarm : State :=
  (own).modCore 0 (fun c => { c with tlb := [{ ctx := 0, base := 0x20000, lg := 16, pa := 0x20000, typ := 0, r := true, w := true, x := true,
                                               key := 1, other := false }] })

/-- A stop of the pipes. -/
def stopped : PipeStop := { page := false, info := { cause := .loadFault } }

/-- A unit of no MX unit takes no scale byte, and its bytes are its own. -/
def Plain (u : PipeUnit) : Prop := u.lead = 0 ∧ u.inside = false ∧ u.scale = none ∧ u.opnd < 2

/-- The first unit that is left says what a step of the pipes does: it waits, stops, or is read and is the last, or is read
before one that waits. -/
theorem pipeStep_stops {s : State} {e : MEntry} {l : List PipeUnit} {u : PipeUnit} (h : (l.drop e.pos).head? = some u)
    (hl : u.lead = 0) (hw : (s.stepFree.pipeUnit e u).2 = .wait) : (s.pipeStep e l).2 = e := by
  obtain ⟨r, hr⟩ := List.head?_eq_some_iff.mp h
  rcases hp : s.stepFree.pipeUnit e u with ⟨t, x⟩
  rw [hp] at hw
  subst hw
  simp [State.pipeStep, hr, Nat.add_comm 1, State.readUnits, State.blockWaits, hl, hp]
theorem pipeStep_fails {s : State} {e : MEntry} {l : List PipeUnit} {u : PipeUnit} {x : PipeStop} (h : (l.drop e.pos).head? = some u)
    (hl : u.lead = 0) (hw : (s.stepFree.pipeUnit e u).2 = .stop x) : (s.pipeStep e l).2 = { e with fail := some x } := by
  obtain ⟨r, hr⟩ := List.head?_eq_some_iff.mp h
  rcases hp : s.stepFree.pipeUnit e u with ⟨t, y⟩
  rw [hp] at hw
  subst hw
  simp [State.pipeStep, hr, Nat.add_comm 1, State.readUnits, State.blockWaits, hl, hp]
theorem pipeStep_done {s : State} {e : MEntry} {l : List PipeUnit} (h : l.drop e.pos = []) : s.pipeStep e l = (s, e) := by
  simp [State.pipeStep, h]
theorem pipeStep_last {s : State} {e : MEntry} {l : List PipeUnit} {u : PipeUnit} {b : List Byte} {p : Option PAddr}
    (h : l.drop e.pos = [u]) (hu : Plain u) (hw : (s.stepFree.pipeUnit e u).2 = .ok b p) : (s.pipeStep e l).2 = e.took b p := by
  obtain ⟨hl, -, hs, ho⟩ := hu
  rcases hp : s.stepFree.pipeUnit e u with ⟨t, y⟩
  rw [hp] at hw
  subst hw
  simp only [State.pipeStep, h, Nat.add_comm 1]
  generalize Config.pick s.free % _ = n
  simp [State.readUnits, State.blockWaits, State.takeScale, MEntry.valueOf, PipeUnit.scaleUnit, hl, hs, ho, hp]
theorem pipeStep_one {s t : State} {e : MEntry} {l : List PipeUnit} {u v : PipeUnit} {b : List Byte} {p : Option PAddr}
    (h : l.drop e.pos = [u, v]) (hu : Plain u) (hk : Plain v) (hw : s.stepFree.pipeUnit e u = (t, .ok b p))
    (hv : ((t.landUnit e u.n p).pipeUnit (e.took b p) v).2 = .wait) : (s.pipeStep e l).2 = e.took b p := by
  obtain ⟨hl, -, hs, ho⟩ := hu
  obtain ⟨kl, ki, -, -⟩ := hk
  rcases hp : (t.landUnit e u.n p).pipeUnit (e.took b p) v with ⟨t', y⟩
  rw [hp] at hv
  subst hv
  simp only [State.pipeStep, h, Nat.add_comm 1, State.readUnits, State.blockWaits, hl]
  generalize Config.pick s.free % _ = n
  cases n <;> simp [State.readUnits, State.blockWaits, State.takeScale, MEntry.valueOf, PipeUnit.scaleUnit, kl, ki, hs, ho, hw, hp]

/-- A step of the pipes leaves an entry for which a property holds. -/
def StepsTo (s : State) (e : MEntry) (l : List PipeUnit) (p : MEntry → Prop) : Prop := ∃ t e', s.pipeStep e l = (t, e') ∧ p e'

theorem stepsTo {s : State} {e e' : MEntry} {l : List PipeUnit} {p : MEntry → Prop} (h : (s.pipeStep e l).2 = e') (hp : p e') :
    StepsTo s e l p := ⟨(s.pipeStep e l).1, e', by rw [← h], hp⟩

/-- The pipes of a running row wait, stop, read on and read its last unit. -/
theorem witness_MatrixEvents_rows :
    (∀ x ∈ [mmaAt 0x20000, mmaAt (2 ^ 60), mmaAt split], ∀ n ∈ [0, 30, 31],
      AtRow (queue [entryOf (.mma x) (some ready) true 0 n]) 0 (entryOf (.mma x) (some ready) true 0 n) x ready ∧
      rowSelected x.sel (entryOf (.mma x) (some ready) true 0 n).row = true ∧ (entryOf (.mma x) (some ready) true 0 n).fail = none) ∧
    (AtRow (queue [entryOf (.mma (mmaAt 0x20000)) (some ready) true 63 0]) 0 (entryOf (.mma (mmaAt 0x20000)) (some ready) true 63 0)
        (mmaAt 0x20000) ready ∧ rowSelected (mmaAt 0x20000).sel 63 = false) ∧
    (AtRow (queue [entryOf (.mma (mmaAt 0x20000)) (some ready) true 0 0 (some stopped)]) 0
        (entryOf (.mma (mmaAt 0x20000)) (some ready) true 0 0 (some stopped)) (mmaAt 0x20000) ready ∧
      (entryOf (.mma (mmaAt 0x20000)) (some ready) true 0 0 (some stopped)).fail.isSome = true) ∧
    StepsTo (queue [entryOf (.mma (mmaAt 0x20000)) (some ready) true 0]) (entryOf (.mma (mmaAt 0x20000)) (some ready) true 0)
      (rowUnitsOf (mmaAt 0x20000) 0) (fun e => e.pos < (rowUnitsOf (mmaAt 0x20000) 0).length ∧ e.fail = none ∧ e.pos = 0) ∧
    StepsTo (queue [entryOf (.mma (mmaAt (2 ^ 60))) (some ready) true 0]) (entryOf (.mma (mmaAt (2 ^ 60))) (some ready) true 0)
      (rowUnitsOf (mmaAt (2 ^ 60)) 0) (fun e => e.pos < (rowUnitsOf (mmaAt (2 ^ 60)) 0).length ∧ e.fail.isSome = true) ∧
    StepsTo (queue [entryOf (.mma (mmaAt 0x20000)) (some ready) true 0 31] .running (warm own))
      (entryOf (.mma (mmaAt 0x20000)) (some ready) true 0 31) (rowUnitsOf (mmaAt 0x20000) 0)
      (fun e => (rowUnitsOf (mmaAt 0x20000) 0).length ≤ e.pos) ∧
    StepsTo (queue [entryOf (.mma (mmaAt split)) (some ready) true 0 30] .running halfWarm)
      (entryOf (.mma (mmaAt split)) (some ready) true 0 30) (rowUnitsOf (mmaAt split) 0)
      (fun e => e.pos < (rowUnitsOf (mmaAt split) 0).length ∧ e.fail = none ∧ e.pos ≠ 30) := by
  refine ⟨?_, ⟨⟨rfl, rfl, rfl, by decide⟩, by decide⟩, ⟨⟨rfl, rfl, rfl, by decide⟩, by decide⟩,
    stepsTo (pipeStep_stops (u := { va := 0x20000, n := 4, elem := some (false, 0), opnd := 0 }) (by decide) rfl (by decide)) (by decide),
    stepsTo (pipeStep_fails (u := { va := 2 ^ 60, n := 4, elem := some (false, 0), opnd := 0 }) (by decide) rfl (by rfl)) (by decide),
    stepsTo (pipeStep_last (u := { va := 0x2007C, n := 4, elem := some (false, 0), opnd := 0 }) (by decide) ⟨rfl, rfl, rfl, by decide⟩ (by rfl)) (by decide),
    stepsTo (pipeStep_one (u := { va := 0x2FFFC, n := 4, elem := some (false, 0), opnd := 0 })
      (v := { va := 0x30000, n := 4, elem := some (false, 0), opnd := 0 }) (by decide) ⟨rfl, rfl, rfl, by decide⟩ ⟨rfl, rfl, rfl, by decide⟩ rfl (by decide)) (by decide)⟩
  intro x hx n hn
  simp only [List.mem_cons, List.not_mem_nil, or_false] at hx hn
  rcases hx with rfl | rfl | rfl <;> rcases hn with rfl | rfl | rfl <;> exact ⟨⟨rfl, rfl, rfl, by decide⟩, by decide, rfl⟩

/-- With its B at an address. -/
def mmaB (va : Nat) : MmaArgs := { mmaAt 0x20000 with lb := layoutAt va }

/-- The place of 64 rows whose last unit begins the second page. -/
def splitB : Nat := 0x30000 - 8188

/-- The units that staging reads are the 64 rows of 32 of B. -/
theorem stage_units (va : Nat) : (stageUnits (mmaB va)).length = 2048 := by
  have h : (layoutOf (layoutAt 0x20000)).tr = false := by decide
  simp [stageUnits, mmaB, mmaAt, mmaMx, h, Layout.rows, Layout.rowUnits, Layout.rowBytes, mmaK, mmaBits, Layout.alongK] <;> decide

/-- The pipes of a staging wait, stop, read on and are at its end. -/
theorem witness_MatrixEvents_staging :
    (∀ x ∈ [mmaB 0x20000, mmaB (2 ^ 60), mmaB splitB], ∀ n ∈ [0, 2046, 2048],
      Stages (queue [entryOf (.mma x) none false 0 n]) 0 5 (entryOf (.mma x) none false 0 n) x) ∧
    StepsTo (queue [entryOf (.mma (mmaB 0x20000)) none false 0]) (entryOf (.mma (mmaB 0x20000)) none false 0)
      (stageUnits (mmaB 0x20000)) (fun e => e.pos < (stageUnits (mmaB 0x20000)).length ∧ e.fail = none ∧ e.pos = 0) ∧
    StepsTo (queue [entryOf (.mma (mmaB (2 ^ 60))) none false 0]) (entryOf (.mma (mmaB (2 ^ 60))) none false 0)
      (stageUnits (mmaB (2 ^ 60))) (fun e => e.pos < (stageUnits (mmaB (2 ^ 60))).length ∧ e.fail.isSome = true) ∧
    StepsTo (queue [entryOf (.mma (mmaB 0x20000)) none false 0 2048]) (entryOf (.mma (mmaB 0x20000)) none false 0 2048)
      (stageUnits (mmaB 0x20000)) (fun e => (stageUnits (mmaB 0x20000)).length ≤ e.pos) ∧
    StepsTo (queue [entryOf (.mma (mmaB splitB)) none false 0 2046] .running halfWarm) (entryOf (.mma (mmaB splitB)) none false 0 2046)
      (stageUnits (mmaB splitB)) (fun e => e.pos < (stageUnits (mmaB splitB)).length ∧ e.fail = none ∧ e.pos ≠ 2046) := by
  refine ⟨?_, 
    stepsTo (pipeStep_stops (u := { va := 0x20000, n := 4, elem := some (false, 0), opnd := 1 }) (by decide) rfl (by decide))
      ⟨by rw [stage_units]; decide, rfl, rfl⟩,
    stepsTo (pipeStep_fails (u := { va := 2 ^ 60, n := 4, elem := some (false, 0), opnd := 1 }) (by decide) rfl (by rfl))
      ⟨by rw [stage_units]; decide, rfl⟩,
    ⟨_, _, pipeStep_done (by decide +kernel), by rw [stage_units]; decide⟩,
    stepsTo (pipeStep_one (u := { va := 0x2FFFC, n := 4, elem := some (false, 0), opnd := 1 })
      (v := { va := 0x30000, n := 4, elem := some (false, 0), opnd := 1 }) (by decide +kernel) ⟨rfl, rfl, rfl, by decide⟩ ⟨rfl, rfl, rfl, by decide⟩ rfl (by decide))
      ⟨by rw [stage_units]; decide, rfl, by decide⟩⟩
  intro x hx n hn
  simp only [List.mem_cons, List.not_mem_nil, or_false] at hx hn
  rcases hx with rfl | rfl | rfl <;> rcases hn with rfl | rfl | rfl <;> exact ⟨rfl, rfl⟩

/-- The first of two units of an MX unit, and its second. -/
def mxLead : PipeUnit := { va := 0x20000, n := 4, elem := some (false, 0), opnd := 0, lead := 1, scale := some 0x20100 }
def mxNext : PipeUnit := { va := 0x20004, n := 4, elem := some (false, 0), opnd := 0, inside := true }

/-- An MX unit whose page is not translated waits as a whole; a scale byte has been read with its elements. -/
theorem witness_MatrixEvents_units :
    (∃ v, (own).blockWaits (entryOf (.mma (mmaAt 0x20000)) none false 0) mxLead [mxNext] = (v, true)) ∧
    (∃ v t b p, (warm own).blockWaits (entryOf (.mma (mmaAt 0x20000)) none false 0) mxLead [mxNext] = (v, false) ∧
      v.pipeUnit (entryOf (.mma (mmaAt 0x20000)) none false 0) mxLead = (t, .ok b p)) ∧
    mxLead.lead ≠ 0 ∧ mxNext.lead = 0 ∧ [mxNext].head?.any (fun x => x.inside) = true ∧ mxLead.opnd < 2 ∧
    (let e := { entryOf (.mma (mmaAt 0x20000)) none false 0 with got := { scales := [(0x20100, 7)] } }
     e.got.scales.find? (fun y => y.1 == 0x20100) = some (0x20100, 7)) := by
  refine ⟨⟨_, rfl⟩, ⟨_, _, _, _, rfl, rfl⟩, by decide, by decide, by decide, by decide, by decide⟩

/-- Finite and infinite products and sums, a sum that is zero, and each kind of the element that they are added to. -/
theorem witness_MatrixElements :
    (∃ x ∈ [FVal.nan false, .inf true], x.isNaN = true) ∧ (.inf true ∈ [FVal.inf true, .inf false] ∧ .inf false ∈ [FVal.inf true, .inf false]) ∧
    ((∀ x ∈ [FVal.inf true, .fin false 1 0], x.isNaN = false) ∧ FVal.inf true ∈ [FVal.inf true, .fin false 1 0] ∧
      FVal.inf (!true) ∉ [FVal.inf true, .fin false 1 0]) ∧
    (∀ x ∈ [FVal.fin false 1 0, .fin true 1 0], ∃ n m e, x = .fin n m e ∧ (0 : Int) ≤ e) ∧
    ([FVal.fin false 1 0, .fin true 1 0].map (exactIn 0)).sum = 0 ∧ f32Finite 0x3F800000 ∧
    f32Val 0x3F800000 * 2 ^ ((-149 : Int) - -149).toNat + exactIn (-149) (.fin true 1 0) = 0 ∧
    f32Val 0x3F800000 * 2 ^ ((-149 : Int) - -149).toNat + exactIn (-149) (.fin false 1 0) ≠ 0 ∧
    0x7F800000 < (0x7FC00000#32).toNat % 2 ^ 31 := by
  unfold f32Finite
  refine ⟨by decide, by decide, by decide, ?_, by decide, by decide, by decide, by decide, by decide⟩
  intro x hx
  simp only [List.mem_cons, List.not_mem_nil, or_false] at hx
  rcases hx with rfl | rfl <;> exact ⟨_, _, _, rfl, by decide⟩

/-- Units that are ready in each state of the unit, one that runs, one that stops, a last row, and words of the port of a
live strand and of none. -/
theorem witness_MatrixEvents :
    ((rowUnitsOf (mmaAt 0x20000) 0).drop 32 = [] ∧ (rowUnitsOf (mmaAt 0x20000) 0).drop 31 ≠ []) ∧
    (∀ u ∈ [UnitState.running, .idle, .stopping], ∃ e, ((queue [entryOf (.mma (mmaAt 0x20000)) (some ready) false 0] u).quarter 0).ready = some e ∧
      ((queue [entryOf (.mma (mmaAt 0x20000)) (some ready) false 0] u).quarter 0).current = none ∧
      ((queue [entryOf (.mma (mmaAt 0x20000)) (some ready) false 0] u).quarter 0).unit = u) ∧
    ((own).quarter 0).ready = none ∧ ((own).quarter 0).current = none ∧
    ((queue [entryOf (.mma (mmaAt 0x20000)) (some ready) true 0]).quarter 0).current ≠ none ∧
    (rowUnitsOf (mmaAt 0x20000) 0).isEmpty = false ∧
    (rowUnitsOf { mmaAt 0x20000 with la := BitVec.ofNat 128 (0x20000 + 128 * 2 ^ 64 + 2 ^ 99) } 0).isEmpty = true ∧
    (∃ e x, ((queue [entryOf (.mma (mmaAt 0x20000)) (some ready) true 0 0 (some stopped)]).quarter 0).stops = some (e, x)) ∧
    ((own).quarter 0).stops = none ∧
    (∃ e, ((queue [entryOf (.mma (mmaAt 0x20000)) (some ready) true 64]).quarter 0).current = some e ∧ 64 ≤ e.row) ∧
    (∀ k ∈ [MKind.mtov 1 0 0, .mzero 1, .mfromv 1 0 [], .mdrain 5], ∃ e,
      ((queue [entryOf k none false 0]).quarter 0).mq.find? (fun e => e.tile == 0) = some e ∧ e.kind = k ∧
      ((queue [entryOf k none false 0]).dropM 0 e.id).liveWork e.work = true ∧
      ((queue [entryOf k none false 0]).dropM 0 e.id).liveWork { e.work with inc := 7 } = false) ∧
    (entryOf (.mma (mmaAt 0x20000)) none false 0).kind.isMma = true ∧
    (∃ x, ((own).modQuarter 0 (fun x => { x with request := true })).quarters = [(0, x)] ∧ dieOfCore (coreOfQuarter 0) = 0 ∧ x.unit = .idle ∧
      x.request = true ∧ (((own).modQuarter 0 (fun x => { x with request := true })).grantM 0).quarters =
        [(0, { x with unit := .running, request := false })]) := by
  refine ⟨by decide, ?_, by decide, by decide, by decide, by decide, by decide, ⟨_, _, rfl⟩, by decide, ⟨_, rfl, by decide⟩, ?_, by decide,
    ⟨_, rfl, by decide, by decide, by decide, by decide⟩⟩
  · intro u hu
    simp only [List.mem_cons, List.not_mem_nil, or_false] at hu
    rcases hu with rfl | rfl | rfl <;> exact ⟨_, rfl, by decide, by decide⟩
  · intro k hk
    simp only [List.mem_cons, List.not_mem_nil, or_false] at hk
    rcases hk with rfl | rfl | rfl | rfl <;> exact ⟨_, rfl, rfl, by decide⟩

/-- A request of the core's engine, its global addresses 0x20100 or another. -/
def request (f : CopyReq → CopyReq) (s : State := warm own) (src : Word := 0x20100) (hi : Word := 0) : State :=
  let r : CopyReq :=
    { id := 5, work := {}, own := {}, handle := 1, exported := none, form := 0, regs := [0x20000, 0, src, hi, 64, 0, 0, 0xFFFFFFF0], list := none,
      shape := none, started := false, drain := [], done := [], tagged := [], info := (own).me.info, cancel := false, failed := none,
      status := 0, handlerWork := 0 }
  s.modCore 0 (fun c => { c with creq := [f r] })

/-- The shape of one word, and the same record in memory with a gate. -/
def oneWord : Shape := { fmt := 2, gate := 0, scoff := 0, dims := [{ ext := 1, lo := 0, hi := 10, org := 0, stride := 0 }] }
def shaped (s : State) (gate : Nat) : State :=
  s.memWrite { host := false, addr := 0x20000 } (natLe 128 (2 + 2 ^ 4 + gate * 2 ^ 8 + 2 ^ 64 + 10 * 2 ^ 128))

/-- The second gigabyte is of the other compartment. -/
def twoSides (s : State) : State :=
  ({ s with ctxs := s.ctxs ++ [(1, { fetchCtx with comp := true, keys := [513] })] } : State).memWrite { host := false, addr := 0x3008 }
    (natLe 8 (1 + 2 + 4 + 8 + 16 + 0x40000000 + 513 * 2 ^ 52))

/-- How the read of the request's shape record ends: 0 it is read, 1 it waits, 2 it fails. -/
def shapeRead (s : State) : Nat :=
  match s.creq? 0 5 with
  | none => 9
  | some r =>
    match (s.copyPlaces r.waiter r.work .load 2 (r.pair 0) 128).2 with
    | .ok _ => 0
    | .error .wait => 1
    | .error (.fail _) => 2

/-- The request's shape record is read, is good or not, and is refused by a gate or not. -/
def readsShape (s : State) (good refused : Bool) : Bool :=
  match s.creq? 0 5 with
  | none => false
  | some r =>
    match s.copyPlaces r.waiter r.work .load 2 (r.pair 0) 128 with
    | (t, .ok ps) =>
      let x := shapeOf (ps.flatMap (fun p => t.homeBytes 0 p 1))
      r.shapeOk x == good && t.gateRefuses r x.shape == refused
    | _ => false

/-- Requests that start, wait, fail, or end. -/
theorem witness_CopyEvents_start :
    (own).creq? 0 5 = none ∧
    (∃ r, (request id).creq? 0 5 = some r ∧ r.started = false ∧ r.failed = none ∧ r.form < 6 ∧ r.regs ≠ []) ∧
    (∃ r, (request (fun r => { r with form := 6 })).creq? 0 5 = some r ∧ r.started = false ∧ r.failed = none ∧ 6 ≤ r.form ∧ r.drain = []) ∧
    (∃ r, (request (fun r => { r with regs := [] })).creq? 0 5 = some r ∧ r.started = false ∧ r.failed = none ∧ r.form < 6 ∧ r.regs = []) ∧
    (∃ r, (request (fun r => { r with form := 7, drain := [1] })).creq? 0 5 = some r ∧ r.drain ≠ []) ∧
    (shapeRead (shaped (request id) 0) = 0 ∧ shapeRead (request id own) = 1 ∧
      shapeRead (request (fun r => { r with regs := [0, 0x10000000] })) = 2) ∧
    (readsShape (shaped (request id) 0) true false = true ∧ readsShape (request id) false false = true ∧
      readsShape (shaped (request id) 1) false false = true ∧
      readsShape (shaped (twoSides (request (fun r => { r with form := 3, regs := [0x20000, 0, 0x20100, 0, 0x40000000, 0, 0, 0xFFFFFFF0] }))) 0)
        true true = true) ∧
    (∃ r, (request (fun r => { r with started := true, list := none })).creq? 0 5 = some r ∧ r.started = true ∧ r.failed = none ∧
      r.list = none) ∧
    (∃ r, (request (fun r => { r with started := true, list := some (0, 2, 0) })).creq? 0 5 = some r ∧ r.list = some (0, 2, 0) ∧ 0 + 1 < 2) ∧
    (∃ r, (request (fun r => { r with started := true, list := some (0, 2, 1) })).creq? 0 5 = some r ∧ r.list = some (0, 2, 1) ∧ 2 ≤ 1 + 1) ∧
    (∃ r t, (request (fun r => { r with failed := some { cause := .loadFault } })).creq? 0 5 = some r ∧ r.failed = some t) ∧
    (∃ r, (request (fun r => { r with cancel := true })).creq? 0 5 = some r ∧ r.cancel = true ∧ r.failed = none ∧ r.chunk = none) ∧
    (∃ r, (request id).creq? 0 5 = some r ∧ r.cancel = false ∧ r.failed = none) ∧
    (∃ r, (request (fun r => { r with chunk := some { line := 1, left := [0] } })).creq? 0 5 = some r ∧ r.chunk.isSome = true) := by
  refine ⟨by decide, ⟨_, rfl, by decide⟩, ⟨_, rfl, by decide⟩, ⟨_, rfl, by decide⟩, ⟨_, rfl, by decide⟩, by decide, by decide,
    ⟨_, rfl, by decide⟩, ⟨_, rfl, by decide⟩, ⟨_, rfl, by decide⟩, ⟨_, _, rfl, rfl⟩, ⟨_, rfl, by decide⟩, ⟨_, rfl, by decide⟩, ⟨_, rfl, by decide⟩⟩

/-- What the check of a list's entry, given as its words, answers: its form, and its failure's code or none. -/
def entryCheck (l : List Word) : Nat × Option Nat :=
  let s := (request (fun r => { r with regs := [], list := some (32, 1, 0) })).modCore 0 (fun c => c.writeSp 32 (bytesOfWords l))
  match s.creq? 0 5 with
  | none => (9, none)
  | some r =>
    let ws := wordsOf ((s.core (r.windowOf.winPlace 32).1).readSp (r.windowOf.winPlace 32).2 32)
    ((ws.getD 0 0).toNat % 8, (checkCopy ((ws.getD 0 0).toNat % 8) (ws.set 0 (BitVec.ofNat 32 ((ws.getD 0 0).toNat / 8 * 8))) r.windowOf.winSize).map
      (fun t => if t.cause = .spadRange then 3 else 4))

/-- A list's entry that is good, of a form that does not exist, out of the window, and badly aligned. -/
theorem witness_CopyEvents_list :
    (∃ r, (request (fun r => { r with regs := [], list := some (32, 1, 0) })).creq? 0 5 = some r ∧ r.failed = none ∧ r.regs = [] ∧
      r.list = some (32, 1, 0) ∧ 0 < 1) ∧
    entryCheck [0x20000, 0, 0x20100, 0, 64, 0, 0, 0xFFFFFFF0] = (0, none) ∧
    (entryCheck [0x20006, 0, 0x20100, 0, 64, 0, 0, 0xFFFFFFF0]).1 = 6 ∧
    entryCheck [0x20000, 0, 0x20100, 0, 64, 0, 0, 0x7FFFFFF0] = (0, some 3) ∧
    entryCheck [0x20000, 0, 0x20100, 0, 66, 0, 0, 0xFFFFFFF0] = (0, some 4) := by
  refine ⟨⟨_, rfl, by decide⟩, by decide, by decide, by decide, by decide⟩

/-- A request that moves its one word. -/
def moving (f : CopyReq → CopyReq) (s : State := warm own) (hi : Word := 0) : State :=
  request (fun r => f { r with started := true, shape := some oneWord }) s 0x20100 hi

/-- How the check of the request's next chunk ends: 0 every byte can move, 1 it waits, 2 it fails, 8 no line is left. -/
def chunkCheck (s : State) : Nat :=
  match s.creq? 0 5 with
  | none => 9
  | some r =>
    match r.nextLine oneWord with
    | none => 8
    | some line =>
      match (s.checkPieces r oneWord line ((r.chunkBytes oneWord line).map (·.1)).eraseDups).2 with
      | none => 0
      | some .wait => 1
      | some (.fail _) => 2

/-- How the move of the request's one piece that is left ends, and whether nothing is left. -/
def chunkMove (s : State) : Nat × Bool :=
  match s.creq? 0 5 with
  | none => (9, false)
  | some r =>
    match s.stepFree.movePieces r oneWord { line := 1, left := [0] } [0] with
    | (_, _, ch, x) => ((match x with | none => 0 | some .wait => 1 | some (.fail _) => 2), ch.left.isEmpty)

theorem witness_CopyEvents_chunks :
    (∃ r, (moving id).creq? 0 5 = some r ∧ r.started = true ∧ r.failed = none ∧ r.shape = some oneWord ∧ r.chunk = none) ∧
    chunkCheck (moving id) = 0 ∧ chunkCheck (moving id own) = 1 ∧ chunkCheck (moving id (warm own) 0x10000000) = 2 ∧
    chunkCheck (moving (fun r => { r with done := [1] })) = 8 ∧
    (∃ r, (moving (fun r => { r with chunk := some { line := 1, left := [0] } })).creq? 0 5 = some r ∧ r.started = true ∧ r.failed = none ∧
      r.shape = some oneWord ∧ r.chunk = some { line := 1, left := [0] } ∧ ∀ n, [0].take (1 + n % max 1 [0].length) = [0]) ∧
    chunkMove (moving id) = (0, true) ∧ (chunkMove (moving id own)).1 = 1 ∧ (chunkMove (moving id (warm own) 0x10000000)).1 = 2 := by
  refine ⟨⟨_, rfl, by decide⟩, by decide, by decide, by decide, by decide, ⟨_, rfl, rfl, rfl, rfl, rfl, fun n => ?_⟩, by decide, by decide,
    by decide⟩
  simp [Nat.mod_one]

/-- The partition changes its point. -/
def changing : State := (own).modPart 0 (fun p => { p with chg := some 3 })

theorem witness_EnergyEvents :
    (changing.part 0).chg = some 3 ∧ ((own).part 0).chg = none ∧ (own).draws = [] ∧
    (({ own with draws := [(0, 0)] } : State).draws = [(0, 0)] ∧ 4 ≤ ((own).ctx 0).level ∧
      (((own).modCtx 0 (fun c => { c with level := 3 })).ctx 0).level < 4) ∧
    (((own).strand 0).resident = true ∧ ((own).strand 0).spilt.slot = false ∧ ((own).part ((own).strand 0).info.part).chg = none ∧
      ((own).strand 1).resident = false) ∧
    ({ (own).reckon [] with
      ctxs := ((own).reckon []).ctxs.map (fun x => (x.1, x.2.takeWrites.deficitOnce.refillOnce)) } : State).refusedPurses = [] ∧
    (∃ c, (own).ctxs.find? 0 = some c) ∧ (∀ x ∈ (own).ctxs, x.2.metered = false) ∧
    (∃ c, ((own).modCtx 0 (fun c => { c with account := 9 })).ctxs = [(0, c)] ∧ c.metered = true) ∧
    ((own).pkg.capMaster = false ∧ ({ own with pkg := { (own).pkg with capMaster := true } } : State).pkg.capMaster = true ∧
      1 ≠ (own).pkg.num ∧ (5 : Nat) ≠ (own).pkg.round ∧ (own).portTo 5 = none ∧
      ({ own with pkg := { (own).pkg with routes := [(5, [2])], portsUp := [2] } } : State).portTo 5 = some 2) := by
  refine ⟨by decide, by decide, by decide, by decide, by decide, by decide, ⟨_, rfl⟩, by decide, ⟨_, rfl, by decide⟩, by decide⟩

/-- A strand that is halted in a context of a state. -/
def halted (c : CtxState) (f : Strand → Strand := id) : State :=
  (own (fun t => f { t with state := .halted })).modCtx 0 (fun x => { x with state := c })

/-- The write-out of a slot. -/
def claiming : State := { halted .halted with claims := [{ id := 5, g := 0, claimer := 1, kind := .slot }] }

/-- A strand that takes up its units again, beside a running one that has its slot. -/
def resuming (x : Spilt) (more : Assoc Strand := []) (key : Nat := 0) : State :=
  { own with strands := more ++ [(key, { fetchStrand 0 with state := .halted, resuming := true, spilt := x })] }

theorem witness_HaltAndCounterEvents :
    (((own (fun t => { t with state := .held })).strand 0).resident = true ∧ ((own (fun t => { t with state := .held })).strand 0).state = .held ∧
      ((own).strand 0).state ≠ .held) ∧
    (((own).ctx 0).state ≠ .halting ∧ ((halted .halting).ctx 0).state = .halting ∧ ((halted .halting).haltSweep 0).allHalted 0 = true ∧
      (let s := ((own (fun t => { t with state := .trapEntry })).modCtx 0 (fun x => { x with state := .halting }))
       (s.ctx 0).state = .halting ∧ (s.haltSweep 0).allHalted 0 = false)) ∧
    (own).parts.find? 1 = none ∧
    (let s : State := { own with ctxs := [(0, fetchCtx), (1, { fetchCtx with state := .halted })] }
     ∃ p, s.parts.find? 0 = some p ∧ (s.ctxs.find? 1).isSome = true ∧ (s.ctx 1).part = 0 ∧ (s.ctx 0).state = .running ∧
      (s.ctx 1).state ≠ .running ∧ (s.ctx 1).state ≠ .halting) ∧
    ((∀ core off, UnitKind.slot = .spad core off → False) ∧
      let b : SpBlock := { off := 0, lg := 16, ctx := 0, users := [0], exitPending := false }
      let s : State := { (halted .halted).modCore 0 (fun c => { c with blocks := [b] }) with claims := [{ id := 5, g := 0, claimer := 1, kind := .spad 0 0 }] }
      ∃ c, s.claims.find? (fun c => c.id == 5) = some c ∧ s.claimReady c = true ∧ c.kind = .spad 0 0 ∧ (s.strand c.g).resident = true ∧
        ∃ b ∈ (s.core 0).blocks, b.off = 0 ∧ b.exitPending = false) ∧
    (∃ p i, (own).parts.find? 0 = some p ∧ (own).ctxs.find? 0 = some i ∧ i.part = 0 ∧ i.state = .running ∧ (own).ctxs.find? 1 = none) ∧
    (∃ c, claiming.claims.find? (fun c => c.id == 5) = some c ∧ claiming.claimReady c = true ∧ c.kind = .slot ∧
      (claiming.strand c.g).resident = true) ∧
    (∃ c, ({ loading with claims := claiming.claims } : State).claims.find? (fun c => c.id == 5) = some c ∧
      ({ loading with claims := claiming.claims } : State).claimReady c = false) ∧
    (((resuming {}).strand 0).resident = true ∧ ((resuming {}).strand 0).state = .halted ∧ ((resuming {}).strand 0).resuming = true ∧
      (resuming {}).claimed 0 = false ∧ (resuming {}).refillPlan 0 = some []) ∧
    (∃ c cs, (resuming { slot := true } [(0, { fetchStrand 0 with state := .halted })] 65536).refillPlan 65536 = some (c :: cs)) ∧
    (resuming { slot := true } [(0, fetchStrand 0)] 65536).refillPlan 65536 = none ∧
    ((own).openSession { func := 1, ctx := 0, strandRd := true, vector := 0, ven := false, reservedZero := true, entries := [] } = none ∧
      ∃ x, (own).openSession
        { func := 0, ctx := 0, strandRd := true, vector := 0, ven := false, reservedZero := true, entries := [{ unit := 0, event := 1, value := 0 }] } =
          some x) ∧
    (∃ x y, ({ own with sessions := [
        { id := 1, ctx := 0, func := 0, strandRd := true, vector := 0, ven := true, entries := [
          { unit := 0, event := 1, value := 7, ovf := true, missed := false, ovfCnt := 1, counter := 0, serving := true }] }] } :
        State).sessions.find? (fun x => x.id == 1) = some x ∧ x.entries[(0 : Nat)]? = some y ∧ y.ovf = true ∧ x.ven = true) ∧
    (∃ x, counted.sessions.find? (fun x => x.id == 1) = some x ∧ x.ven = false) := by
  refine ⟨by decide, by decide, by decide, ⟨_, rfl, by decide⟩, ⟨by simp, _, rfl, by decide⟩, ⟨_, _, rfl, rfl, by decide, by decide, by decide⟩, ⟨_, rfl, by decide, by decide, by decide⟩,
    ⟨_, rfl, by decide⟩, by decide, ⟨_, _, rfl⟩, by decide, ⟨by decide, _, rfl⟩, ⟨_, _, rfl, rfl, by decide, by decide⟩, ⟨_, rfl, by decide⟩⟩

/-- A trap of cause 2 is outstanding. -/
def trapped (f : Strand → Strand := id) : State :=
  own (fun t => f { t with trap := { t.trap with traps := [{ info := { cause := .illegalOperand }, group := none, handlerWork := 0 }] } })

/-- With a handler at 0x10040 in the trap block. -/
def handled : State := (trapped).memWrite { host := false, addr := 0x4200 } (natLe 8 0x10040 ++ [1])

theorem witness_TrapEntry :
    ((own).strand 0).takeable = none ∧
    (∃ o, ((trapped).strand 0).takeable = some o ∧ ((trapped).strand 0).resident = true ∧ ((trapped).strand 0).aset.rolling = false ∧
      ((trapped).strand 0).state ≠ .held ∧ ((trapped).strand 0).state ≠ .halted ∧ ((trapped).strand 0).trap.inHandler = false ∧
      ((trapped).strand 0).rodRuns = false ∧ ((trapped).strand 0).wait = .nothing ∧ o.info.kind ≠ 5 ∧
      (let w := ((trapped).modStrand 0 (fun t => t.commitAll.freeRod)).writeRecord 0 o
       w.hbmNat ((w.ctx (w.strand 0).info.ctx).trapAddr + 8) 1 % 2 = 0)) ∧
    (∃ o, (handled.strand 0).takeable = some o ∧
      (let w := (handled.modStrand 0 (fun t => t.commitAll.freeRod)).writeRecord 0 o
       w.hbmNat ((w.ctx (w.strand 0).info.ctx).trapAddr + 8) 1 % 2 = 1 ∧
        pcValid (BitVec.ofNat 64 (w.hbmNat (w.ctx (w.strand 0).info.ctx).trapAddr 8)) = true)) ∧
    (∃ o, ((trapped (fun t => { t with state := .held })).strand 0).takeable = some o ∧
      ((trapped (fun t => { t with state := .held })).strand 0).state = .held ∧
      ((trapped (fun t => { t with state := .halted })).strand 0).state = .halted) ∧
    (∃ o, ((own (fun t => { t with trap := { t.trap with
          inHandler := true, serial := 1, traps := [{ info := { cause := .illegalOperand }, group := none, handlerWork := 1 }] } })).strand 0).takeable =
        some o) ∧
    (∃ o, ((own (fun t => { t with trap := { t.trap with
          serial := 1, traps := [{ info := { cause := .loadFault }, group := none, handlerWork := 1, vword := true }] } })).strand 0).takeable = some o ∧
      o.vword = true ∧ o.handlerWork ≠ 0) ∧
    ((trapped (fun t => { t with homeDone := true })).strand 0).asksHome = true ∧ ((trapped).strand 0).asksHome = false ∧
    (let s := memEntered addressing (.vlds false 2 1 0) (formOf (.vlds false 2 1 0)) .stores
     let s := s.modStrand 0 (fun t => { t with trap := ((trapped).strand 0).trap })
     ∃ o, (s.strand 0).takeable = some o ∧ (s.strand 0).trap.inHandler = false ∧ (s.strand 0).rodRuns = true) := by
  refine ⟨by decide, ⟨_, rfl, by decide, by decide, by decide, by decide, by decide, by decide, by decide, by decide, by decide⟩,
    ⟨_, rfl, by decide⟩, ⟨_, rfl, by decide⟩, ⟨_, rfl⟩, ⟨_, rfl, by decide⟩, by decide, by decide, ⟨_, rfl, by decide⟩⟩

/-- A window in which two contexts were charged in domain 2, and none in domain 3. -/
def chargedWindow : State := { own with windowCharge := [(2 * 4096, 1000000), (2 * 4096 + 1, 600000), (5 * 4096, 7)] }

theorem witness_WindowReckoning :
    charged chargedWindow 2 = [(0, 1000000), (1, 600000)] ∧ charged chargedWindow 3 = [] ∧
    ((charged chargedWindow 2).map (·.1)).Nodup ∧ 1600000 ≤ ((charged chargedWindow 2).map (·.2)).sum ∧
    ((charged chargedWindow 5).map (·.2)).sum < 1600000 := by decide

/-- With 2,000,000 beads measured in domain 2 the shares of the 400,000 that were not charged are 250,000 and 150,000, and the
factor takes five quarters; with 3 beads too many in domain 5, its context takes them (R352, R353). -/
theorem test_reckoning :
    let t := chargedWindow.reckonDomain [(2, 2000000)] 2
    (t.ctx 0).account = (chargedWindow.ctx 0).account + 250000 ∧ t.corrOf 2 = min (chargedWindow.corrOf 2 * 5 / 4) 0x7FFF ∧
    t.corrOf 3 = chargedWindow.corrOf 3 ∧
    ((chargedWindow.reckonDomain [(5, 10)] 5).ctx 0).resid = (chargedWindow.ctx 0).resid + 3 ∧
    (chargedWindow.reckonDomain [(3, 11)] 3).unattributed.find? 3 = some 11 := by decide

/-- A strand that only its hold-buffer lines keep from going on, and one that a rollback awaits. -/
theorem witness_HaltAndCounterEvents_lines :
    (resuming { lines := 2 }).onlyLines 0 = true ∧ (resuming { lines := 2, slot := true }).onlyLines 0 = false ∧
    ((resuming {}).strand 0).aset.rolling = false ∧ (resuming { lines := 2 }).refillPlan 0 = some [] := by decide

theorem witness_PlatformEvents :
    (let t : HostTxn := { firmware := true, write := true, addr := 2 ^ 40 - 1, data := [7], len := 0 }
     t.write = true ∧ t.firmware = true ∧ t.addr + t.data.length ≤ 2 ^ 40 ∧ 2 ^ 40 < (t.addr + 1) + t.data.length ∧
      ({ t with write := false, len := 1 } : HostTxn).write = false ∧ t.addr + 1 ≤ 2 ^ 40) ∧
    ((21 : Nat) < 22 ∧ ((own).pkg.retries.find? 21).getD 0 < 15) ∧
    (let s : State := { own with pkg := { (own).pkg with routes := [(1, [4])], portsUp := [4] } }
     (s.portTo 1).isSome = true ∧ s.portTo 2 = none ∧ s.colls = [] ∧ s.launches = []) ∧
    ((own).power = .on ∧ (own).power ≠ .off ∧ ({ own with power := .off } : State).power = .off ∧ (3 : Nat) < 16 ∧
      ({ own with power := .off, pkg := { (own).pkg with debug := true } } : State).power ≠ .frozen) ∧
    (let s : State := { own with power := .frozen, pkg := { (own).pkg with debug := true } }
     s.power = .frozen ∧ s.pkg.debug = true ∧ (own).pkg.debug = false) ∧
    (let s : State := { own with power := .off, pkg := { (own).pkg with thermal := true } }
     s.power = .off ∧ s.pkg.thermal = true) ∧
    (∃ c, (own).ctxs.find? 0 = some c ∧ c.state = .running) ∧ (∃ c, (halted .halted).ctxs.find? 0 = some c ∧ c.state = .halted) := by
  refine ⟨by decide, by decide, by decide, by decide, by decide, by decide, ⟨_, rfl, by decide⟩, ⟨_, rfl, by decide⟩⟩

/-- A partition and a context to be made. -/
def partDef : PartDef := { part := 1, quads := [1], op := 0, maxop := 7, holdLimit := none }
def ctxDef : CtxDef :=
  { ctx := 1, func := 0, part := 0, root := 0x1000, keys := [1023], comp := false, prot := false, energyAddr := 0, schedAddr := 0,
    trapAddr := 0, taskCap := 16 }

/-- With bit 82 of the scheduling block: the watchdog runs. -/
def watched (s : State) : State := s.memWrite { host := false, addr := 0x4100 } (natLe 8 0 ++ natLe 8 (4 * 2 ^ 16))

/-- The context is protected, and a page of it is asked for. -/
def protectedCtx : State := (own).modCtx 0 (fun c => { c with prot := true, reclaim := [0x20000] })

/-- A launch that was first dispatched at time 0 and may run 1 ms, at the end of that. -/
def overdue (now : DWord) : State :=
  { launched (command (2 ^ 240)) (fun x => { x with state := .checked, firstAt := some 0 }) with podTime := now }

theorem witness_TenantEvents :
    ((own).partOk partDef = true ∧ (own).partOk { partDef with quads := [0] } = false) ∧
    ((own).ctxOk ctxDef = true ∧ (own).ctxOk { ctxDef with ctx := 0 } = false) ∧
    (∃ c, (own).ctxs.find? 0 = some c ∧ c.prot = false ∧ c.state = .running ∧ (own).ctxQuiet 0 = false ∧ c.reclaim.contains 0 = false) ∧
    (∃ c, ({ own with strands := [] } : State).ctxs.find? 0 = some c ∧ ({ own with strands := [] } : State).ctxQuiet 0 = true) ∧
    ((watched own).watchdogArmed 0 = true ∧ (own).watchdogArmed 0 = false ∧ (own).strandsOf 0 ≠ [] ∧
      ∀ x ∈ (own).strandsOf 0, (own).externalWait x.1 x.2 = false) ∧
    (∃ c, protectedCtx.ctxs.find? 0 = some c ∧ c.prot = true ∧ c.reclaim.contains 0x20000 = true ∧ (protectedCtx.func c.func).resetting = false) ∧
    (own).ctxs.find? 1 = none ∧
    (∃ it, (overdue 1000000).launch? 7 = some it ∧ (overdue 1000000).overLimit it = true ∧ (watched (overdue 1000000)).watchdogArmed it.ctx = true ∧
      (overdue 999999).overLimit it = false) ∧
    (15 < 16 ∧ 1023 < 1024 ∧ (63 : Nat) < 64 ∧ ({ own with pkg := { (own).pkg with flr := [1] } } : State).pkg.flr.contains 1 = true ∧
      (own).pkg.flr.contains 1 = false ∧ ((own).func 0).resetting = false ∧
      (((own).modFunc 0 (fun f => { f with resetting := true })).func 0).resetting = true) ∧
    (({ own with pkg := { (own).pkg with ecc := [.l1 0] } } : State).pkg.ecc = [.l1 0]) ∧
    (((own).die 0).linkStopped = false ∧ ((onDie (fun d => { d with linkStopped := true })).die 0).linkStopped = true ∧
      State.reset.ctxs = []) ∧
    ((own).measurementOf 0 0 = none ∧ (own).measurementOf 0 4 = none ∧ (own).measurementOf 0 7 = none ∧
      ∃ m, (own).measurementOf 0 3 = some m) := by
  refine ⟨by decide, by decide, ⟨_, rfl, by decide⟩, ⟨_, rfl, by decide⟩, by decide, ⟨_, rfl, by decide⟩, by decide,
    ⟨_, rfl, by decide, by decide, by decide⟩, by decide, by decide, by decide, ⟨by decide, by decide, by decide, _, rfl⟩⟩

/-- A launch ring of 16 entries at the host page 0x10 of PASID 9. -/
def ring (f : Iface → Iface := id) : State :=
  { onDie (fun d => { d with ats := [{ ctx := pasidKey 9, page := 0x10, hpa := 0x50000 }] }) with
    ifaces := [(3, f { serves := some 0, ring := 0x100000, cpl := 0x200000, lsize := 4, esz := 1, kind := 0, pasid := 9 })] }

/-- The same ring runs as an error log, with an entry to write. -/
def logging : State :=
  (ring (fun f => { f with kind := 3, cpl := 0, state := .run })).modCtx 0 (fun c => { c with log := [natLe 128 5] })

/-- And as a meter ring, with a batch of two entries. -/
def metering (head : Word) : State :=
  let s := ring (fun f => { f with kind := 2, cpl := 0, state := .run, head := head, tail := 15 })
  { s with pkg := { s.pkg with batches := [natLe 129 5] } }

theorem witness_InterfaceEvents :
    (((ring).iface 3).state = .unlocked ∧ (ring).shut ((ring).iface 3).func = false ∧
      ((ring).iface 3).privileged = ((ring).iface 3).privileged ∧ (ring).ifaceValid ((ring).iface 3) = true ∧
      ((ring).iface 3).privileged ≠ 0 ∧ ((ring).iface 3).guestProduces = true ∧ (3 : Nat) < 4096) ∧
    (((ring (fun f => { f with state := .locked })).iface 3).state = .locked ∧ ((ring).func 0).resetting = false ∧
      ((ring).modFunc 0 (fun f => { f with resetting := true })).shut 0 = true ∧
      ((ring (fun f => { f with state := .locked })).iface 3).state ≠ .unlocked) ∧
    ((logging.iface 3).state ≠ .unlocked ∧ (logging.iface 3).guestProduces = false ∧ (logging.iface 3).state ≠ .locked) ∧
    (let s := ring (fun f => { f with state := .run, tail := 1 })
     (ring).ifaceReady ((ring).iface 3) = false ∧ s.ifaceReady (s.iface 3) = true ∧
      (∃ p, s.guestPlace (s.iface 3).pasid ((s.iface 3).entryVa (s.iface 3).head.toNat) = some p) ∧
      (own).guestPlace (s.iface 3).pasid ((s.iface 3).entryVa (s.iface 3).head.toNat) = none) ∧
    (own).logIface 0 = none ∧
    (∃ i f e u p, logging.logIface 0 = some (i, f) ∧ logging.takeLog 0 = some (e, u) ∧ f.used < f.size ∧
      logging.guestPlace f.pasid (f.entryVa f.tail.toNat) = some p) ∧
    (let s := (ring (fun f => { f with kind := 3, cpl := 0, state := .run, tail := 16 })).modCtx 0 (fun c => { c with log := [natLe 128 5] })
     ∃ i f e u, s.logIface 0 = some (i, f) ∧ s.takeLog 0 = some (e, u) ∧ f.size ≤ f.used) ∧
    (own).pkg.batches = [] ∧
    (∃ i f ps, List.find? (fun (x : Nat × Iface) => x.2.state == .run && x.2.kind == 2) (metering 15).ifaces = some (i, f) ∧
      (metering 15).pkg.batches = [natLe 129 5] ∧ f.used + ((natLe 129 5).length + 127) / 128 ≤ f.size ∧
      (metering 15).batchPlaces f (((natLe 129 5).length + 127) / 128) = .ok ps) ∧
    (∃ i f, List.find? (fun (x : Nat × Iface) => x.2.state == .run && x.2.kind == 2) (metering 0).ifaces = some (i, f) ∧
      f.size < f.used + ((natLe 129 5).length + 127) / 128) := by
  refine ⟨by decide, by decide, by decide, ⟨by decide, by decide, ⟨_, rfl⟩, by decide⟩, by decide, ⟨_, _, _, _, _, rfl, rfl, by decide, rfl⟩,
    ⟨_, _, _, _, rfl, rfl, by decide⟩, by decide, ⟨_, _, _, rfl, by decide, by decide, rfl⟩, ⟨_, _, rfl, by decide⟩⟩

/-- The rest of the clauses: a boundary at its sixteenth failed try, a host that is no firmware, an interface in its error
state and one whose function is being reset, indices that are and are not accepted, and rings whose page the host has not
answered for. -/
theorem witness_platform_corners :
    (let s : State := { own with pkg := { (own).pkg with retries := [(21, 15)] } }
     15 ≤ (s.pkg.retries.find? 21).getD 0) ∧
    (let t : HostTxn := { firmware := false, write := true, addr := 0, data := [], len := 0 }
     t.firmware = false ∧ t.addr + t.data.length ≤ 2 ^ 40) ∧
    (({ own with power := .off } : State).power = .off ∧ ({ own with power := .frozen } : State).power ≠ .on) ∧
    (((ring (fun f => { f with state := .error })).iface 3).state = .error ∧
      ((ring).modFunc 0 (fun f => { f with resetting := true })).func 0 ≠ (ring).func 0 ∧
      (((ring).modFunc 0 (fun f => { f with resetting := true })).func 0).resetting = true) ∧
    (((ring (fun f => { f with state := .run })).iface 3).accepts 16 = true ∧
      ((ring (fun f => { f with state := .run })).iface 3).accepts 17 = false ∧
      ((ring (fun f => { f with state := .run, kind := 3, tail := 16 })).iface 3).accepts 16 = true ∧
      ((ring (fun f => { f with state := .run, kind := 3, tail := 15 })).iface 3).accepts 16 = false ∧
      ((ring (fun f => { f with state := .run, kind := 3, tail := 17 })).iface 3).accepts 17 = false ∧
      ((ring (fun f => { f with state := .run })).iface 3).state = .run) ∧
    (let s := ({ logging with dies := [] } : State)
     ∃ i f e u, s.logIface 0 = some (i, f) ∧ s.takeLog 0 = some (e, u) ∧ f.used < f.size ∧ s.guestPlace f.pasid (f.entryVa f.tail.toNat) = none) ∧
    (let s := ({ metering 15 with dies := [] } : State)
     ∃ i f page, List.find? (fun (x : Nat × Iface) => x.2.state == .run && x.2.kind == 2) s.ifaces = some (i, f) ∧
      s.pkg.batches = [natLe 129 5] ∧ f.used + ((natLe 129 5).length + 127) / 128 ≤ f.size ∧
      s.batchPlaces f (((natLe 129 5).length + 127) / 128) = .error page) ∧
    (∃ i f, List.find? (fun (x : Nat × Iface) => x.2.state == .run && x.2.kind == 2) (metering 15).ifaces = some (i, f)) ∧
    (let s := protectedCtx
     (s.ctx 0).reclaim.contains 0 = false) ∧
    ((16 : Nat) ≤ 16 ∧ (1024 : Nat) ≤ 1024 ∧ (64 : Nat) ≤ 64 ∧ (4096 : Nat) ≤ 4096 ∧ (own).pkg.ecc = [] ∧ (own).launch? 7 = none) := by
  refine ⟨by decide, by decide, by decide, by decide, by decide, ⟨_, _, _, _, rfl, rfl, by decide, by decide⟩,
    ⟨_, _, _, rfl, by decide, by decide, rfl⟩, ⟨_, _, rfl⟩, by decide, by decide⟩

/-! ### More states and operands: the outcomes beside the usual ones -/

/-- A strand with 3 blocks of 64 uniform registers. -/
def threeBlocks : State := own (fun t => { t with info := { t.info with ublk := 3 } })

/-- Groups at the end of the registers and one register on, a pair at an odd register, and each field that is not zero. -/
theorem witness_UniformIllegalOperand :
    misfit threeBlocks 192 1 ∧ ¬misfit threeBlocks 191 1 ∧ misfit threeBlocks 191 2 ∧ ¬misfit threeBlocks 190 2 ∧ misfit own 5 2 ∧
    (wide 1 own).up.w.toNat ≠ 0 ∧ 2 ≤ (wide 2 own).up.w.toNat ∧
    ({ own with iss := { (own).iss with up := some { UPfx.zero with imm := 1 } } } : State).up.imm ≠ 0 ∧
    ({ own with iss := { (own).iss with up := some { UPfx.zero with xa := 1 } } } : State).up.xa ≠ 0 ∧
    ({ own with iss := { (own).iss with up := some { UPfx.zero with xb := 1 } } } : State).up.xb ≠ 0 := by
  unfold misfit; decide

/-- A full count of RSDEPTH, and a spilt return address that is none. -/
theorem witness_CallsAndReturns_bad :
    (let s := own (fun t => { t with rsDepth := 0xFFFFFFFF, uregs := [(8, 0x10000)] })
     s.me.rsDepth = 0xFFFFFFFF#32 ∧ s.UReady [(8, 2)] ∧ pcValid (s.u2 8) = true) ∧
    (let s := (warm (own (fun t => { t with rsDepth := 1, rsp := 0x20008 }))).memWrite { host := false, addr := 0x20000 } (natLe 8 0x1003C)
     s.me.rsDepth ≠ 0 ∧ s.me.rstk = [] ∧ ∃ s' v, (s.raw 1 1).loadSpill (s.me.rsp - 8).toNat = .ok s' v ∧ pcValid v = false) := by
  unfold State.UReady
  exact ⟨by decide, by decide, by decide, _, _, rfl, by decide⟩

/-- A load on its way when a FENCE is tried. -/
theorem witness_YieldDrainAndFence_loads :
    (loading.openGroup 0 []).iss.go = false ∧ (loading.openGroup 0 []).loadsOut 0 = true ∧ 2#3 ≠ 0 ∧
    ∃ s', ((loading.openGroup 0 []).raw 1 1).releaseStep 0 2 = (s', false) := ⟨by decide, by decide, by decide, _, rfl⟩

/-- 2^24 + 1 lies between two consecutive encodings, 2^128 beyond them all; a sum that is zero and one that is not, NaNs of both
kinds, and infinities. -/
theorem witness_FloatRounding :
    (let x := (2 ^ 24 + 1) * 2 ^ (0 + 149 : Int).toNat
     f32Mag 0x4B800000 ≤ x ∧ x < f32Mag 0x4B800001 ∧ 0x4B800000 < 0x7F7FFFFF) ∧
    (f32Mag 0x7F800000 ≤ 2 ^ 128 * 2 ^ (0 + 149 : Int).toNat) ∧
    (let rm : RMode := { mode := 0, d := 0, w := 32 }
     rm.mode ≤ 4 ∧ f32Finite 0x3F800000 ∧ f32Finite 0xBF800000 ∧ f32Finite 0 ∧ f32Val 0x3F800000 + f32Val 0xBF800000 = 0 ∧
      f32Val 0x3F800000 + f32Val 0x3F800000 ≠ 0 ∧ f32Val 0x3F800000 * f32Val 0x3F800000 ≠ 0 ∧ f32Val 0x3F800000 * f32Val 0 = 0) ∧
    (0x7F800000 < (0x7FC00000#32).toNat % 2 ^ 31 ∧ 0x7FC00000 ≤ (0x7FC00000#32).toNat % 2 ^ 31 ∧
      0x7F800000 < (0x7F800001#32).toNat % 2 ^ 31 ∧ ¬0x7FC00000 ≤ (0x7F800001#32).toNat % 2 ^ 31) ∧
    (0x7F800000#32).toNat % 2 ^ 31 = 0x7F800000 := by
  unfold f32Finite
  decide

/-- An inexact sum to nearest even and towards +∞ (R100, R102): 1 + 2^−24 ties to 1, and rounds up to 1 + 2^−23. -/
theorem test_rounding :
    f32.add { mode := 0, d := 0, w := 32 } 0x3F800000 0x33800000 = (0x3F800000, 16) ∧
    f32.add { mode := 3, d := 0, w := 32 } 0x3F800000 0x33800000 = (0x3F800000, 16) ∧
    f32.add { mode := 2, d := 0, w := 32 } 0x3F800000 0x33800000 = (0x3F800001, 16) := by decide

/-- The form of a VSTEF of slot 0, with s8 as its base. -/
def stefForm : MemForm := formOf (.vstef false 2 0xC8 0)

/-- A strand at a VSTEF with its bits in a window of one core or of two. -/
def stefAt (s : State) : State := memEntered s (.vstef false 2 0xC8 0) stefForm .stores

/-- A slot of VSTEF at an empty word, at a full one, at another core's, one that has sent its step with its reply and without,
and one with a store of its own before it. -/
theorem witness_ScratchpadSlots_stef :
    stefForm.op = .stef ∧
    (let s := stefAt (ownU [(8, 0)])
     ∃ f t u r, (s.strand 0).flight = some f ∧ (s.strand 0).sent = false ∧
      s.releaseWord 0 f stefForm.scope = (t, true) ∧ u = t.modFlight 0 (fun f => { f with relIds := none }) ∧
      spadOff (s.strand 0) f stefForm 4 0 % 4 = 0 ∧ spadOff (s.strand 0) f stefForm 4 0 + 4 ≤ (s.strand 0).winSize ∧
      ((u.strand 0).setBound && !(u.strand 0).aset.holds.isEmpty) = false ∧ (u.strand 0).sent = false ∧
      (u.strand 0).winPlace (spadOff (s.strand 0) f stefForm 4 0) = (0, 0) ∧ u.spadOrder 0 0 = true ∧ 0 = coreOf 0 ∧
      u.spPerform 0 0 (.stef (f.bvals.get 0)) = some r ∧
      (u.modCore 0 (fun c => c.setFull 0 true)).spPerform 0 0 (.stef (f.bvals.get 0)) = none) ∧
    (let s := stefAt (spread (fun t => { t with uregs := [(8, 0x10000#32)] }))
     ∃ f, (s.strand 0).flight = some f ∧ (s.strand 0).winPlace (spadOff (s.strand 0) f stefForm 4 0) = (1, 0) ∧ 1 ≠ coreOf 0 ∧
      s.remoteFull 1 = false ∧ s.spadOrder 0 1 = true ∧
      ((s.modStrand 0 (fun t => { t with sent := true })).strand 0).reply8 = none ∧
      ((s.modStrand 0 (fun t => { t with sent := true, reply8 := some [] })).strand 0).reply8 = some []) ∧
    (let s := stefAt storing
     ∃ f t, (s.strand 0).flight = some f ∧ s.releaseWord 0 f stefForm.scope = (t, false)) := by
  refine ⟨rfl, ⟨_, _, _, _, rfl, by decide, rfl, rfl, by decide, by decide, by decide, by decide, by decide, by decide, by decide, rfl,
    by decide⟩, ⟨_, rfl, by decide, by decide, by decide, by decide, by decide, by decide⟩, ⟨_, _, rfl, rfl⟩⟩

/-- The form of a global load, or store, of slot 0 at s8. -/
def ldForm : MemForm := formOf (.vld false 2 0xC8 0)
def stForm : MemForm := formOf (.vst false 2 0xC8 0)

/-- A strand at a global load in its window: of its own core, of another, and beyond the end. -/
theorem witness_WindowSlots :
    ldForm.op.spad = false ∧ ldForm.op.writesD = true ∧ stForm.op.writesD = false ∧ (∀ sc, ldForm.op ≠ .pref sc) ∧
    (formOf (.vpref false 0 0xC8 0)).op = .pref false ∧
    (let s := memEntered (ownU [(8, 0x4000000)]) (.vld false 2 0xC8 0) ldForm .stores
     ∃ f r, (s.strand 0).flight = some f ∧ canonical (globalVa (s.strand 0) f ldForm 4 0) = true ∧ globalVa (s.strand 0) f ldForm 4 0 % 4 = 0 ∧
      (s.strand 0).window (globalVa (s.strand 0) f ldForm 4 0) = some 0 ∧ 0 + 4 ≤ (s.strand 0).winSize ∧ (s.strand 0).winPlace 0 = (0, 0) ∧
      s.spadOrder 0 0 = true ∧ (s.bindWord 0 f.seq).spPerform 0 0 (spadOp (s.strand 0) f ldForm 4 0) = some r) ∧
    (let s := memEntered (ownU [(8, 0x4010000)]) (.vld false 2 0xC8 0) ldForm .stores
     ∃ f x, (s.strand 0).flight = some f ∧ (s.strand 0).window (globalVa (s.strand 0) f ldForm 4 0) = some x ∧ (s.strand 0).winSize < x + 4) ∧
    (let s := memEntered (spread (fun t => { t with uregs := [(8, 0x4010000)] })) (.vld false 2 0xC8 0) ldForm .stores
     ∃ f, (s.strand 0).flight = some f ∧ (s.strand 0).window (globalVa (s.strand 0) f ldForm 4 0) = some 0x10000 ∧
      (s.strand 0).winPlace 0x10000 = (1, 0) ∧ (s.strand 0).sent = false ∧ s.spadOrder 0 1 = true ∧ (s.bindWord 0 f.seq).remoteFull 1 = false ∧
      ((s.modStrand 0 (fun t => { t with sent := true, reply8 := some [1, 2, 3, 4] })).strand 0).reply8 = some [1, 2, 3, 4]) := by
  refine ⟨rfl, rfl, rfl, fun _ => by rintro ⟨⟩, rfl, ⟨_, _, rfl, by decide, by decide, by decide, by decide, by decide, by decide, rfl⟩,
    ⟨_, _, rfl, rfl, by decide⟩, ⟨_, rfl, by decide, by decide, by decide, by decide, by decide, by decide⟩⟩

/-- A strand that a set of granules at 0x20000 binds, at a word on the address in s8, with its page translated. -/
def boundAt (i : Instr) (m : MemForm) (va : Nat) (f : SetState → SetState := id) : State :=
  memEntered (warm (own (fun t => { t with
    info := { t.info with setCount := 1 }, aset := f (defined t.aset), uregs := [(8, BitVec.ofNat 32 va)] }))) i m .stores

/-- The granule at 0x20000. -/
def setGranule : Granule := granuleAt 0x1_00000400_0000000000020000#128 { host := false, addr := 0x20000, key := 1 }

/-- A strand that has the granule, with the line in its hold buffer. -/
def holding (i : Instr) (m : MemForm) : State :=
  boundAt i m 0x20000 (fun x => { x with
    holds := [setGranule], granted := true, lines := [{ line := 0x800, host := false, key := 1, bytes := [], fetched := List.replicate 64 0 }] })

/-- The form of an atomic add that returns the old value, and of one that does not. -/
def atForm : MemForm := formOf (.vatom false 2 0xC8 0 0 0)
def redForm : MemForm := formOf (.vred false 2 0xC8 0 0 0)

/-- Accesses outside every set, in one before and after the grant, on host memory, and the steps of each kind with the granule. -/
theorem witness_SetSlots :
    (let s := boundAt (.vatom false 2 0xC8 0 0 0) atForm 0x40000
     ∃ f, (s.strand 0).flight = some f ∧ atForm.op.access = .atomic ∧ (s.strand 0).setBound = true ∧
      (s.strand 0).inSet (globalVa (s.strand 0) f atForm 4 0) = none ∧ (s.strand 0).window (globalVa (s.strand 0) f atForm 4 0) = none) ∧
    (let s := boundAt (.vld false 2 0xC8 0) ldForm 0x20000
     ∃ f t p u r, (s.strand 0).flight = some f ∧ (s.strand 0).inSet (globalVa (s.strand 0) f ldForm 4 0) ≠ none ∧
      s.storeBefore 0 (globalVa (s.strand 0) f ldForm 4 0) 4 = false ∧
      s.slotPlace 0 (globalVa (s.strand 0) f ldForm 4 0) ldForm.op.access = (t, .at p) ∧
      t.slotGranule 0 (globalVa (s.strand 0) f ldForm 4 0) p 0 = (u, r) ∧ r ≠ .ok ∧ p.host = false ∧
      setGranule ∉ (s.strand 0).aset.holds ∧
      (s.slice setGranule.home).waitList.any (fun e => e.task.work.g == 0 && e.gran == setGranule) = false ∧
      (s.slice setGranule.home).reqs.any (fun e => e.1.work.g == 0 && e.2 == setGranule) = false ∧
      (s.strand 0).aset.holds.length + s.granulesDue 0 < 64) ∧
    (let s := holding (.vld false 2 0xC8 0) ldForm
     ∃ f t p u v, (s.strand 0).flight = some f ∧ s.slotPlace 0 (globalVa (s.strand 0) f ldForm 4 0) .load = (t, .at p) ∧
      t.slotGranule 0 (globalVa (s.strand 0) f ldForm 4 0) p 0 = (u, .ok) ∧ setGranule ∈ (s.strand 0).aset.holds ∧
      u.lineBusy (coreOf 0) (s.strand 0).info.ctx p = (v, false)) ∧
    (let s := holding (.vatom false 2 0xC8 0 0 0) atForm
     ∃ f t p u v w old, (s.strand 0).flight = some f ∧ s.slotPlace 0 (globalVa (s.strand 0) f atForm 4 0) .atomic = (t, .at p) ∧
      t.slotGranule 0 (globalVa (s.strand 0) f atForm 4 0) p 0 = (u, .ok) ∧ u.lineBusy (coreOf 0) (s.strand 0).info.ctx p = (v, false) ∧
      (v.strand 0).setBound = true ∧ v.heldAtomic 0 p 4 (atomBytes (v.strand 0) f atForm 4 0) = (w, some old)) ∧
    (let s := holding (.vred false 2 0xC8 0 0 0) redForm
     ∃ f t p u w old, (s.strand 0).flight = some f ∧ s.slotPlace 0 (globalVa (s.strand 0) f redForm 4 0) .atomic = (t, .at p) ∧
      t.slotGranule 0 (globalVa (s.strand 0) f redForm 4 0) p 0 = (u, .ok) ∧
      u.heldAtomic 0 p 4 (atomBytes (u.strand 0) f redForm 4 0) = (w, some old) ∧ (u.strand 0).hasLine p = true ∧
      (u.strand 0).fetchedLine p = some (List.replicate 64 0)) ∧
    (let s := boundAt (.vst false 2 0xC8 0) stForm 0x40000
     ∃ f, (s.strand 0).flight = some f ∧ stForm.op = .st ∧ (s.strand 0).inSet (globalVa (s.strand 0) f stForm 4 0) = none) := by
  refine ⟨⟨_, rfl, by decide, by decide, by decide, by decide⟩, ⟨_, _, _, _, _, rfl, by decide, by decide, rfl, rfl, by decide, by decide,
    by decide, by decide, by decide, by decide⟩, ⟨_, _, _, _, _, rfl, rfl, rfl, by decide, rfl⟩,
    ⟨_, _, _, _, _, _, _, rfl, rfl, rfl, rfl, by decide, rfl⟩, ⟨_, _, _, _, _, _, rfl, rfl, rfl, rfl, by decide, by decide⟩,
    ⟨_, rfl, by decide, by decide⟩⟩

/-- An atomic step on a line that nothing is on its way to, and one to which a store is. -/
theorem witness_AtomicSteps :
    (let p : PAddr := { host := false, addr := 0x20000 }
     (∀ e ∈ ((own).core (coreOf 0)).cb, e.work.ctx ≠ ((own).strand 0).info.ctx ∨ e.pa ≠ p.line) ∧
      (∀ e ∈ ((own).core (coreOf 0)).sq, ∀ q, e.pa = some q → q.line ≠ p.line) ∧ ((own).memBytes p 4).reverse.length = 4) ∧
    (∃ e q, (placed.core 0).sq = [e] ∧ e.pa = some q ∧ q.line = q.line) ∧
    (redForm.op = .red 0 ∧ atForm.op = .atom 0 ∧ (formOf (.vcas false 2 0xC8 0)).op = .cas) := by
  refine ⟨⟨by decide, ?_, by decide⟩, ⟨_, _, rfl, rfl, rfl⟩, rfl, rfl, rfl⟩
  have h : ((own).core (coreOf 0)).sq = [] := rfl
  simp [h]

/-- An atomic add adds to memory and returns the old value (R219, R220). -/
theorem test_atomic_add :
    let s := own.memWrite { host := false, addr := 0x20000 } [5, 0, 0, 0]
    let p : PAddr := { host := false, addr := 0x20000 }
    let r := s.homeAtomic 0 p 4 (fun b => bytesOfWord (atomOp 0 (wordOfBytes b) 3))
    r.2 = [5, 0, 0, 0] ∧ r.1.memBytes p 4 = [8, 0, 0, 0] := by decide

/-- Registers of a copy that are legal, with each illegal operand, and with a byte barrier at the end of the window, beyond it, and
none. -/
theorem witness_EngineWords_checks :
    (let w (l : List Word) (i : Nat) : Nat := (l.getD i 0).toNat
     ¬Claims.badCopy 0 (w [0x20000, 0, 0x20100, 0, 64, 0, 0, 0xFFFFFFF0]) ∧ Claims.badCopy 0 (w [0x20040]) ∧ Claims.badCopy 1 (w [0, 0, 2]) ∧
      Claims.badCopy 4 (w [0, 0, 0, 0, 2]) ∧ Claims.badCopy 0 (w [0, 0, 0, 0, 0, 1]) ∧ Claims.badCopy 0 (w [0, 0, 0, 0, 0, 0, 0, 3]) ∧
      Claims.badCopy 3 (w [0, 0, 0, 0, 0, 0, 0, 8]) ∧ ¬Claims.badCopy 0 (w [0, 0, 0, 0, 0, 0, 0, 11])) ∧
    (0xFFFFFFF0 / 16 = 0xFFFFFFF ∧ 65536 < 0xFFF1 * 16 + 16 ∧ 0xFFF * 16 + 16 ≤ 65536) := by
  refine ⟨?_, by decide⟩
  simp [Claims.badCopy]

/-- With its only link stopped an access of the host from outside stalls; an input that stalled before goes first when it can. -/
theorem witness_StepMakesOneMove_late :
    (let s : State := { own with stuck := [.podPortUp 1] }
     Move.late ∈ s.moves) ∧
    (let s : State := { State.reset with power := .on, stuck := [.podPortUp 1] }
     s.moves = [.late] ∧ ∃ t, exec (.podPortUp 1) { s.closeClock .late with stuck := [] } = .next t) ∧
    (let t : HostTxn := { firmware := false, write := false, addr := 0x20000, data := [], len := 1 }
     let s : State := { State.reset with dies := [(homeDie { host := false, addr := 0x20000 }, { linkStopped := true })], inputs := [.hostAccess t] }
     s.moves = [.input] ∧ s.admits (.hostAccess t) = true ∧
      ∃ u, exec (.hostAccess t) { s.closeClock .input with inputs := [] } = .next u ∧ u.stalled = true) ∧
    (State.reset.closeClock (.issue 3) = State.reset) := by
  refine ⟨by decide, ⟨by decide, _, rfl⟩, ⟨by decide, by decide, _, rfl, by decide⟩, rfl⟩

end Sys2Proof.Tests
end

/-!
PROOFS. Decoding and encoding are inverse (R15, R28, R35): what each part of the decoder accepts is encoded back to the
same word, part by part of R46 to R53.
-/

namespace Sys2Proof.Laws

/-! ### A word is made of its fields -/

/-- R28, R35. A word is its chain bit, its major and its three bytes. -/
theorem wordT_fields (w : Word) : wordT (fieldC w) (fieldMaj w) (fieldD w) (fieldA w) (fieldB w) = w := by
  have h : BitVec.ofBool (fieldC w) = w.extractLsb' 31 1 := by
    ext i hi
    simp [fieldC, show i = 0 by omega]
  simp only [wordT, h, fieldMaj, fieldD, fieldA, fieldB, BitVec.extractLsb'_append_extractLsb'_eq_extractLsb',
    BitVec.extractLsb'_eq_self]

theorem fieldI_eq_append (w : Word) : fieldI w = fieldA w ++ fieldB w := by
  simp only [fieldI, fieldA, fieldB, BitVec.extractLsb'_append_extractLsb'_eq_extractLsb']

theorem fieldO_eq_append (w : Word) : fieldO w = fieldD w ++ fieldA w ++ fieldB w := by
  simp only [fieldO, fieldD, fieldA, fieldB, BitVec.extractLsb'_append_extractLsb'_eq_extractLsb']

theorem wordI_append (c : Bool) (m : BitVec 7) (d a b : BitVec 8) : wordI c m d (a ++ b) = wordT c m d a b := by
  simp only [wordI, wordT, BitVec.append_assoc, BitVec.cast_eq]

theorem wordJ_append (c : Bool) (m : BitVec 7) (d a b : BitVec 8) : wordJ c m (d ++ a ++ b) = wordT c m d a b := by
  simp only [wordJ, wordT, BitVec.append_assoc, BitVec.cast_eq]

theorem wordI_fields (w : Word) : wordI (fieldC w) (fieldMaj w) (fieldD w) (fieldI w) = w := by
  rw [fieldI_eq_append, wordI_append, wordT_fields]

theorem wordJ_fields (w : Word) : wordJ (fieldC w) (fieldMaj w) (fieldO w) = w := by
  rw [fieldO_eq_append, wordJ_append, wordT_fields]

/-! ### Fields put together again -/

theorem tile_fmt_join : ∀ x : BitVec 8, x.extractLsb' 6 2 ++ x.extractLsb' 0 6 = x := by decide
theorem tile_alone_join : ∀ x : BitVec 8, x &&& 0x3F#8 = 0#8 → x.extractLsb' 6 2 ++ 0#6 = x := by decide
theorem tile_block_join : ∀ x : BitVec 8, x &&& 0x38#8 = 0#8 → x.extractLsb' 6 2 ++ 0#3 ++ x.extractLsb' 0 3 = x := by decide
theorem fence_join : ∀ x : BitVec 8, x &&& 0x1C#8 = 0#8 → x.extractLsb' 5 3 ++ 0#3 ++ x.extractLsb' 0 2 = x := by decide
theorem drain_join : ∀ x : BitVec 8, x &&& 0xE0#8 = 0#8 → 0#3 ++ x.extractLsb' 4 1 ++ x.extractLsb' 0 4 = x := by decide
theorem handle_join : ∀ x : BitVec 8, x &&& 0xF0#8 = 0#8 → 0#4 ++ x.extractLsb' 0 4 = x := by decide
theorem mask_join : ∀ x : BitVec 8, x &&& 0xF8#8 = 0#8 → 0#5 ++ x.extractLsb' 0 3 = x := by decide
theorem set_join : ∀ x : BitVec 8, x &&& 0xFC#8 = 0#8 → 0#6 ++ x.extractLsb' 0 2 = x := by decide
theorem level_join : ∀ x : BitVec 8, x &&& 0xFE#8 = 0#8 → 0#7 ++ x.extractLsb' 0 1 = x := by decide
theorem compare_join : ∀ x : BitVec 8, x &&& 0x88#8 = 0#8 →
    0#1 ++ x.extractLsb' 4 3 ++ 0#1 ++ x.extractLsb' 0 3 = x := by decide
theorem convert_join : ∀ x : BitVec 8, x &&& 0x80#8 = 0#8 →
    0#1 ++ x.extractLsb' 6 1 ++ x.extractLsb' 3 3 ++ x.extractLsb' 0 3 = x := by decide
theorem lane_join : ∀ x : BitVec 8, x &&& 0xC0#8 = 0#8 → 0#2 ++ x.extractLsb' 3 3 ++ x.extractLsb' 0 3 = x := by decide
theorem atomic_join : ∀ x : BitVec 8, x.extractLsb' 5 3 ++ x.extractLsb' 4 1 ++ x.extractLsb' 0 4 = x := by decide
theorem barrier_join : ∀ x : BitVec 8, x.extractLsb' 5 3 ++ x.extractLsb' 0 5 = x := by decide
theorem upfx_join : ∀ x : BitVec 8,
    x.extractLsb' 6 2 ++ x.extractLsb' 4 2 ++ x.extractLsb' 2 2 ++ x.extractLsb' 0 2 = x := by decide

/-- The condition and the offset of a BR take the sixteen bits below its register. -/
theorem branch_join (a b : BitVec 8) : a.extractLsb' 5 3 ++ (a ++ b).extractLsb' 0 13 = a ++ b := by
  have h : (a ++ b).extractLsb' 13 3 = a.extractLsb' 5 3 := BitVec.extractLsb'_append_eq_of_le (by decide)
  rw [← h, BitVec.extractLsb'_append_extractLsb']

/-- The fields of VPFX, with its low three bits zero (R39), are its twenty-four bits. -/
theorem vpfx_join (o : BitVec 24) (h : o.extractLsb' 0 3 = 0#3) :
    o.extractLsb' 21 3 ++ o.extractLsb' 18 3 ++ o.extractLsb' 17 1 ++ o.extractLsb' 15 2 ++ o.extractLsb' 13 2
      ++ o.extractLsb' 11 2 ++ o.extractLsb' 3 8 ++ 0#3 = o := by
  rw [← h]
  simp only [BitVec.extractLsb'_append_extractLsb'_eq_extractLsb', BitVec.extractLsb'_eq_self]

/-! ### What each part of the decoder accepts -/

/-- Where a part of the decoder answers with an instruction, w is that instruction's word. -/
def Encodes (r : Except Reject Instr) (w : Word) : Prop := ∀ i, r = .ok i → encode i = some w

theorem encodes_error (e : Reject) (w : Word) : Encodes (.error e) w := by
  rintro _ ⟨⟩

theorem encodes_ok {i : Instr} {v w : Word} (h : encode i = some v) (e : v = w) : Encodes (.ok i) w := by
  rintro _ ⟨⟩
  rw [h, e]

theorem encodes_decodeUniform (m : BitVec 7) (c : Bool) (d a b : BitVec 8) :
    Encodes (decodeUniform m c d a b (a ++ b) (d ++ a ++ b)) (wordT c m d a b) := by
  fun_cases decodeUniform m c d a b (a ++ b) (d ++ a ++ b)
  case' case23 => fun_cases decodeUun c d a b
  case' case31 => fun_cases decodeUsys c d a b
  any_goals exact encodes_error _ _
  all_goals exact encodes_ok rfl (by simp only [wordI_append])

theorem encodes_decodeVector (m : BitVec 7) (c : Bool) (d a b : BitVec 8) :
    Encodes (decodeVector m c d a b (a ++ b) (d ++ a ++ b)) (wordT c m d a b) := by
  fun_cases decodeVector m c d a b (a ++ b) (d ++ a ++ b)
  case' case27 => fun_cases decodeVun c d a b
  case' case42 => fun_cases decodeVfun c d a b
  case' case43 => fun_cases decodeVcvt c d a b
  case' case48 => fun_cases decodeVsfu c d a b
  any_goals exact encodes_error _ _
  all_goals exact encodes_ok rfl (by simp only [compare_join, convert_join, lane_join, set_join, *])

theorem encodes_decodeMemory (m : BitVec 7) (c : Bool) (d a b : BitVec 8) :
    Encodes (decodeMemory m c d a b (a ++ b) (d ++ a ++ b)) (wordT c m d a b) := by
  fun_cases decodeMemory m c d a b (a ++ b) (d ++ a ++ b)
  case' case15 => fun_cases decodeVspfe c d a b
  any_goals exact encodes_error _ _
  all_goals exact encodes_ok rfl (by simp only [atomic_join, level_join, *])

theorem encodes_decodeMatrixCopy (m : BitVec 7) (c : Bool) (d a b : BitVec 8) :
    Encodes (decodeMatrixCopy m c d a b (a ++ b) (d ++ a ++ b)) (wordT c m d a b) := by
  fun_cases decodeMatrixCopy m c d a b (a ++ b) (d ++ a ++ b)
  case' case12 => fun_cases decodeCpy c d a b
  case' case15 => fun_cases decodeHnd c d a b
  case' case16 => fun_cases decodeBb c d a b
  any_goals exact encodes_error _ _
  all_goals exact encodes_ok rfl (by
    simp only [tile_fmt_join, tile_alone_join, tile_block_join, drain_join, handle_join, *])

theorem encodes_decodeControl (m : BitVec 7) (c : Bool) (d a b : BitVec 8) :
    Encodes (decodeControl m c d a b (a ++ b) (d ++ a ++ b)) (wordT c m d a b) := by
  fun_cases decodeControl m c d a b (a ++ b) (d ++ a ++ b)
  case' case4 => fun_cases decodeCtrl c d a b
  case' case6 => fun_cases decodeMask c d a b
  case' case7 => fun_cases decodeSync c d a b
  case' case8 => fun_cases decodeTask c d a b
  case' case9 => fun_cases decodeAset c d a b
  case' case10 => fun_cases decodeEner c d a b
  case' case11 => fun_cases decodeCnt c d a b
  case' case12 => fun_cases decodeTrec c d a b
  any_goals exact encodes_error _ _
  all_goals exact encodes_ok rfl (by
    simp only [wordI_append, wordJ_append, branch_join, fence_join, mask_join, barrier_join, handle_join, set_join, *])

/-- A word that decodes to an instruction is the word that encodes it. -/
theorem encodes_decode (w : Word) : Encodes (decode w) w := by
  fun_cases decode w
  any_goals exact encodes_error _ _
  case case1 h => exact encodes_ok rfl h.symm
  case case3 hm hc => exact encodes_ok rfl (by simpa only [upfx_join, hm, hc] using wordI_fields w)
  case case5 hm h =>
    obtain ⟨hc, ho⟩ := h
    exact encodes_ok rfl (by simpa only [vpfx_join _ ho, hm, hc] using wordJ_fields w)
  all_goals rw [fieldI_eq_append, fieldO_eq_append]
  case case7 => simpa only [wordT_fields] using encodes_decodeUniform (fieldMaj w) (fieldC w) (fieldD w) (fieldA w) (fieldB w)
  case case8 => simpa only [wordT_fields] using encodes_decodeVector (fieldMaj w) (fieldC w) (fieldD w) (fieldA w) (fieldB w)
  case case9 => simpa only [wordT_fields] using encodes_decodeMemory (fieldMaj w) (fieldC w) (fieldD w) (fieldA w) (fieldB w)
  case case10 =>
    simpa only [wordT_fields] using encodes_decodeMatrixCopy (fieldMaj w) (fieldC w) (fieldD w) (fieldA w) (fieldB w)
  case case11 => simpa only [wordT_fields] using encodes_decodeControl (fieldMaj w) (fieldC w) (fieldD w) (fieldA w) (fieldB w)

/-! ### Memory order -/

/-- R15. The four bytes of a word in memory hold it. -/
theorem wordOfBytes_bytesOfWord (w : Word) : wordOfBytes (bytesOfWord w) = w := by
  simp only [wordOfBytes, bytesOfWord, List.getD_cons_zero, List.getD_cons_succ,
    BitVec.extractLsb'_append_extractLsb'_eq_extractLsb', BitVec.extractLsb'_eq_self]

theorem decodeBytes_bytesOfWord (w : Word) : decodeBytes (bytesOfWord w) = decode w :=
  congrArg decode (wordOfBytes_bytesOfWord w)

/-- The family Encoding holds of every instruction: one law for each constructor. -/
theorem Encoding.decode_encode : ∀ i : Instr, Statement i :=
  Instr.rec
    unop uadd usub umul umulhI umulhN uand uor uxor uandn ushl ushr usar uminI uminN umaxI umaxN usltI usltN useq
    uaddi umovi ului uclz upopc ubrev usext8 usext16 uneg uabs ubfe ubfi ufadd ufmul ufslt uld ust usr usw
    returnStackRegisterWrite rngkeyWrite sfAccess upfx vpfx vadd vsub vmul vmulhI vmulhN vmad vand vor vxor vandn vshl
    vshr vsar vminI vminN vmaxI vmaxN vbfe vbfi vsel vcmpI vcmpN vfcmpF32 vclz vpopc vbrev vsext8 vsext16 vneg vabs
    vmov vfaddF32 vfsubF32 vfmulF32 vfmaF32 vfminF32 vfmaxF32 vfaddF16x2 vfmulF16x2 vfmaF16x2 vfaddBf16x2 vfmulBf16x2
    vfmaBf16x2 vdot2F16 vdot2Bf16 vfabs vfneg vfclass vfrnd vcvt vqcvt vqexp vrcp vrsq vsqrt vexp2 vlog2 vsin vcos
    vtanh vshfl vrot vredu vtrans vrand vld vst vlds vsts vatom vred vatoms vcas vcass vldfe vstef vpref vldpk
    vspfeEmpty vspfeFull vspfeGet mma mzero mtov mfromv mdrain mrp cpyG2s cpyS2g cpyS2gAdd cpyG2g cpyS2s cpyGate ckick
    hwait htest hcancel hmove hexport himport bbinit bbexpect bbarrive bbwait bbtest br jmp call loop ret bri calli
    yield exit tret sdrain fence trap mget mset mand mandn mor mxor mlive mpopc mfirst mput mtake bar bara barw bard
    barj spawn qpush qpop qtrypush qtrypop tlsig tlwait tlread coll asdef astouch asage asq asretry erd ebkt eop cntrd
    tstamp trd twr packetFetch vWordCompletion specialFunctionDelivery scratchpadResultDelivery globalLoadCompletion
    yieldWindowExpiry issueStarvationPromotion storeQueueTranslation storeArrivesHome pageWalkStart pageWalkComplete
    priResponse priTimeout atsInvalidate translationInvalidateCommand combiningEntryTimeout combiningFlushApplied
    sharedCacheWriteback sharedCacheFlush remoteMessage remoteReply fullEmptyWake scratchpadReservation
    scratchpadBlockReturn launchCommandCheck dispatchPlacement dispatchPassoverBlock gangFieldsMessage gangReady
    gangGoCheck gangGo gangAbort gangTick granuleRequest granuleGrant granuleRelease wound rollback rollbackRestart
    irrevocableTokenGrant holdBufferDrainComplete asretryDelayExpiry mmaStagingComplete mmaStart mmaRowCommit
    mmaComplete mmaSuspension tilePortComplete governorStepBoundary copyRequestStart ckickEntryFetch copyChunkComplete
    copyRequestComplete copyFailure copyCancelEffect byteBarrierWake barrierStep barrierWake queueHomeStep
    queueEntryWritten queueEntryRead queueWaiterServe timelineWake taskWordHomeReply collectiveComplete
    collectiveTimeout drawServed holdLimitExpiry residentIdleCharge refillTick reckoningWindowClose meterRecordSecond
    meterBatchWrite opChangeClockRestart wyariRound demand grant firmwareSetAllowance energyBlockWrite partitionSwitch
    partitionHaltComplete spillComplete refillComplete watchdogIdleFire watchdogRunFire trapEntry definePartition
    createContext destroyContext lock start stop doorbell queueInterfaceFetch errorLogEntryWrite
    queueControlBlockWrite flr flrDrainTimeout hostKill uncorrectableRead eccRetryResult correctedErrorReport
    keySlotWrite linkKeyProgram linkRekeyInterrupt linkCounterExhausted linkKeyTimeout gateEntryWrite reclaim accept
    force getVersion getCapabilities negotiateAlgorithms getDigests getCertificate challenge getMeasurements
    pluginFault schedulerFault hostAccess dieBoundaryRetry packageLost hbmPowerDown openCounterSession
    closeCounterSession readcnt counterWrap freeze unlock scanCommand coldReset powerOn thermalThrottle thermalTrip
    atsTranslationCompletion contextMigration podPortDown podPortUp powerOff

/-- Settles O2: the laws of the family Encoding give one direction, what each part of the decoder accepts the other. -/
theorem decodeAndEncodeAgree : Obligations.DecodeAndEncodeAgree := by
  unfold Obligations.DecodeAndEncodeAgree
  refine ⟨fun i w hi hw => ?_, encodes_decode⟩
  rw [decodeBytes_bytesOfWord]
  exact Encoding.decode_encode i hi w hw

end Sys2Proof.Laws

/-!
PROOFS. A store to memory read back (R188, R414), and TRAP (R95).
-/

namespace Sys2Proof.Machine

/-! ### Memory -/

/-- R414. The key slot of a byte after a store: the store's within its range, the old one outside it. -/
theorem noteKey_get (k : Nat) (m : Assoc Nat) (a n j : Nat) :
    Sp.get 0 (noteKey k m a n) j = if a ≤ j ∧ j < a + n then k else Sp.get 0 m j := by
  induction n generalizing m a with
  | zero =>
    have h : ¬ (a ≤ j ∧ j < a + 0) := by omega
    rw [if_neg h]
    rfl
  | succ n ih =>
    rw [noteKey, ih, Sp.get_set]
    grind

/-- A store reads back each of its bytes, through the key slot it was written under. -/
theorem State.memByte_memWrite_plus (s : State) (p : PAddr) (l : List Byte) {i : Nat} (h : i < l.length) :
    (s.memWrite p l).memByte (p.plus i) = l.getD i 0 := by
  have hin : p.addr ≤ p.addr + i ∧ p.addr + i < p.addr + l.length := by omega
  cases hp : p.host <;>
    simp only [State.memWrite, State.memByte, PAddr.plus, hp, storeBytes_get, noteKey_get, hin, Nat.add_sub_cancel_left,
      beq_self_eq_true, Bool.or_true, Bool.true_or, and_self, if_true, if_false, Bool.false_eq_true]

/-- A store changes no byte of the other memory, nor one outside its range. -/
theorem State.memByte_memWrite_outside (s : State) (p : PAddr) (l : List Byte) {a : PAddr}
    (h : a.host ≠ p.host ∨ a.addr < p.addr ∨ p.addr + l.length ≤ a.addr) : (s.memWrite p l).memByte a = s.memByte a := by
  by_cases e : a.host = p.host
  · have hout : ¬ (p.addr ≤ a.addr ∧ a.addr < p.addr + l.length) := by
      have := h.resolve_left (not_not_intro e)
      omega
    cases hp : p.host <;>
      simp only [State.memWrite, State.memByte, e, hp, storeBytes_get, noteKey_get, hout, if_true, if_false, Bool.false_eq_true]
  · cases hp : p.host <;> simp_all [State.memWrite, State.memByte]

theorem State.memBytes_memWrite (s : State) (p : PAddr) (l : List Byte) : (s.memWrite p l).memBytes p l.length = l := by
  apply List.ext_getElem (by simp [State.memBytes])
  intro i _ hi
  simp [State.memBytes, s.memByte_memWrite_plus p l hi, hi]

/-- Nothing but the two memories and the key slots changes in a store. -/
theorem State.memWrite_rest (s : State) (p : PAddr) (l : List Byte) :
    { s.memWrite p l with hbm := s.hbm, hostMem := s.hostMem, keyed := s.keyed } = s := by
  unfold State.memWrite
  split <;> rfl

/-- Settles O5, by the laws of a store's bytes and key slots, inside its range and outside it. -/
theorem memoryReadsWhatWasStored : Obligations.MemoryReadsWhatWasStored := by
  unfold Obligations.MemoryReadsWhatWasStored
  exact fun s p l => ⟨fun _ h => s.memByte_memWrite_plus p l h, s.memBytes_memWrite p l,
    fun _ h => s.memByte_memWrite_outside p l h, s.memWrite_rest p l, s.memWrite_memWf p l⟩

/-! ### TRAP -/

/-- Settles O22: TRAP has no operand, so it goes straight to its trap, charged one uniform word. -/
theorem trapWord : Obligations.TrapWord := by
  unfold Obligations.TrapWord
  intro c d s
  refine ⟨?_, rfl⟩
  change execTrap c d s = _
  rw [execTrap, State.uWord_none]
  rfl

end Sys2Proof.Machine

/-!
PROOFS. The course that a V word takes onto the rod, and VREDU, VTRANS and VRAND (R158 to R161).
-/

namespace Sys2Proof.Machine

open Sys2Proof.Claims

/-! ### The rod and the generator -/

/-- R71, R74. Late results that commit as a V word enters leave the key and the counter of the generator alone. -/
theorem Strand.vEnter_rng (t : Strand) : t.vEnter.rngKey = t.rngKey ∧ t.vEnter.rngCtr = t.rngCtr := by
  unfold Strand.vEnter Strand.commitLate
  refine foldl_keeps (P := fun u : Strand => u.rngKey = t.rngKey ∧ u.rngCtr = t.rngCtr) (fun u x hu => ?_) _ ⟨rfl, rfl⟩
  dsimp only
  split <;> exact hu

/-- What an update of the issuing strand keeps, every word of the group reads as before. -/
theorem State.old_modMe_keeps {α : Type} (s : State) {f : Strand → Strand} (p : Strand → α) (h : ∀ t, p (f t) = p t) :
    p (s.modMe f).old = p s.old := by
  have hme : (s.modMe f).me = f s.me := by simp [State.modMe, State.me, State.modStrand]
  unfold State.old
  rw [hme]
  change p (s.iss.snap.getD _) = _
  cases s.iss.snap with
  | none => exact h s.me
  | some t => rfl

/-- R68. Taking the rod changes only what is in flight, so it keeps what every word of the group reads elsewhere. -/
theorem State.old_takeRod_keeps {α : Type} (s : State) (i : Instr) (act : Word) (m : Option Nat) (p : Strand → α)
    (h : ∀ t fl, p { t with flight := fl } = p t) : p (s.takeRod i act m).old = p s.old :=
  s.old_modMe_keeps p fun t => h t _

/-- R125, R160. A V word that has entered the rod finds the key and the counter of the generator as they were. -/
theorem State.vEntered_old_rng (s : State) (i : Instr) (m : Option Nat) :
    (vEntered s i m).old.rngKey = s.old.rngKey ∧ (vEntered s i m).old.rngCtr = s.old.rngCtr :=
  ⟨(State.old_takeRod_keeps _ i _ m Strand.rngKey fun _ _ => rfl).trans
      (s.old_modMe_keeps Strand.rngKey fun t => t.vEnter_rng.1),
    (State.old_takeRod_keeps _ i _ m Strand.rngCtr fun _ _ => rfl).trans
      (s.old_modMe_keeps Strand.rngCtr fun t => t.vEnter_rng.2)⟩

/-- An outcome that a test decides, case by case. -/
theorem next_ite {o : Host.Outcome State Fault Refusal} {p : Prop} [Decidable p] {a b : State}
    (h : o = .next (if p then a else b)) : (p → o = .next a) ∧ (¬ p → o = .next b) :=
  ⟨fun hp => by rw [h, if_pos hp], fun hp => by rw [h, if_neg hp]⟩

/-! ### Reduction, transpose and random words -/

/-- Settles O36: the checks of each word hold and its operands are ready, so it goes on from the rod (`vWord_ready`), where
with no slot active it is done; VRAND draws by the key and the counter that entering the rod has left alone. -/
theorem vectorReduceTransposeRandom : Obligations.VectorReduceTransposeRandom := by
  unfold Obligations.VectorReduceTransposeRandom
  refine ⟨?vredu, ?vtrans, ?vrand⟩
  case vredu =>
    intro c d a f s x hf hx hcy hw hrm hc hd hr
    refine next_ite ?_
    change Host.Outcome.next (s.vReduce (.vredu c d a f) f.toNat d a) = _
    simp only [State.vReduce, if_neg (Nat.not_lt.mpr hf), hx]
    exact congrArg _ (s.vWord_ready _ (by simp [hcy, hw, hrm, hc, hd]) hr)
  case vtrans =>
    intro c d a z s x hz hx hwd hwa hwb hrm hc hd hr
    refine next_ite ?_
    change Host.Outcome.next (if z = 3 then _ else s.vTranspose (.vtrans c d a z) (4 / 2 ^ z.toNat) d a) = _
    simp only [State.vTranspose, if_neg hz, hx]
    exact congrArg _ (s.vWord_ready _ (by simp [hwd, hwa, hwb, hrm, hc, hd]) hr)
  case vrand =>
    intro c d s hw hrm hc hd hr
    refine next_ite ?_
    obtain ⟨hkey, hctr⟩ := s.vEntered_old_rng (.vrand c d) none
    rw [← hkey, ← hctr]
    exact congrArg _ (s.vWord_ready _ (by simp [hw, hrm, hc, hd]) hr)

end Sys2Proof.Machine

/-!
PROOFS. The slots of words that address scratchpad by window offset, and the steps at the banks (R169 to R184).
-/

namespace Sys2Proof.Machine

/-! ### The banks -/

theorem length_bytesOfWord (w : Word) : (bytesOfWord w).length = 4 := rfl

/-- What is written at the banks reads back. -/
theorem CoreSt.readSp_writeSp (c : CoreSt) (o : Nat) (l : List Byte) {n : Nat} (h : l.length = n) :
    (c.writeSp o l).readSp o n = l := by
  subst h
  refine List.ext_getElem (by simp [CoreSt.readSp]) fun i _ hi => ?_
  simp only [CoreSt.readSp, CoreSt.writeSp, List.getElem_map, List.getElem_range, storeBytes_get]
  simp [hi]

/-- A write leaves every byte outside its range. -/
theorem CoreSt.readSp_writeSp_outside (c : CoreSt) (o : Nat) (l : List Byte) {p : Nat} (h : p < o ∨ o + l.length ≤ p) :
    (c.writeSp o l).readSp p 1 = c.readSp p 1 := by
  have hout : ¬ (o ≤ p ∧ p < o + l.length) := by omega
  simp only [CoreSt.readSp, CoreSt.writeSp, List.range_one, List.map_cons, List.map_nil, Nat.add_zero, storeBytes_get, if_neg hout]

/-- A bit reads as it was set. -/
@[simp] theorem CoreSt.full_setFull (c : CoreSt) (o : Nat) (b : Bool) : (c.setFull o b).full o = b :=
  Sp.get_set_self false c.fe (o / 4) b

/-! ### The course of a slot -/

/-- R177. An aligned offset within the window passes the checks. -/
theorem spadCheck_none {t : Strand} {n x : Nat} (m : MemForm) (k : Nat) (ha : x % n = 0) (hw : x + n ≤ t.winSize) :
    spadCheck t m n k x = none := by
  rw [spadCheck, if_neg (not_not_intro ha), if_neg (Nat.not_lt.mpr hw)]

/-- A slot whose offset does not pass faults. -/
theorem State.memSlot_fault {s : State} {g : Nat} {f : Flight} {m : MemForm} {n k : Nat} {i : TrapInfo} (hm : m.op.spad = true)
    (h : spadCheck (s.strand g) m n k (spadOff (s.strand g) f m n k) = some i) : s.memSlot g f m n k = (s, .fault i) := by
  simp only [State.memSlot, if_pos hm, h]

/-- A slot whose offset passes goes on in scratchpad, when it releases nothing or has sent its step. -/
theorem State.memSlot_spad {s : State} {g : Nat} {f : Flight} {m : MemForm} {n k : Nat} (hm : m.op.spad = true)
    (ha : spadOff (s.strand g) f m n k % n = 0) (hw : spadOff (s.strand g) f m n k + n ≤ (s.strand g).winSize)
    (hr : m.op ≠ .stef ∨ (s.strand g).sent = true) :
    s.memSlot g f m n k = s.spadSlot g f m n k (spadOff (s.strand g) f m n k) false := by
  have hn : (decide (m.op = .stef) && !(s.strand g).sent) = false := by
    rcases hr with hr | hr <;> simp [hr]
  simp only [State.memSlot, if_pos hm, spadCheck_none m k ha hw, hn, Bool.false_eq_true, if_false]

/-- R183. A slot of VSTEF that has not sent its step waits as a release first, and goes on when its wait is over. -/
theorem State.memSlot_stef {s t : State} {g : Nat} {f : Flight} {m : MemForm} {n k : Nat} {b : Bool} (hm : m.op = .stef)
    (ha : spadOff (s.strand g) f m n k % n = 0) (hw : spadOff (s.strand g) f m n k + n ≤ (s.strand g).winSize)
    (hs : (s.strand g).sent = false) (hr : s.releaseWord g f m.scope = (t, b)) :
    s.memSlot g f m n k =
      if b then (t.modFlight g (fun f => { f with relIds := none })).spadSlot g f m n k (spadOff (s.strand g) f m n k) false
      else (t, .stop .release) := by
  have hsp : m.op.spad = true := by rw [hm]; rfl
  have hn : (decide (m.op = .stef) && !(s.strand g).sent) = true := by simp [hm, hs]
  simp only [State.memSlot, if_pos hsp, spadCheck_none m k ha hw, hn, if_true, hr]
  cases b <;> rfl

/-- A VSTEF returns nothing, so its slot is done with its step. -/
theorem State.spadDone_stef (s : State) (g : Nat) (f : Flight) {m : MemForm} (k : Nat) (b : List Byte) (w r : Bool)
    (h : m.op = .stef) : s.spadDone g f m k b w r = s := by
  simp [State.spadDone, h, MemOp.writesD]

section Slot

variable {s : State} {g : Nat} {f : Flight} {m : MemForm} {n k x c o : Nat}
  (hset : (m.op.waits && (s.strand g).setBound && !(s.strand g).aset.holds.isEmpty) = false)
  (hp : (s.strand g).winPlace x = (c, o))

include hset hp

/-- A slot of a block on the strand's core is done when its step is made. -/
theorem State.spadSlot_made {r : State × List Byte} (ho : s.spadOrder g c = true) (hc : c = coreOf g)
    (h : s.spPerform c o (spadOp (s.strand g) f m n k) = some r) :
    s.spadSlot g f m n k x false = (r.1.spadDone g f m k r.2 false false, .ok) := by
  subst hc
  simp [State.spadSlot, hset, hp, ho, h]

/-- R174. A step that finds the bit in the wrong state waits for it. -/
theorem State.spadSlot_waits (ho : s.spadOrder g c = true) (hc : c = coreOf g)
    (h : s.spPerform c o (spadOp (s.strand g) f m n k) = none) :
    s.spadSlot g f m n k x false = (s.enterWait g (.fullEmpty c o (m.op == .ldfe)), .stop .fullEmpty) := by
  subst hc
  simp [State.spadSlot, hset, hp, ho, h]

/-- R171. A slot of a block on another core that returns nothing, and is no VSTEF, is done when its message has gone. -/
theorem State.spadSlot_sends (ho : s.spadOrder g c = true) (hc : c ≠ coreOf g) (hs : (s.strand g).sent = false)
    (hf : s.remoteFull c = false) (hd : m.op.writesD = false) (hm : m.op ≠ .stef) :
    s.spadSlot g f m n k x false = ((s.sendRemote g c k o (spadOp (s.strand g) f m n k) .none).modStrand g
      (fun t => { t with unacked := t.unacked + 1 }), .ok) := by
  simp [State.spadSlot, hset, hp, ho, hc, hs, hf, hd, hm]

/-- R171. One that returns a value, or a VSTEF, waits when its message has gone. -/
theorem State.spadSlot_asks (ho : s.spadOrder g c = true) (hc : c ≠ coreOf g) (hs : (s.strand g).sent = false)
    (hf : s.remoteFull c = false) (hd : (m.op.writesD || m.op == .stef) = true) :
    s.spadSlot g f m n k x false =
      ((s.sendRemote g c k o (spadOp (s.strand g) f m n k) (if m.op.writesD then .slot else .step)).modStrand g
        (fun t => { t with sent := true }), .stop .remote) := by
  simp [State.spadSlot, hset, hp, ho, hc, hs, hf, hd]

/-- A slot whose message has gone waits while there is no reply. -/
theorem State.spadSlot_awaits (hc : c ≠ coreOf g) (hs : (s.strand g).sent = true) (hr : (s.strand g).reply8 = none) :
    s.spadSlot g f m n k x false = (s, .stop .remote) := by
  simp [State.spadSlot, hset, hp, hc, hs, hr]

/-- With the reply it is done, and the strand may send again. -/
theorem State.spadSlot_replied {b : List Byte} (hc : c ≠ coreOf g) (hs : (s.strand g).sent = true)
    (hr : (s.strand g).reply8 = some b) :
    s.spadSlot g f m n k x false =
      ((s.modStrand g (fun t => { t with sent := false, reply8 := none })).spadDone g f m k b false true, .ok) := by
  simp [State.spadSlot, hset, hp, hc, hs, hr, State.modStrand]

end Slot

/-- Settles O38: a slot's offset is checked (`spadCheck`), a VSTEF waits as a release (`memSlot_stef`), and then the slot acts
at its block or by message (`spadSlot_made` and its companions); the steps at the banks follow from what a write reads back. -/
theorem scratchpadSlots : Obligations.ScratchpadSlots := by
  unfold Obligations.ScratchpadSlots
  refine ⟨?checks, ?here, ?other, ?stef, ?stefSent, fun _ _ _ => rfl, ?store, ?atom, ?cas, ?ldfe, ?ldfeWaits, ?stefStep,
    ?stefWaits, ?feSet, fun _ _ => rfl⟩
  case checks =>
    intro s g f m n k hm
    refine ⟨fun ha => State.memSlot_fault hm ?_, fun ha hw => State.memSlot_fault hm ?_⟩
    · rw [spadCheck, if_pos ha]
    · rw [spadCheck, if_neg (not_not_intro ha), if_pos hw]
  case here =>
    intro s g f m n k o hm hne ha hw hset ho hp
    rw [State.memSlot_spad hm ha hw (.inl hne)]
    exact ⟨fun r h => State.spadSlot_made hset hp ho rfl h, fun h => State.spadSlot_waits hset hp ho rfl h⟩
  case other =>
    intro s g f m n k c o hm hne ha hw hset hp hc
    rw [State.memSlot_spad hm ha hw (.inl hne)]
    refine ⟨fun hs ho hf => ⟨fun hd => State.spadSlot_sends hset hp ho hc hs hf hd hne, fun hd => ?_⟩,
      fun hs => ⟨fun hr => State.spadSlot_awaits hset hp hc hs hr, fun b hr => State.spadSlot_replied hset hp hc hs hr⟩⟩
    rw [State.spadSlot_asks hset hp ho hc hs hf (by rw [hd]; rfl), if_pos hd]
  case stef =>
    intro s t g f m n k hm ha hw hs
    refine ⟨fun hr => State.memSlot_stef hm ha hw hs hr, fun u c o hr hu hset hs' hp ho => ?_⟩
    rw [State.memSlot_stef hm ha hw hs hr, if_pos rfl, ← hu]
    have hset' : (m.op.waits && (u.strand g).setBound && !(u.strand g).aset.holds.isEmpty) = false := by
      rw [hm]; exact hset
    have hop : spadOp (u.strand g) f m n k = .stef (f.bvals.get (2 * k)) := by simp only [spadOp, hm]
    have hld : (m.op == MemOp.ldfe) = false := by rw [hm]; rfl
    have hd : m.op.writesD = false := by rw [hm]; rfl
    refine ⟨fun r hc h => ?_, fun hc h => ?_, fun hc hf => ?_⟩
    · rw [State.spadSlot_made hset' hp ho hc (hop ▸ h), State.spadDone_stef _ _ _ _ _ _ _ hm]
    · rw [State.spadSlot_waits hset' hp ho hc (hop ▸ h), hld]
    · rw [State.spadSlot_asks hset' hp ho hc hs' hf (by rw [hm]; rfl), hop, hd]
      rfl
  case stefSent =>
    intro s g f m n k hm ha hw hset hs hc
    have hset' : (m.op.waits && (s.strand g).setBound && !(s.strand g).aset.holds.isEmpty) = false := by
      rw [hm]; exact hset
    rw [State.memSlot_spad (by rw [hm]; rfl) ha hw (.inr hs)]
    refine ⟨fun hr => State.spadSlot_awaits hset' rfl hc hs hr, fun b hr => ?_⟩
    rw [State.spadSlot_replied hset' rfl hc hs hr, State.spadDone_stef _ _ _ _ _ _ _ hm]
  case store =>
    exact fun c o d => ⟨_, rfl, c.readSp_writeSp o d rfl, fun _ h => c.readSp_writeSp_outside o d h, rfl, rfl⟩
  case atom =>
    exact fun c o op v => ⟨_, rfl, c.readSp_writeSp o _ (length_bytesOfWord _), fun _ h => c.readSp_writeSp_outside o _ h, rfl, rfl⟩
  case cas =>
    intro c o x y hl
    refine ⟨_, rfl, ?_, fun p h => ?_⟩
    · split
      · exact c.readSp_writeSp o y hl
      · rfl
    · split
      · exact c.readSp_writeSp_outside o y (hl ▸ h)
      · rfl
  case ldfe => exact fun c o h => ⟨_, if_pos h, c.full_setFull o false, rfl⟩
  case ldfeWaits => exact fun c o h => if_neg (by simp [h])
  case stefStep =>
    exact fun c o v h => ⟨_, if_neg (by simp [h]), CoreSt.full_setFull _ o true, c.readSp_writeSp o _ (length_bytesOfWord v)⟩
  case stefWaits => exact fun c o v h => if_pos h
  case feSet => exact fun c o b => ⟨_, rfl, c.full_setFull o b, rfl⟩

end Sys2Proof.Machine

/-!
PROOFS. Events of remote messages, full/empty bits, byte barriers, barriers, queues, timelines and collectives (R171, R174,
R313, R327, R337 to R341).
-/

namespace Sys2Proof.Machine

open Sys2Proof.Claims

/-! ### Waits -/

/-- A strand whose wait meets the test has it in front already. -/
theorem Strand.bring_of_front {t : Strand} {p : WaitOn → Bool} (h : p t.wait = true) : t.bring p = t := if_pos h

/-- R174. A strand that waits for a bit goes on when it stands, and stays as it is when it does not. -/
theorem exec_fullEmptyWake {s : State} {g core off : Nat} {b : Bool} (hw : (s.strand g).wait = .fullEmpty core off b)
    (hs : (s.strand g).state = .waiting) :
    exec (.fullEmptyWake g) s =
      .next (if (s.core core).full off = b then (s.modStrand g Strand.wakeUp).goOn g else s) := by
  change execFullEmptyWake g s = _
  rw [execFullEmptyWake, Strand.bring_of_front (by rw [hw])]
  simp only [hw, hs, true_and]
  rfl

/-- R313. A strand that waits for a phase goes on when it stands. -/
theorem exec_byteBarrierWake {s : State} {g core off : Nat} {b : Bool} (hw : (s.strand g).wait = .byteBarrier core off b)
    (hs : (s.strand g).state = .waiting) :
    exec (.byteBarrierWake g) s =
      .next (if ((s.core core).byteBar off).phase = b then (s.modStrand g Strand.wakeUp).acquireNow g (s.flipScope core off)
        else s) := by
  change execByteBarrierWake g s = _
  rw [execByteBarrierWake, Strand.bring_of_front (by rw [hw])]
  simp only [hw, hs, true_and]
  rfl

/-- R327. A strand that waits for a generation goes on when it has passed. -/
theorem exec_barrierWake {s : State} {g i : Nat} {gen : Word} {b : BarInst} (hw : (s.strand g).wait = .barrier i gen)
    (hs : (s.strand g).state = .waiting) (hb : s.bars.find? i = some b) :
    exec (.barrierWake g) s =
      .next (if passed b.gen gen then (s.modStrand g Strand.wakeUp).acquireNow g b.scope else s) := by
  change execBarrierWake g s = _
  rw [execBarrierWake, Strand.bring_of_front (by rw [hw])]
  simp only [hw, hs, hb, ne_eq, not_true_eq_false, if_false]
  rfl

/-- R338. A strand that waits for a timeline goes on when it has reached the threshold. -/
theorem exec_timelineWake {s : State} {g pa : Nat} {thr : DWord} (hw : (s.strand g).wait = .timeline pa thr)
    (hs : (s.strand g).state = .waiting) :
    exec (.timelineWake g) s =
      .next (if s.reached pa thr then (s.modStrand g Strand.wakeUp).acquireNow g 5 else s) := by
  change execTimelineWake g s = _
  rw [execTimelineWake, Strand.bring_of_front (by rw [hw])]
  simp only [hw, hs, decide_true, Bool.true_and]
  rfl

/-! ### Remote messages -/

/-- The state in which the oldest message to a core is performed: it is off the core's list, and the next one is due. -/
def State.takeMessage (s : State) (core : Nat) (rest : List RemoteMsg) : State :=
  let t := s.modCore core (fun c => { c with remote := rest })
  if rest.isEmpty then t else t.dueOnce (.remoteMessage core)

/-- R171. The oldest message whose step can be made is performed, and its reply is due. -/
theorem exec_remoteMessage_performed {s t : State} {core : Nat} {m : RemoteMsg} {rest : List RemoteMsg} {b : List Byte}
    (hr : (s.core core).remote = m :: rest) (h : (s.takeMessage core rest).spPerform core m.off m.op true = some (t, b)) :
    exec (.remoteMessage core) s = .next (t.replyTo m b) := by
  change execRemoteMessage core s = _
  unfold State.takeMessage at h
  simp only [execRemoteMessage, hr, h]

/-- R183. A step that finds its bit in the wrong state leaves its strand waiting at its slot, if the strand is still there. -/
theorem exec_remoteMessage_waits {s : State} {core : Nat} {m : RemoteMsg} {rest : List RemoteMsg}
    (hr : (s.core core).remote = m :: rest) (h : (s.takeMessage core rest).spPerform core m.off m.op true = none) :
    exec (.remoteMessage core) s =
      .next (if (s.takeMessage core rest).liveWork m.work = false then s.takeMessage core rest
        else ((((s.takeMessage core rest).modStrand m.work.g (fun t => { t with sent := false })).modFlight m.work.g
          (fun f => { f with stop := .fullEmpty })).enterWait m.work.g (.fullEmpty core m.off (m.op == .ldfe)))) := by
  change execRemoteMessage core s = _
  unfold State.takeMessage at h ⊢
  simp only [execRemoteMessage, hr, h, Bool.not_eq_true']

/-- The reply to work that has ended goes nowhere. -/
theorem State.replyTo_gone {s : State} {m : RemoteMsg} {b : List Byte} (h : s.liveWork m.work = false) : s.replyTo m b = s := by
  simp [State.replyTo, h]

/-- R171. Where the reply goes, by what the message asks for. -/
theorem State.replyTo_live {s : State} {m : RemoteMsg} (b : List Byte) (h : s.liveWork m.work = true) :
    (m.dest = .none → s.replyTo m b = s.due (.remoteReply m.work.g 33)) ∧
    (m.dest = .step → s.replyTo m b =
      ((s.modStrand m.work.g (fun t => { t with reply8 := some [], unacked := t.unacked + 1 })).due
        (.remoteReply m.work.g 33)).goOn m.work.g) ∧
    (m.dest = .slot → s.replyTo m b =
      (s.modStrand m.work.g (fun t => { t with reply8 := some b })).due (.remoteReply m.work.g m.k)) ∧
    (∀ n, m.dest = .uni n → s.replyTo m b =
      if (s.strand m.work.g).usent = some n then
        (s.setStrand m.work.g { s.strand m.work.g with ureply := some b }).due (.remoteReply m.work.g m.k)
      else if (s.strand m.work.g).trap.leftSent.any (fun x => x.1 == n) then
        s.setStrand m.work.g { s.strand m.work.g with trap := { (s.strand m.work.g).trap with leftReply := some b } }
      else s) ∧
    (∀ id, m.dest = .load id → s.replyTo m b =
      ({ s with loads := updWhere (fun r => r.id == id) (fun r => { r with data := some b }) s.loads } : State).due
        (.globalLoadCompletion id)) := by
  refine ⟨fun hd => ?_, fun hd => ?_, fun hd => ?_, fun n hd => ?_, fun id hd => ?_⟩ <;>
    simp only [State.replyTo, h, hd, Bool.not_true, Bool.false_eq_true, if_false]

/-- A reply that a stopped slot waits for lets the word go on. -/
theorem exec_remoteReply_mine {s : State} {g k : Nat} {f : Flight} (hf : (s.strand g).flight = some f) (hs : f.stop = .remote)
    (hk : f.cursor = k) (hr : (s.strand g).reply8.isSome = true) :
    exec (.remoteReply g k) s = .next ((s.goOn g).retryDie (dieOf g)) := by
  change execRemoteReply g k s = _
  simp [execRemoteReply, hf, hs, hk, hr]

/-- Any other reply is an acknowledgement, or changes nothing. -/
theorem exec_remoteReply_other {s : State} {g k : Nat}
    (h : ∀ f, (s.strand g).flight = some f → f.stop ≠ .remote ∨ f.cursor ≠ k ∨ (s.strand g).reply8 = none) :
    exec (.remoteReply g k) s =
      .next (if k ≠ 33 then s else (s.modStrand g (fun t => { t with unacked := t.unacked - 1 })).retryDie (dieOf g)) := by
  change execRemoteReply g k s = _
  cases hf : (s.strand g).flight with
  | none => simp only [execRemoteReply, hf, Bool.false_eq_true, if_false]
  | some f =>
    have hm : (f.stop == .remote && f.cursor == k && (s.strand g).reply8.isSome) = false := by
      rcases h f hf with h | h | h <;> simp [h]
    simp only [execRemoteReply, hf, hm, Bool.false_eq_true, if_false]

/-- R167. A block that nothing touches returns; any other stays. -/
theorem exec_scratchpadBlockReturn {s : State} {core off : Nat} {b : SpBlock}
    (hb : (s.core core).blocks.find? (fun b => b.off == off) = some b) :
    exec (.scratchpadBlockReturn core off) s =
      .next (if s.blockReady core b then
        (s.modCore core (fun c => { c with blocks := c.blocks.filter (fun x => x.off != off) })).coreReturned core else s) := by
  change execScratchpadBlockReturn core off s = _
  cases h : s.blockReady core b <;> simp [execScratchpadBlockReturn, hb, h]

/-! ### Entries of queues -/

/-- R333, R337. What an entry that has been written leaves. -/
theorem exec_queueEntryWritten {s : State} {id : Nat} {x : QueueXfer}
    (hx : s.xfers.find? (fun x => x.id == id && !x.landed) = some x) {t : State} {r : Nat × List QueueXfer}
    (ht : t = (s.memWrite { host := false, addr := (s.qhead x.hdr).entry x.hdr x.idx.toNat } x.data).taskLine x.work
      ((s.qhead x.hdr).entry x.hdr x.idx.toNat) true)
    (hr : r = settleXfers (updWhere (fun y => y.id == id) (fun y => { y with landed := true }) t.xfers) x.hdr false) :
    exec (.queueEntryWritten id) s =
      .next (({ t with xfers := r.2 } : State).qput x.hdr 12 (((s.qhead x.hdr).filled + r.1) % 2 ^ 32)) := by
  subst ht hr
  change Host.Outcome.next (s.entryWritten id) = _
  simp only [State.entryWritten, hx]

/-- R333, R337. What an entry that has been read leaves: its word goes on, or keeps its registers for TRET. -/
theorem exec_queueEntryRead {s : State} {id g : Nat} {x : QueueXfer}
    (hx : s.xfers.find? (fun x => x.id == id && !x.landed) = some x) (hg : x.g = some g)
    {t u : State} {r : Nat × List QueueXfer} {ws : List Word} {l : List (Nat × Word)}
    (hr : r = settleXfers (updWhere (fun y => y.id == id) (fun y => { y with landed := true }) s.xfers) x.hdr true)
    (ht : t = ({ s with xfers := r.2 } : State).qput x.hdr 8 (((s.qhead x.hdr).free + r.1) % 2 ^ 32))
    (hws : ws = wordsOf (s.memBytes { host := false, addr := (s.qhead x.hdr).entry x.hdr x.idx.toNat } x.n))
    (hu : u = t.taskLine x.work ((s.qhead x.hdr).entry x.hdr x.idx.toNat) false) (hl : u.liveWork x.work = true)
    (hregs : l = ws.zipIdx.map (fun y => (x.d + y.2, y.1)) ++ (if x.try_ then [(x.d + x.n / 4, 0)] else [])) :
    (x.role = .word → exec (.queueEntryRead id) s = .next ((u.acquireNow g 4).homeReply g l)) ∧
    (x.role = .left → exec (.queueEntryRead id) s =
      .next ((u.acquireNow g 4).modStrand g (fun y => { y with trap := { y.trap with leftHome := none, leftRegs := some l } }))) := by
  have he : exec (.queueEntryRead id) s = .next (s.entryRead id) := rfl
  subst hu ht hr hregs hws
  rw [he]
  constructor <;> intro hrole <;>
    simp only [State.entryRead, hx, hg, hl, hrole, Option.getD_some, Bool.not_true, Bool.false_eq_true, if_false]

/-! ### Collectives -/

/-- R341. A record that is bad, or a contribution of the wrong length, ends the collective with BAD_REQUEST. -/
theorem exec_collectiveComplete_bad {s : State} {id : Nat} {c : Collective} (contribs : List (List (BitVec 32)))
    (hc : s.colls.find? (fun c => c.id == id) = some c)
    (h : c.bad = true ∨ c.strangers (s.localRanks c.launch c.grp) contribs = true) :
    exec (.collectiveComplete id contribs) s =
      .next (c.members.foldl (fun (s : State) m => s.collEnd m 4 (some { cause := .illegalOperand }))
        { s with colls := s.colls.filter (fun x => x.id != id) }) := by
  change execCollectiveComplete id contribs s = _
  simp only [execCollectiveComplete, hc, Bool.or_eq_true, if_pos h]

/-- R341. A collective whose time is over ends ABORTED for every member here. -/
theorem exec_collectiveTimeout {s : State} {id : Nat} {c : Collective} (missing : List Nat)
    (hc : s.colls.find? (fun c => c.id == id) = some c) :
    exec (.collectiveTimeout id missing) s =
      .next (c.members.foldl (fun (s : State) m => s.collAbort c m missing) { s with colls := s.colls.filter (fun x => x.id != id) }) := by
  change execCollectiveTimeout id missing s = _
  simp only [execCollectiveTimeout, hc]

/-- The members of a collective with places for all of their buffers, as the package finds them. -/
def allPlaced (oks : List (CollMember × (List PAddr × List PAddr))) :
    List (CollMember × Except CopyStop (List PAddr × List PAddr)) := oks.map (fun x => (x.1, .ok x.2))

/-- R340, R341. A collective whose contributions are complete and whose buffers all have places delivers its results. -/
theorem exec_collectiveComplete_delivers {s t v : State} {id : Nat} {c : Collective} {contribs : List (List (BitVec 32))}
    {lines : List PAddr} {oks : List (CollMember × (List PAddr × List PAddr))}
    (hc : s.colls.find? (fun c => c.id == id) = some c) (hb : c.bad = false)
    (hs : c.strangers (s.localRanks c.launch c.grp) contribs = false)
    (hm : ∀ r ∈ s.localRanks c.launch c.grp, ∃ m ∈ c.members, m.rank = r)
    (hn : (s.localRanks c.launch c.grp).length = c.n ∨ contribs.length = c.n)
    (ha : s.collAll id c.n c.members = (t, allPlaced oks))
    (hl : lines = (oks.flatMap (fun x => (x.2.1 ++ x.2.2).map PAddr.line)).eraseDups)
    (hv : v = ({ t with colls := t.colls.filter (fun x => x.id != id) } : State).collRelease c lines) :
    exec (.collectiveComplete id contribs) s =
      .next ((oks.foldl (fun (w : State) x => w.collDeliver c (collSends v c.n oks contribs) x.1 x.2) v).collAcquire c lines) := by
  have hall : (s.localRanks c.launch c.grp).all (fun r => c.members.any (fun m => m.rank == r)) = true := by
    simpa using hm
  have hnum : ((s.localRanks c.launch c.grp).length != c.n && contribs.length != c.n) = false := by
    rcases hn with h | h <;> simp [h]
  have hpaged : (oks.any fun _ => false) = false := by simp
  have hfailed : oks.filterMap (fun _ => (none : Option Nat)) = [] := by simp
  change execCollectiveComplete id contribs s = _
  simp only [execCollectiveComplete, hc, hb, hs, hall, hnum, ha, allPlaced, List.any_map, List.filterMap_map, List.flatMap_map,
    List.foldl_map, Function.comp_def, hpaged, hfailed, ← hl, ← hv, Bool.or_self, Bool.not_true, Bool.false_eq_true, if_false,
    List.isEmpty_nil, if_true]
  refine congrArg (fun l : List (List Word) =>
    Host.Outcome.next ((oks.foldl (fun w x => w.collDeliver c l x.1 x.2) v).collAcquire c lines)) (List.map_congr_left fun q _ => ?_)
  rw [List.find?_map, Function.comp_def]
  cases List.find? (fun x => x.1.rank == q) oks <;> rfl

/-- Settles O50, by the law of each event. -/
theorem synchronisationEvents : Obligations.SynchronisationEvents := by
  unfold Obligations.SynchronisationEvents
  refine ⟨?noMessage, ?message, fun s m b h => ?reply, fun s m b h => State.replyTo_gone h, fun s g k f hf hs hk hr =>
    exec_remoteReply_mine hf hs hk hr, ?otherReply, ?bit, ?phase, ?block, fun _ _ _ _ _ h => h ▸ rfl, ?barrier,
    fun s id x t r hx ht hr => exec_queueEntryWritten hx ht hr, ?noXfer, fun s id g x t u r ws l hx hg hr ht hws hu hl hregs =>
    exec_queueEntryRead hx hg hr ht hws hu hl hregs, ?timeline, ?noColl, ?collEnds, ?collDelivers⟩
  case noMessage =>
    intro s core h
    change execRemoteMessage core s = _
    rw [execRemoteMessage, h]
  case message =>
    intro s u core m rest hr hu
    change u = s.takeMessage core rest at hu
    subst hu
    refine ⟨fun t b h => exec_remoteMessage_performed hr h, fun h => ?_⟩
    rw [exec_remoteMessage_waits hr h]
    exact ⟨fun hl => by rw [if_pos hl], fun hl => by rw [if_neg (by simp [hl])]⟩
  case reply =>
    obtain ⟨hnone, hstep, hslot, huni, hload⟩ := State.replyTo_live b h
    refine ⟨hnone, hstep, hslot, fun n hd hn => ?_, fun n hd hn => ?_, hload⟩
    · rw [huni n hd, if_pos hn]
    · rw [huni n hd, if_neg hn]
      exact ⟨fun h => if_pos h, fun h => if_neg (by simp [h])⟩
  case otherReply =>
    intro s g k h
    rw [exec_remoteReply_other h]
    exact ⟨fun hk => by rw [if_pos hk], fun hk => by rw [if_neg (not_not_intro hk)]⟩
  case bit => exact fun s g core off b hw hs => next_ite (exec_fullEmptyWake hw hs)
  case phase => exact fun s g core off b hw hs => next_ite (exec_byteBarrierWake hw hs)
  case block => exact fun s core off b hb => by simpa using next_ite (exec_scratchpadBlockReturn hb)
  case barrier => exact fun s g i gen b hw hs hb => by simpa using next_ite (exec_barrierWake hw hs hb)
  case noXfer =>
    intro s id h
    have hw : s.entryWritten id = s := by rw [State.entryWritten, h, List.find?_nil]
    have hr : s.entryRead id = s := by rw [State.entryRead, h, List.find?_nil]
    exact ⟨congrArg Host.Outcome.next hw, congrArg Host.Outcome.next hr⟩
  case timeline => exact fun s g pa thr hw hs => by simpa using next_ite (exec_timelineWake hw hs)
  case noColl =>
    intro s id contribs missing h
    change execCollectiveComplete id contribs s = _ ∧ execCollectiveTimeout id missing s = _
    simp only [execCollectiveComplete, execCollectiveTimeout, h, List.find?_nil, and_self]
  case collEnds =>
    exact fun s id c contribs missing hc => ⟨exec_collectiveComplete_bad contribs hc, exec_collectiveTimeout missing hc⟩
  case collDelivers =>
    intro s t u v id c contribs lines oks hc hb hs hm hn ha hu hl hv
    subst hu
    exact exec_collectiveComplete_delivers hc hb hs hm hn ha hl hv

end Sys2Proof.Machine

/-!
PROOFS. Events of launch queues, gangs and dispatchers (R165, R372 to R383).
-/

namespace Sys2Proof.Machine

open Sys2Proof.Claims

/-! ### The check of a command -/

section Check

variable {s : State} {ctx l : Nat} {it : LaunchItem} (hl : s.headLaunch ctx = some (l, it)) (hq : it.state = .queued)

include hl hq

/-- R372. A command with a bad field is refused. -/
theorem exec_launchCommandCheck_bad (hok : it.commandOk = false) :
    exec (.launchCommandCheck ctx) s = .next ((s.endLaunch l 1).nextCheck ctx) := by
  change execLaunchCommandCheck ctx s = _
  simp [execLaunchCommandCheck, hl, hq, hok]

/-- R377. A gang command whose tick has passed aborts its gang. -/
theorem exec_launchCommandCheck_late (hok : it.commandOk = true) (hg : it.f 147 147 = 1) (ht : it.f 447 384 ≤ s.podTime.toNat) :
    exec (.launchCommandCheck ctx) s = .next (s.abortGang l) := by
  change execLaunchCommandCheck ctx s = _
  simp [execLaunchCommandCheck, hl, hq, hok, hg, ht]

variable (hok : it.commandOk = true) (hg : it.f 147 147 ≠ 1 ∨ s.podTime.toNat < it.f 447 384)

include hok hg

/-- A good command goes on with its placement map and its collective table. -/
theorem exec_launchCommandCheck_good : exec (.launchCommandCheck ctx) s = .next (
    match s.readMap it, s.readTable it with
    | .error e, _ => s.checkStopped l it 2 e
    | _, .error e => s.checkStopped l it 1 e
    | .ok m, .ok t => s.acceptLaunch l it m t) := by
  have hlate : ¬ (it.f 147 147 = 1 ∧ it.f 447 384 ≤ s.podTime.toNat) := by omega
  change execLaunchCommandCheck ctx s = _
  simp only [execLaunchCommandCheck, hl, hq, hok, hlate, ne_eq, not_true_eq_false, Bool.not_true, Bool.false_eq_true, if_false]
  cases s.readMap it <;> cases s.readTable it <;> rfl

/-- A map that cannot be read stops it. -/
theorem exec_launchCommandCheck_map {e : ReadStop} (hm : s.readMap it = .error e) :
    exec (.launchCommandCheck ctx) s = .next (s.checkStopped l it 2 e) := by
  rw [exec_launchCommandCheck_good hl hq hok hg, hm]

/-- A table that cannot be read stops it. -/
theorem exec_launchCommandCheck_table {m : List Word} {e : ReadStop} (hm : s.readMap it = .ok m)
    (ht : s.readTable it = .error e) : exec (.launchCommandCheck ctx) s = .next (s.checkStopped l it 1 e) := by
  rw [exec_launchCommandCheck_good hl hq hok hg, hm, ht]

/-- Else it is accepted. -/
theorem exec_launchCommandCheck_accepts {m : List Word} {t : List (Nat × List (Nat × Nat × Nat))} (hm : s.readMap it = .ok m)
    (ht : s.readTable it = .ok t) : exec (.launchCommandCheck ctx) s = .next (s.acceptLaunch l it m t) := by
  rw [exec_launchCommandCheck_good hl hq hok hg, hm, ht]

end Check

/-- R196. A host page without an answer is asked for. -/
theorem State.checkStopped_asks {s : State} {l n : Nat} {it : LaunchItem} (status : Nat)
    (h : s.takeAnswer 0 { who := .launch l, ctx := it.ctx, host := true, page := n } = none) :
    s.checkStopped l it status (.page n) =
      (s.atsAsk 0 it.ctx n).listAsk 0 { who := .launch l, ctx := it.ctx, host := true, page := n } := by
  simp only [State.checkStopped, h]

/-- R196. A host page that is refused ends the launch. -/
theorem State.checkStopped_refused {s t : State} {l n r : Nat} {it : LaunchItem} (status : Nat)
    (h : s.takeAnswer 0 { who := .launch l, ctx := it.ctx, host := true, page := n } = some (t, r)) :
    s.checkStopped l it status (.page n) = (t.endLaunch l status).nextCheck it.ctx := by
  simp only [State.checkStopped, h]

/-! ### Gangs -/

/-- A launch that is there changes in its own entry. -/
theorem State.modLaunch_of_some {s : State} {l : Nat} {it : LaunchItem} (h : s.launch? l = some it) (f : LaunchItem → LaunchItem) :
    s.modLaunch l f = { s with launches := s.launches.insert l (f it) } := by
  rw [State.modLaunch, h]

/-- R377. A launch's gang fields are settled once every member has been heard from and some fields differ. -/
theorem State.settleFields_of_some {s : State} {l : Nat} {it : LaunchItem} (h : s.launch? l = some it) :
    s.settleFields l =
      if it.heard = false ∨ it.differ = [] then s
      else s.abortGang l (if it.differ.contains ((it.peers ++ it.differ).foldl min s.pkg.num) then 1 else 3) := by
  simp only [State.settleFields, h, Bool.or_eq_true, Bool.not_eq_true', List.isEmpty_iff]

/-- R377. Another member's fields are noted, and settled. -/
theorem exec_gangFieldsMessage {s t : State} {l pkg : Nat} {it x : LaunchItem} {gid : BitVec 32} {tick : BitVec 64} {same : Bool}
    (hl : s.launch? l = some it) (hs : same = decide (it.f 351 320 = gid.toNat ∧ it.f 447 384 = tick.toNat))
    (hx : x = { it with peers := it.peers.filter (· != pkg) ++ (if same then [pkg] else []),
                        differ := it.differ.filter (· != pkg) ++ (if same then [] else [pkg]) })
    (ht : t = { s with launches := s.launches.insert l x }) :
    exec (.gangFieldsMessage l pkg gid tick) s = .next (
      if x.heard = false ∨ x.differ = [] then t
      else t.abortGang l (if x.differ.contains ((x.peers ++ x.differ).foldl min s.pkg.num) then 1 else 3)) := by
  have hsame : (it.f 351 320 == gid.toNat && it.f 447 384 == tick.toNat) = same := by
    rw [hs, Bool.decide_and, Bool.beq_eq_decide_eq, Bool.beq_eq_decide_eq]
  have htl : t.launch? l = some x := by rw [ht]; exact Assoc.find?_insert_self _ l x
  have hpkg : t.pkg = s.pkg := by rw [ht]
  change execGangFieldsMessage l pkg gid tick s = _
  simp only [execGangFieldsMessage, State.modLaunch_of_some hl, hsame, ← hx, ← ht, State.settleFields_of_some htl, hpkg]

/-- R377. At its check the coordinator lets the gang go when every member is ready, and aborts it otherwise. -/
theorem exec_gangGoCheck {s : State} {l : Nat} {it : LaunchItem} (hl : s.launch? l = some it) (hg : it.f 147 147 = 1)
    (hc : s.coordinates it = true) :
    exec (.gangGoCheck l) s = .next (
      if it.ready.eraseDups.length = it.f 362 352 then (s.modLaunch l (fun x => { x with go := true })).gangSend it (.gangGo l)
      else s.abortGang l) := by
  change execGangGoCheck l s = _
  simp only [execGangGoCheck, hl, hg, hc, Nat.one_ne_zero, decide_false, Bool.not_true, Bool.or_self, Bool.false_eq_true, if_false]
  split <;> rfl

/-- R378. At its tick a member with GO starts, and one without it aborts. -/
theorem exec_gangTick {s : State} {l : Nat} {it : LaunchItem} (hl : s.launch? l = some it) (hg : it.f 147 147 = 1)
    (hs : it.started = false) :
    exec (.gangTick l) s = .next (if it.go then s.modLaunch l (fun x => { x with started := true }) else s.abortGang l) := by
  change execGangTick l s = _
  simp only [execGangTick, hl, hg, hs, Nat.one_ne_zero, decide_false, Bool.or_self, Bool.false_eq_true, if_false]
  split <;> rfl

/-- A launch that has started has no tick to come. -/
theorem exec_gangTick_started {s : State} {l : Nat} {it : LaunchItem} (hl : s.launch? l = some it) (hs : it.started = true) :
    exec (.gangTick l) s = .next s := by
  change execGangTick l s = _
  simp [execGangTick, hl, hs]

/-- R378, R409. What ABORT and GANG_LOST do to a gang's launch. -/
theorem exec_gangAbort {s : State} {l : Nat} {it : LaunchItem} (hl : s.launch? l = some it) (lost : Bool) :
    exec (.gangAbort ⟨l, lost⟩) s = .next (
      if it.f 147 147 = 0 then s else if lost then s.killContext it.ctx 7 else if it.started then s else s.failLaunch l 3) := by
  change execGangAbort ⟨l, lost⟩ s = _
  simp only [execGangAbort, hl]

/-! ### The dispatcher -/

/-- R381. With nothing to claim the picked item is placed, and the dispatcher looks again. -/
theorem exec_dispatchPlacement_places {s t : State} {part ctx : Nat} {item : Item} (h : s.pickItem part = some (ctx, item, []))
    (ht : t = match item with | .unit l it p => s.placeUnit l it p | .task it q off => s.stepFree.placeTask ctx it q off) :
    exec (.dispatchPlacement part) s = .next ((t.nextCheck ctx).dueOnce (.dispatchPlacement part)) := by
  subst ht
  change execDispatchPlacement part s = _
  simp only [execDispatchPlacement, h, List.isEmpty_nil, Bool.not_true, Bool.false_eq_true, if_false]
  cases item <;> rfl

/-- R383. With units to claim it claims them. -/
theorem exec_dispatchPlacement_claims {s : State} {part ctx : Nat} {item : Item} {c : Nat × UnitKind} {cs : List (Nat × UnitKind)}
    (h : s.pickItem part = some (ctx, item, c :: cs)) :
    exec (.dispatchPlacement part) s = .next (s.beginClaims ctx (c :: cs)) := by
  change execDispatchPlacement part s = _
  simp only [execDispatchPlacement, h, List.isEmpty_cons, Bool.not_false, if_true]

/-- Reading a map whose values have been changed key by key. -/
theorem Assoc.find?_map {α : Type} (m : Assoc α) (f : Nat → α → α) (i : Nat) :
    Assoc.find? (m.map (fun x => (x.1, f x.1 x.2))) i = (m.find? i).map (f i) := by
  induction m with
  | nil => rfl
  | cons p m ih =>
    obtain ⟨k, v⟩ := p
    by_cases h : i = k
    · subst h
      simp [Assoc.find?]
    · simp [Assoc.find?, h, ih]

/-- R381. A task that is passed over for 1 ms blocks, if it still waits. -/
def blockTask (item : Nat) (x : TaskItem) : TaskItem := if x.id = item ∧ !x.running then { x with blocking := true } else x

/-- R381. The launch that is passed over for 1 ms blocks. -/
def blockLaunch (ctx item l : Nat) (x : LaunchItem) : LaunchItem :=
  if l = item ∧ x.ctx = ctx then { x with blocking := true } else x

/-- The tasks of a context after an item of it has been passed over. -/
theorem State.passedOver_tasks (s : State) (ctx item : Nat) :
    (({ s with ctxs := s.ctxs.map (fun (x : Nat × Ctx) =>
      (x.1, if x.1 = ctx then { x.2 with tasks := x.2.tasks.map (blockTask item) } else x.2)) } : State).ctx ctx).tasks =
        (s.ctx ctx).tasks.map (blockTask item) := by
  unfold State.ctx
  have h := Assoc.find?_map s.ctxs (fun c x => if c = ctx then { x with tasks := x.tasks.map (blockTask item) } else x) ctx
  dsimp only at h ⊢
  rw [h]
  cases s.ctxs.find? ctx <;> simp

/-! ### Reservations -/

/-- The earlier of two requests, the first of equal ones. -/
def earlier (b : Option (Nat × Nat)) (x : Nat × Nat) : Option (Nat × Nat) :=
  match b with
  | none => some x
  | some y => if x.1 < y.1 then some x else some y

/-- The earliest of some requests is one of them, and none is before it. -/
theorem foldl_earlier_cons (y : Nat × Nat) (l : List (Nat × Nat)) :
    ∃ a ∈ y :: l, (∀ x ∈ y :: l, a.1 ≤ x.1) ∧ (y :: l).foldl earlier none = some a := by
  induction l generalizing y with
  | nil => exact ⟨y, by simp, by simp, rfl⟩
  | cons z l ih =>
    by_cases h : z.1 < y.1
    · obtain ⟨a, hm, ha, hf⟩ := ih z
      have hz := ha z (by simp)
      refine ⟨a, List.mem_cons_of_mem _ hm, List.forall_mem_cons.mpr ⟨by omega, ha⟩, ?_⟩
      simpa [earlier, h] using hf
    · obtain ⟨a, hm, ha, hf⟩ := ih y
      obtain ⟨hy, hl⟩ := List.forall_mem_cons.mp ha
      refine ⟨a, ?_, List.forall_mem_cons.mpr ⟨hy, List.forall_mem_cons.mpr ⟨by omega, hl⟩⟩, ?_⟩
      · rcases List.mem_cons.mp hm with rfl | hm
        · exact List.mem_cons_self
        · exact List.mem_cons_of_mem _ (List.mem_cons_of_mem _ hm)
      · simpa [earlier, h] using hf

/-- R165. The i-th range of a size on a core holds no block that cannot come back, as the dispatcher tests it. -/
def State.rangeClear (s : State) (core lg i : Nat) : Bool :=
  (s.core core).blocks.all (fun b =>
    !(rangesMeet b.off (2 ^ b.lg) (i * 2 ^ lg) (2 ^ lg) && (b.exitPending || b.users.any (fun g => (s.strand g).state == .halted))))

theorem State.rangeClear_iff (s : State) (core lg i : Nat) : s.rangeClear core lg i = true ↔ RangeFree s core lg i := by
  simp only [State.rangeClear, RangeFree, List.all_eq_true, Bool.not_eq_true', Bool.and_eq_false_imp, Bool.or_eq_false_iff,
    List.any_eq_false, beq_iff_eq, ne_eq]

/-- R165. The lowest range of a size on a core that is clear. -/
def State.clearRange (s : State) (core lg : Nat) : Option Nat := (List.range (2 ^ (21 - lg))).find? (s.rangeClear core lg)

theorem State.clearRange_none {s : State} {core lg : Nat} (h : ∀ i, i < 2 ^ (21 - lg) → ¬ RangeFree s core lg i) :
    s.clearRange core lg = none :=
  List.find?_eq_none.mpr fun i hi => by simpa only [State.rangeClear_iff] using h i (List.mem_range.mp hi)

theorem State.clearRange_some {s : State} {core lg i : Nat} (hi : i < 2 ^ (21 - lg)) (hf : RangeFree s core lg i)
    (hlow : ∀ j, j < i → ¬ RangeFree s core lg j) : s.clearRange core lg = some i := by
  refine List.find?_range_eq_some.mpr ⟨(s.rangeClear_iff core lg i).mpr hf, List.mem_range.mpr hi, fun j hj => ?_⟩
  simpa only [Bool.not_eq_true', Bool.eq_false_iff, ne_eq, State.rangeClear_iff] using hlow j hj

/-- R165. A core with a reservation makes no other. -/
theorem exec_scratchpadReservation_reserved {s : State} {core : Nat} (lg : Nat) (hr : (s.core core).reserved ≠ none) :
    exec (.scratchpadReservation core lg) s = .next s := by
  obtain ⟨r, hr⟩ := Option.ne_none_iff_exists'.mp hr
  change execScratchpadReservation core lg s = _
  simp only [execScratchpadReservation, hr]

/-- R165. A core without a reservation makes one for the earliest request of the size, at the lowest clear range. -/
theorem exec_scratchpadReservation {s : State} {core lg part : Nat} (hr : (s.core core).reserved = none)
    (hp : s.partOfCore core = some part) :
    exec (.scratchpadReservation core lg) s = .next (
      match (spadAsks s part lg).foldl earlier none, s.clearRange core lg with
      | some a, some i =>
        if 10 ≤ lg ∧ lg ≤ 21 then
          s.setCore core { s.core core with reserved := some { off := i * 2 ^ lg, lg := lg, ctx := a.2, order := a.1 } }
        else s
      | _, _ => s) := by
  change execScratchpadReservation core lg s = _
  simp only [execScratchpadReservation, hr, hp, List.find?_map]
  change (match (spadAsks s part lg).foldl earlier none, (s.clearRange core lg).map (fun i => i * 2 ^ lg) with
    | some a, some o =>
      if 10 ≤ lg ∧ lg ≤ 21 then
        Host.Outcome.next
          (s.setCore core { s.core core with reserved := some { off := o, lg := lg, ctx := a.2, order := a.1 } })
      else .next s
    | _, _ => .next s) = _
  cases (spadAsks s part lg).foldl earlier none <;> cases s.clearRange core lg <;> dsimp only [Option.map]
  split <;> rfl

/-- Settles O51, by the law of each event; the reservation by the earliest request (`foldl_earlier_cons`) and the lowest clear
range (`clearRange_some`). -/
theorem launchEvents : Obligations.LaunchEvents := by
  unfold Obligations.LaunchEvents
  refine ⟨?check, ?fields, ?gang, ?nothing, ?unit, ?task, ?claims, ?passover,
    fun s core lg hr => exec_scratchpadReservation_reserved lg hr, ?reservation⟩
  case check =>
    intro s ctx l it hl hq
    refine ⟨exec_launchCommandCheck_bad hl hq, exec_launchCommandCheck_late hl hq, fun hok hg => ?_⟩
    have map {e} := exec_launchCommandCheck_map hl hq hok hg (e := e)
    have table {m e} := exec_launchCommandCheck_table hl hq hok hg (m := m) (e := e)
    refine ⟨map, fun m => table, fun n m a ha hpage hnone => ?_, fun n r t hm ht => ?_, fun n r m t hm ht hr => ?_,
      fun m t => exec_launchCommandCheck_accepts hl hq hok hg⟩
    · subst ha
      rcases hpage with hm | ⟨hm, ht⟩
      · rw [map hm, State.checkStopped_asks 2 hnone]
      · rw [table hm ht, State.checkStopped_asks 1 hnone]
    · rw [map hm, State.checkStopped_refused 2 ht]
    · rw [table hm ht, State.checkStopped_refused 1 hr]
  case fields =>
    intro s t l pkg it x gid tick same hl hs hx ht
    rw [exec_gangFieldsMessage hl hs hx ht]
    exact ⟨fun h => by rw [if_pos h], fun hh hd => by rw [if_neg (by simp [hh, hd])]⟩
  case gang =>
    intro s l pkg it hl
    refine ⟨rfl, rfl, fun hg hc => next_ite (exec_gangGoCheck hl hg hc), fun hg hs => ?_, fun hg => ?_, fun hs => ?_⟩
    · rw [exec_gangAbort hl, exec_gangTick hl hg hs]
      exact ⟨by simp [hg, hs], fun h => by rw [if_pos h], fun h => by rw [if_neg (by simp [h])]⟩
    · rw [exec_gangAbort hl]
      simp [hg]
    · rw [exec_gangAbort hl, exec_gangTick_started hl hs]
      simp [hs]
  case nothing =>
    intro s part h
    change execDispatchPlacement part s = _
    rw [execDispatchPlacement, h]
  case unit => exact fun s part ctx l p it h => exec_dispatchPlacement_places h rfl
  case task => exact fun s part ctx q off it h => exec_dispatchPlacement_places h rfl
  case claims => exact fun s part ctx item c cs h => exec_dispatchPlacement_claims h
  case passover =>
    exact fun s ctx item => ⟨_, rfl, s.passedOver_tasks ctx item, fun l => Assoc.find?_map s.launches (blockLaunch ctx item) l,
      fun _ => rfl, rfl⟩
  case reservation =>
    intro s core lg part hr hp
    rw [exec_scratchpadReservation hr hp]
    constructor
    · intro h
      split
      · rename_i a i ha hi
        have hout : ¬ (10 ≤ lg ∧ lg ≤ 21) := by
          rcases h with h | h | h | h
          · rw [h] at ha
            cases ha
          · omega
          · omega
          · rw [State.clearRange_none h] at hi
            cases hi
        rw [if_neg hout]
      · rfl
    · intro i hi hf hlow h10 h21 hne
      obtain ⟨y, l, hyl⟩ := List.exists_cons_of_ne_nil hne
      obtain ⟨a, hm, ha, hfold⟩ := foldl_earlier_cons y l
      rw [hyl, hfold, State.clearRange_some hi hf hlow]
      exact ⟨a, hm, ha, by simp only [h10, h21, and_self, if_true]⟩

end Sys2Proof.Machine
